-- ==== Sys2Proof/Word.lean ====
section
/-! DEFINITION. The word types of the two lines: bytes, two-byte minutes, and the sets the lines carry as bits (R197). -/

namespace Sys2Proof

/-- One byte on the host link or the cell bus. -/
abbrev Byte := BitVec 8

/-- A minute as a two-byte field carries it: every value 0 to 65,535 (R32, R33). -/
abbrev MinuteField := BitVec 16

/-- A set of notice flags, flag n in bit n (R197): the eleven flags of R191. -/
abbrev NoticeSet := BitVec 11

/-- A set of fault kinds, kind code k in bit k - 1 (R197): the seventeen kinds of R164. -/
abbrev KindSet := BitVec 17

/-- A set of benches, bench b in bit b - 1 (R49). -/
abbrev BenchSet := BitVec 12

end Sys2Proof
end

