-- ==== Sys2Proof/Syntax.lean ====
section
/-! DEFINITION. The commands the part takes: one constructor per row of spec/opcode_table.json, with the operands its record carries. -/

namespace Sys2Proof

/-- Handling class of a SKU (R3; codes R197). -/
inductive ItemClass where
  | ambient | heavy | fragile | chilled
  deriving DecidableEq, Repr

/-- The states of an order in a non-FREE slot (R2). -/
inductive OrderState where
  | loaded | building | held | complete | sealed | dispatched | cancelling | cancelled
  deriving DecidableEq, Repr

/-- A point of the sorter or the buffer as a field record names it (R57). `other` stands for NONE and for every
value that names no point. -/
inductive Point where
  | bench (n : Nat) | buffer | exception | other
  deriving DecidableEq, Repr, Inhabited

/-- The reason of a Place Refused (R123); `other` is every value outside the three. -/
inductive RefuseReason where
  | damaged | wrongItem | noRoom | other
  deriving DecidableEq, Repr, Inhabited

/-- Severity actions (R166). -/
inductive FaultAction where
  | logOnly | notice | noticeAndAttention | halt
  deriving DecidableEq, Repr, Inhabited

/-- Polarity of the attention line (R192). -/
inductive Polarity where
  | activeLow | activeHigh
  deriving DecidableEq, Repr, Inhabited

/-- What every host request carries beside its fields (R189, R198): its tag; whether the length of its body fits its
kind; whether every enumerated field holds one of its values. The body layouts are not in the spec but for Load
Order, so the last two are operands (log entry 7). -/
structure ReqHead where
  tag : Byte
  lengthOk : Bool
  valueOk : Bool
  deriving DecidableEq, Repr

/-- What every field record carries beside its fields (R190): the unit address, and whether its body length fits its
kind (log entry 7). -/
structure RecHead where
  addr : Byte
  lengthOk : Bool
  deriving DecidableEq, Repr

/-- Slot count and capacity of one zone as Set Template carries them (R112). -/
structure ZonePlan where
  slots : Nat
  capacity : Nat
  deriving DecidableEq, Repr

/-- The fields of a template entry (R112). -/
structure TemplatePlan where
  sizeClass : Nat
  massLimit : Nat
  base : ZonePlan
  middle : ZonePlan
  top : ZonePlan
  pocket : ZonePlan
  deriving DecidableEq, Repr

/-- One kind entry of Set Fault Map (R172). -/
structure MapField where
  code : Nat
  enable : Bool
  severity : Nat
  deriving DecidableEq, Repr

/-- The commands: one constructor per row of spec/opcode_table.json, in the table's order. -/
inductive Instr where
  | powerUp
  | minuteTick
  | clockLimit
  | waveCut (wave : Nat)
  | dwellExpired (tag : Nat)
  | shortagePass
  | placeTimeout (tag : Nat)
  | restartForced
  | boundaryRestart
  | drainComplete
  | linkFrame (bytes : List Byte)
  | linkByteGap
  | cellBusFrame (bytes : List Byte)
  | cellBusByteGap
  | unknownKind (tag : Byte) (kind : Byte)
  | busy (bytes : List Byte)
  | noticeFrame
  | getIdentity (rq : ReqHead)
  | getCellStatus (rq : ReqHead)
  | commitSetup (rq : ReqHead)
  | startCell (rq : ReqHead)
  | pauseCell (rq : ReqHead)
  | stopCell (rq : ReqHead)
  | clearHalt (rq : ReqHead)
  | restartCellImmediate (rq : ReqHead)
  | restartCellAtBoundary (rq : ReqHead)
  | getRestartCauses (rq : ReqHead)
  | clearRestartCauses (rq : ReqHead)
  | setClock (rq : ReqHead) (minute : MinuteField)
  | setWave (rq : ReqHead) (wave lane : Nat) (cutoff : MinuteField)
  | departWave (rq : ReqHead) (wave : Nat)
  | getWave (rq : ReqHead) (wave : Option Nat)
  | loadOrder (tag : Byte) (body : List Byte)
  | setQuantity (rq : ReqHead) (ref line required : Nat)
  | addLine (rq : ReqHead) (ref sku cls required group : Nat)
  | removeLine (rq : ReqHead) (ref line : Nat)
  | setPriority (rq : ReqHead) (ref priority : Nat)
  | amendSetWave (rq : ReqHead) (ref wave : Nat)
  | holdOrder (rq : ReqHead) (ref : Nat)
  | resumeOrder (rq : ReqHead) (ref : Nat)
  | cancelOrder (rq : ReqHead) (ref : Nat)
  | retireOrder (rq : ReqHead) (ref : Nat)
  | declareShort (rq : ReqHead) (ref line : Nat)
  | restoreLine (rq : ReqHead) (ref line : Nat)
  | closeLine (rq : ReqHead) (ref line : Nat)
  | getOrder (rq : ReqHead) (ref : Nat)
  | listOrders (rq : ReqHead) (states : List OrderState) (overdue late : Bool)
  | setTemplate (rq : ReqHead) (number : Nat) (plan : TemplatePlan)
  | setBenchProfile (rq : ReqHead) (bench : Nat) (chilled heavy : Option Bool) (largest items vu : Option Nat)
  | setCommonPool (rq : ReqHead) (items vu : Nat)
  | setCommonCap (rq : ReqHead) (bench : Option Nat) (items vu : Nat)
  | setLaneProfile (rq : ReqHead) (lane : Nat) (vector : List Nat)
  | setAdmissionSchedule (rq : ReqHead) (entries : List Nat)
  | setLoop (rq : ReqHead) (capacity lapLimit : Option Nat)
  | setTimers (rq : ReqHead) (dwell shortage placement restart : Option Nat)
  | setSubstitutionGroup (rq : ReqHead) (group count : Nat) (skus : List Nat)
  | setRushFloor (rq : ReqHead) (floor : Nat)
  | setDispatchLane (rq : ReqHead) (lane : Nat) (capacity matchCount : Option Nat)
  | setLateLane (rq : ReqHead) (lane : Nat)
  | cageSwapped (rq : ReqHead) (lane : Nat)
  | getItem (rq : ReqHead) (tag : Option Nat)
  | getBench (rq : ReqHead) (bench : Option Nat)
  | getStaging (rq : ReqHead) (bench : Option Nat)
  | setFaultMap (rq : ReqHead) (count : Nat) (entries : List MapField) (action0 action1 action2 : Option FaultAction)
  | setCounterSelect (rq : ReqHead) (counter : Nat) (codes : List Nat)
  | getFaultRecords (rq : ReqHead) (severity : Option Nat)
  | clearFaultRecords (rq : ReqHead) (severity : Option Nat)
  | getCounters (rq : ReqHead)
  | clearCounter (rq : ReqHead) (counter : Nat)
  | setNoticeEnable (rq : ReqHead) (flags : BitVec 16)
  | setAttentionPolarity (rq : ReqHead) (polarity : Polarity)
  | getNotices (rq : ReqHead)
  | acknowledgeNotices (rq : ReqHead) (flags : BitVec 16)
  | arrival (addr : Byte) (body : List Byte)
  | mergeReady (hd : RecHead)
  | divertDone (hd : RecHead) (tag : Nat) (point : Point)
  | loopPass (hd : RecHead) (tag : Nat)
  | delivered (hd : RecHead) (tag : Nat) (point : Point)
  | releaseFailed (hd : RecHead) (tag : Nat)
  | benchOpen (hd : RecHead)
  | benchClose (hd : RecHead)
  | baseFitted (hd : RecHead)
  | pocketFitted (hd : RecHead)
  | placed (hd : RecHead) (tag : Nat)
  | placeRefused (hd : RecHead) (tag : Nat) (reason : RefuseReason)
  | returned (hd : RecHead) (tag : Nat)
  | pulled (hd : RecHead) (tag : Nat)
  | hamperSealed (hd : RecHead)
  | hamperOut (hd : RecHead)
  | unpacked (hd : RecHead)
  | admitHead
  | binding
  | placeItem (bench : Nat)
  | sealHamper (bench : Nat)
  | bufferRelease
  | hamperRelease (lane : Nat)
  | requestQueued (bytes : List Byte)
  | transmitterFree
  | misaddressedRecord (addr : Byte) (kind : Byte)
  deriving DecidableEq, Repr

end Sys2Proof
end

