-- ==== Sys2Proof/Config.lean ====
section
/-! DEFINITION. What the part fixes once (its sizes), and the free values: choices the spec leaves open, which no proof can evaluate. -/

namespace Sys2Proof.Config

/-- R1: order slots. -/
def orderSlots : Nat := 64
/-- R1: line records in the shared pool. -/
def linePool : Nat := 640
/-- R1: lines of one order. -/
def maxLines : Nat := 24
/-- R1: required units of one order. -/
def maxUnits : Nat := 96
/-- R39: item records. -/
def maxItems : Nat := 320
/-- R44: tags of one lane queue. -/
def queueRoom : Nat := 4
/-- R93: entries of the release list. -/
def releaseRoom : Nat := 2
/-- R119: tags of one placement list. -/
def placeRoom : Nat := 4
/-- R189: requests of the receive queue, and BUSY replies held. -/
def linkRoom : Nat := 4
/-- R27, R31: the minute is held here. -/
def lastMinute : Nat := 65535
/-- R4: the modulus of the load sequence. -/
def loadModulus : Nat := 65536
/-- R41: the modulus of the chute entry counter. -/
def entryModulus : Nat := 4294967296
/-- R187: vendor code, part code, revision. -/
def vendorCode : Nat := 0x0D5B
def partCode : Nat := 0x0C12
def revision : Nat := 3

/-- FREE VALUE (log entry 3): which of two outcomes the part takes where the spec allows both. -/
opaque freeBit : Nat → Bool

/-- FREE VALUE (log entries 3 and 5): which of several items the part takes next where the spec allows any order. -/
opaque freePick : Nat → Nat

/-- FREE VALUE (log entry 8): whether a BUSY reply carries the request kind itself ("with its tag and kind echoed") or
the kind of a reply, which adds 0x80; the words of R189 allow both. -/
opaque busyKindPlain : Bool

/-- FREE VALUE (log entry 15): the detail of a report to which the spec gives none. -/
opaque freeByte : Nat → Byte

/-- FREE VALUE (log entry 7): whether the body of a request whose layout the spec does not give has a length that fits its
kind. -/
opaque requestLengthOk (kind : Byte) (body : List Byte) : Bool

/-- FREE VALUE (log entry 7): whether every enumerated field of such a body holds one of its values. -/
opaque requestValueOk (kind : Byte) (body : List Byte) : Bool

/-- FREE VALUE (log entry 7): the offset of entry `n` of field `k` in such a body. -/
opaque fieldPlace (kind : Byte) (body : List Byte) (k n : Nat) : Nat

/-- FREE VALUE (log entry 7): the number of entries of field `k` of such a body, where it is a list. -/
opaque fieldCount (kind : Byte) (body : List Byte) (k : Nat) : Nat

/-- FREE VALUE (log entry 7): the bytes beyond the first of field `k` of a request, where the spec gives no code and so no
width. -/
opaque codeExtra (kind : Byte) (k : Nat) : Nat

/-- FREE VALUE (log entry 7): the value that the number of field `k` of a request stands for, where the spec gives no
code. -/
opaque codeValue {α : Type} [Inhabited α] (kind : Byte) (k n : Nat) : α

/-- FREE VALUE (log entry 14): the body length of an incoming record of a kind other than Arrival, whose layout the spec
does not give. -/
opaque recordLength (kind : Nat) : Nat

/-- FREE VALUE (log entry 14): the offset of the tag in the body of such a record. -/
opaque recordTagPlace (kind : Nat) (body : List Byte) : Nat

/-- FREE VALUE (log entry 14): the point that the body of a Divert Done or a Delivered names. -/
opaque recordPoint (kind : Nat) (body : List Byte) : Point

/-- FREE VALUE (log entry 14): the reason that the body of a Place Refused names. -/
opaque recordReason (body : List Byte) : RefuseReason

end Sys2Proof.Config
end

