-- ==== Sys2Proof/Machine/State.lean ====
section
/-! DEFINITION. State: every piece of state the spec gives the part, block by block, as plain data, and its values at power-up. -/

namespace Sys2Proof.Machine

open Sys2Proof

/-! ### Hall Clock and Wave Table (R27, R28) -/

/-- R27: the hall minute and the clock-set flag. -/
structure Clock where
  minute : Nat
  isSet : Bool
  deriving DecidableEq, Repr

inductive WaveState where
  | unused | planned | cut | departed
  deriving DecidableEq, Repr

/-- R28: one wave entry. -/
structure Wave where
  number : Nat
  state : WaveState
  lane : Option Nat
  cutoff : Option Nat
  deriving DecidableEq, Repr

/-! ### Order Book (R1 to R4) -/

inductive LineState where
  | opened | short | filled | closed
  deriving DecidableEq, Repr

/-- R3: one line record. Its number is its position in the order's list. -/
structure Line where
  sku : Nat
  cls : ItemClass
  required : Nat
  committed : Nat
  placed : Nat
  substituted : Nat
  group : Nat
  state : LineState
  shortMark : Bool
  lastProgress : Nat
  deriving DecidableEq, Repr

/-- R12: the top gate. -/
inductive Gate where
  | opened | shut
  deriving DecidableEq, Repr

/-- R2: one order record of a non-FREE slot. -/
structure Order where
  slot : Nat
  ref : Nat
  loadSeq : Nat
  priority : Nat
  wave : Nat
  template : Nat
  state : OrderState
  held : Bool
  bench : Option Nat
  overdue : Bool
  late : Bool
  topGate : Option Gate
  fragileBegun : Bool
  withdrawals : Nat
  lines : List Line
  sealMinute : Option Nat
  dispatchLane : Option Nat
  deriving DecidableEq, Repr

/-- R1, R4: the orders in rising slot (a slot no order names is FREE) and the load sequence counter. -/
structure Book where
  orders : List Order
  loadSeq : Nat
  deriving DecidableEq, Repr

/-! ### Loop Tracker and Lane Admission Unit (R39 to R55) -/

/-- Zones of a hamper (R67, codes R197). -/
inductive Zone where
  | base | middle | top | pocket
  deriving DecidableEq, Repr

/-- R41: where a tracked item is. -/
inductive Location where
  | atLane | onLoop | inBuffer | bufferToChute | inChute | inHamper
  deriving DecidableEq, Repr

/-- R40: an item's allocation. -/
structure Alloc where
  slot : Nat
  line : Nat
  bench : Nat
  rank : Nat
  zone : Zone
  slotNo : Nat
  deriving DecidableEq, Repr

/-- R69. -/
inductive WaitCause where
  | none | topGate | pocket
  deriving DecidableEq, Repr

/-- R87: the credits an item holds, with the bench they are counted against. -/
inductive Hold where
  | none | chute (b : Nat) | common (b : Nat) | both (b : Nat)
  deriving DecidableEq, Repr

/-- R40: the bench instruction outstanding for an item, with its issue minute. -/
inductive Outstanding where
  | none | place (minute : Nat) | ret (minute : Nat) | pull (minute : Nat)
  deriving DecidableEq, Repr

/-- R40: one item record. -/
structure Item where
  tag : Nat
  sku : Nat
  cls : ItemClass
  mass : Nat
  vu : Nat
  lane : Nat
  chillExit : Option Nat
  deadline : Option Nat
  expired : Bool
  location : Location
  locBench : Option Nat
  withdrawal : Option Nat
  laps : Nat
  dest : Option Point
  alloc : Option Alloc
  wait : WaitCause
  hold : Hold
  outstanding : Outstanding
  entrySeq : Nat
  deriving DecidableEq, Repr

/-- R47. -/
inductive LaneSignal where
  | go | hold
  deriving DecidableEq, Repr

/-- R44, R47, R49: one induction lane. -/
structure Lane where
  number : Nat
  queue : List Nat
  signal : LaneSignal
  vector : BenchSet
  deriving DecidableEq, Repr

/-- R50, R52: the admission schedule (0 for empty), its pointer and the merge-free flag. -/
structure Admission where
  schedule : List Nat
  pointer : Nat
  mergeFree : Bool
  deriving DecidableEq, Repr

/-- R55: loop capacity and lap limit. -/
structure LoopSettings where
  capacity : Nat
  lapLimit : Nat
  deriving DecidableEq, Repr

/-! ### Staging Credit Unit (R85 to R107) -/

/-- R85, R86: the staging figures of one bench: its chute reserve and what is free of it, its common cap and its
holding of the common pool. -/
structure Chute where
  bench : Nat
  reserveItems : Nat
  reserveVu : Nat
  freeItems : Nat
  freeVu : Nat
  capItems : Nat
  capVu : Nat
  heldItems : Nat
  heldVu : Nat
  deriving DecidableEq, Repr

/-- R86: the common pool and what is free of it. -/
structure Pool where
  items : Nat
  vu : Nat
  freeItems : Nat
  freeVu : Nat
  deriving DecidableEq, Repr

/-- R93, R95: the release list in issue order, the held-back set (tags rising) and the bench pointer. -/
structure Arbiter where
  releases : List (Nat × Point)
  heldBack : List Nat
  pointer : Nat
  deriving DecidableEq, Repr

/-! ### Bench Controllers (R108 to R134) -/

/-- R114. -/
inductive SlotState where
  | free | reserved | filled
  deriving DecidableEq, Repr

/-- R113: one zone of a hamper; its slots from its first slot up. -/
structure ZoneRec where
  templateCapacity : Nat
  capacity : Nat
  clamped : Bool
  committed : Nat
  slots : List SlotState
  deriving DecidableEq, Repr

/-- R118. -/
inductive PocketState where
  | none | requested | fitted
  deriving DecidableEq, Repr

/-- R120, R127: one entry of a placement list. -/
structure PlaceEntry where
  tag : Nat
  timedOut : Bool
  deriving DecidableEq, Repr

/-- R113: the hamper record. -/
structure Hamper where
  template : Nat
  massLimit : Nat
  mass : Nat
  base : ZoneRec
  middle : ZoneRec
  top : ZoneRec
  pocketZone : ZoneRec
  baseClosed : Bool
  pocket : PocketState
  places : List PlaceEntry
  deriving DecidableEq, Repr

inductive BenchState where
  | closed | idle | fitting | building | sealing | holding | releasing | unpacking
  deriving DecidableEq, Repr

/-- R108: the bench record. -/
structure Bench where
  number : Nat
  state : BenchState
  staffed : Bool
  stalled : Bool
  chilledCapable : Bool
  heavyCapable : Bool
  largestSize : Nat
  orderSlot : Option Nat
  unpacked : Bool
  hamper : Option Hamper
  deriving DecidableEq, Repr

/-- R112: one template entry, undefined while `plan` is absent. -/
structure Template where
  number : Nat
  plan : Option TemplatePlan
  deriving DecidableEq, Repr

/-! ### Timers and Substitution Table (R135, R141) -/

/-- R135. -/
structure Timers where
  dwellBudget : Nat
  shortageLimit : Nat
  placementLimit : Nat
  restartWait : Nat
  deriving DecidableEq, Repr

/-- R141: one substitution group, first preference first. -/
structure Group where
  number : Nat
  skus : List Nat
  deriving DecidableEq, Repr

/-! ### Dispatch Unit (R152) -/

/-- R152: one dispatch lane record; the holding list holds (bench, order slot) in seal order. -/
structure DispatchLane where
  number : Nat
  capacity : Nat
  count : Nat
  inFlight : Nat
  matchCount : Nat
  full : Bool
  holding : List (Nat × Nat)
  deriving DecidableEq, Repr

/-! ### Fault Monitor (R164 to R175) -/

/-- R164: the seventeen fault kinds. -/
inductive FaultKind where
  | linkFrame | cellBusFrame | fieldMismatch | dupTag | laneOverrun | classConflict | fitRefused | noHome | misroute
  | placeRefused | placeTimeout | dwellExpired | cageFull | lateHamper | bufferFault | restartForced | clockLimit
  deriving DecidableEq, Repr

/-- R164: the context of a fault report, each field present or absent. -/
structure FaultCtx where
  tag : Option Nat
  slot : Option Nat
  bench : Option Nat
  lane : Option Nat
  sku : Option Nat
  deriving DecidableEq, Repr

/-- R167: one fault record. -/
structure FaultRecord where
  kind : FaultKind
  minute : Nat
  ctx : FaultCtx
  detail : Nat
  deriving DecidableEq, Repr

/-- R165: the fault map's entry of one kind. -/
structure MapEntry where
  kind : FaultKind
  enabled : Bool
  severity : Nat
  deriving DecidableEq, Repr

/-- R166, R167: one severity: its action and its two record places. -/
structure Severity where
  number : Nat
  action : FaultAction
  first : Option FaultRecord
  latest : Option FaultRecord
  deriving DecidableEq, Repr

/-- R169: one fault counter. -/
structure Counter where
  number : Nat
  value : Nat
  overflow : Bool
  select : KindSet
  deriving DecidableEq, Repr

structure FaultMonitor where
  map : List MapEntry
  severities : List Severity
  seen : KindSet
  counters : List Counter
  deriving DecidableEq, Repr

/-! ### Cell State Control (R176) -/

inductive CellState where
  | setup | ready | running | paused | draining | halted | restarting
  deriving DecidableEq, Repr

/-- R176: the one restart mode that State can hold. -/
inductive RestartMode where
  | atBoundary
  deriving DecidableEq, Repr

/-- R176, R186: the restart cause record, a set. -/
structure Causes where
  powerUp : Bool
  immediate : Bool
  boundary : Bool
  forced : Bool
  deriving DecidableEq, Repr

structure Cell where
  state : CellState
  committed : Bool
  mode : Option RestartMode
  deadline : Option Nat
  causes : Causes
  deriving DecidableEq, Repr

/-! ### Host Link Interface and Cell Bus Interface (R188 to R193) -/

/-- R189: reply statuses. -/
inductive Status where
  | ok | unknownKind | badLength | badValue | wrongState | noRoom | notFound | duplicate | inUse | incomplete | busy
  deriving DecidableEq, Repr

/-- R36: one entry of a Get Wave reply. -/
structure WaveView where
  wave : Wave
  refs : Nat
  unsealed : Nat
  deriving DecidableEq, Repr

/-- R23: one entry of a List Orders reply. -/
structure OrderEntry where
  slot : Nat
  ref : Nat
  state : OrderState
  held : Bool
  overdue : Bool
  late : Bool
  deriving DecidableEq, Repr

/-- R187: the fields of a Get Cell Status reply. -/
structure CellView where
  state : CellState
  committed : Bool
  mode : Option RestartMode
  deadline : Option Nat
  minute : Nat
  clockSet : Bool
  quiet : Bool
  occupancy : Nat
  releases : Nat
  outstanding : Nat
  templates : Nat
  waves : Nat
  deriving DecidableEq, Repr

/-- R43: the loop and lane summary. -/
structure LoopView where
  items : Nat
  occupancy : Nat
  capacity : Nat
  lapLimit : Nat
  mergeFree : Bool
  pointer : Nat
  lanes : List Lane
  deriving DecidableEq, Repr

/-- R133: a placement list entry as Get Bench gives it. -/
structure PlaceView where
  tag : Nat
  issued : Option Nat
  timedOut : Bool
  deriving DecidableEq, Repr

/-- R133: one bench of a Get Bench reply: its record with its hamper, the first slot numbers of BASE, MIDDLE, TOP and
POCKET, and the placement list. -/
structure BenchView where
  bench : Bench
  firstSlots : List Nat
  places : List PlaceView
  deriving DecidableEq, Repr

/-- R106: one bench of a Get Staging reply. -/
structure ChuteView where
  chute : Chute
  staged : Nat
  stagedReady : Nat
  deriving DecidableEq, Repr

/-- R106. -/
structure StagingView where
  pool : Pool
  outbound : Nat
  releases : List (Nat × Point)
  pointer : Nat
  heldBack : Nat
  chutes : List ChuteView
  deriving DecidableEq, Repr

/-- R174: the two record places of one severity. -/
structure SeverityView where
  number : Nat
  first : Option FaultRecord
  latest : Option FaultRecord
  deriving DecidableEq, Repr

/-- R193: the fields of a Get Notices reply. -/
structure NoticeView where
  pending : NoticeSet
  enables : NoticeSet
  mark : Bool
  polarity : Polarity
  asserted : Bool
  deriving DecidableEq, Repr

/-- What a reply carries after its status, by the rule of its request. -/
inductive ReplyBody where
  | none
  | slot (n : Nat)
  | identity (vendor part revision : Nat)
  | cellStatus (v : CellView)
  | setup (clockSet : Bool) (templates waves : Nat)
  | cellState (c : CellState)
  | deadline (minute : Nat)
  | causes (c : Causes)
  | clock (minute : Nat) (isSet : Bool)
  | waveState (w : WaveState)
  | unsealed (n : Nat)
  | waves (minute : Nat) (isSet : Bool) (entries : List WaveView)
  | order (o : Order) (age : Nat)
  | orders (entries : List OrderEntry)
  | timers (t : Timers)
  | group (skus : List Nat)
  | rushFloor (n : Nat)
  | lateLane (n : Nat)
  | cageCount (n : Nat)
  | dispatchLane (d : DispatchLane)
  | item (i : Item)
  | loop (v : LoopView)
  | benches (bs : List BenchView) (templates : Option (List Template))
  | staging (v : StagingView)
  | faultMap (entries : List MapEntry) (actions : List FaultAction)
  | kinds (k : KindSet)
  | faultRecords (rs : List SeverityView) (seen : KindSet)
  | counters (cs : List Counter)
  | counter (value : Nat) (overflow : Bool)
  | noticeSet (n : NoticeSet)
  | polarity (p : Polarity)
  | notices (v : NoticeView)
  deriving DecidableEq, Repr

structure Reply where
  status : Status
  body : ReplyBody
  deriving DecidableEq, Repr

/-- R189: how far a request of the receive queue has come: it waits for its owner, or its owner has taken it and its
reply has not begun to be sent. -/
inductive RequestStage where
  | waiting (request : Instr)
  | answered (reply : Reply)
  deriving DecidableEq, Repr

/-- R189: one request of the receive queue: the tag and the kind that its reply echoes, and what it asks or is answered. -/
structure QueuedRequest where
  tag : Byte
  kind : Byte
  stage : RequestStage
  deriving DecidableEq, Repr

/-- A frame of the host link's transmitter: a reply, or a Notice frame (R191, R203). -/
inductive HostFrame where
  | reply (tag kind : Byte) (r : Reply)
  | notice (pending : NoticeSet) (minute : Nat)
  deriving DecidableEq, Repr

/-- R188 to R190: the bytes after the start byte of the frame being assembled; absent outside a frame. -/
abbrev Assembly := Option (List Byte)

/-- R188, R189: the host link. `sent` is the model's own record of the frames begun, oldest first (log entry 11). -/
structure Link where
  rx : Assembly
  queue : List QueuedRequest
  busyHold : List (Byte × Byte)
  tx : Option HostFrame
  sent : List HostFrame
  deriving DecidableEq, Repr

/-- R191, R192. -/
structure Notices where
  pending : NoticeSet
  enables : NoticeSet
  mark : Bool
  due : Bool
  polarity : Polarity
  deriving DecidableEq, Repr

/-- R190: the field units. -/
inductive FieldUnit where
  | lane (n : Nat) | sorter | buffer | bench (n : Nat)
  deriving DecidableEq, Repr

/-- R45, R52: the reasons of a Lane Reject. -/
inductive RejectReason where
  | outOfRange | duplicate | expired
  deriving DecidableEq, Repr

/-- R195: the records the part sends on the cell bus. Route carries NONE as an absent point. -/
inductive OutRecord where
  | admitTag (tag : Nat)
  | laneReject (tag : Nat) (reason : RejectReason)
  | laneHold
  | laneGo
  | route (tag : Nat) (point : Option Point)
  | bufferRelease (tag : Nat) (point : Point)
  | fitBase (template : Nat)
  | fitPocket
  | place (tag : Nat) (zone : Zone) (slot : Nat)
  | ret (tag : Nat)
  | pull (tag : Nat)
  | sealHamper
  | release (lane : Nat)
  | unpack
  | cellRestart
  deriving DecidableEq, Repr

/-- R190: the cell bus. `sent` is the model's own record of what the part sent, oldest first (log entry 11). -/
structure Bus where
  rx : Assembly
  sent : List (FieldUnit × OutRecord)
  deriving DecidableEq, Repr

/-! ### The whole part -/

structure State where
  clock : Clock
  waves : List Wave
  book : Book
  items : List Item
  entryCounter : Nat
  lanes : List Lane
  admission : Admission
  loop : LoopSettings
  rushFloor : Nat
  chutes : List Chute
  pool : Pool
  arbiter : Arbiter
  benches : List Bench
  templates : List Template
  timers : Timers
  groups : List Group
  dispatch : List DispatchLane
  lateLane : Nat
  faults : FaultMonitor
  cell : Cell
  notices : Notices
  link : Link
  bus : Bus
  /-- The model's own: which free value the next open choice reads (log entry 3). -/
  freeCount : Nat
  /-- The commands waiting, first in first out (log entry 12). -/
  pending : List Instr
  deriving DecidableEq, Repr

/-- The stops of the machine. There is none: every rule of the spec gives its command a next state, and what the spec
calls a fault is a report to the Fault Monitor, which is state. Safe: nothing the part goes on from is stopped here. -/
inductive Fault where
  deriving DecidableEq, Repr

/-- Why a command has no meaning. -/
inductive Refusal where
  /-- Raised by `exec`'s arm of a command that has no meaning yet; safe. No arm raises it in this model. -/
  | notModelled (mnemonic : String)
  deriving DecidableEq, Repr

/-- What a command answers. -/
abbrev Outcome := Host.Outcome State Fault Refusal

/-! ### Power-up -/

/-- R164: the default severity of a kind. -/
def FaultKind.defaultSeverity : FaultKind → Nat
  | .dupTag | .misroute | .placeTimeout | .dwellExpired | .lateHamper | .bufferFault | .restartForced => 1
  | .clockLimit => 2
  | _ => 0

/-- R164: the kinds in code order. -/
def FaultKind.all : List FaultKind :=
  [.linkFrame, .cellBusFrame, .fieldMismatch, .dupTag, .laneOverrun, .classConflict, .fitRefused, .noHome, .misroute,
   .placeRefused, .placeTimeout, .dwellExpired, .cageFull, .lateHamper, .bufferFault, .restartForced, .clockLimit]

/-- The numbers 1 to n. -/
def upTo (n : Nat) : List Nat := (List.range n).map (· + 1)

/-- R28, at power-up. -/
def Wave.initial (n : Nat) : Wave := ⟨n, .unused, none, none⟩
/-- R61, at power-up. -/
def Lane.initial (n : Nat) : Lane := ⟨n, [], .go, BitVec.allOnes 12⟩
/-- R54: the schedule at power-up. -/
def defaultSchedule : List Nat :=
  (List.range 32).map (fun k => if k < 30 then k % 6 + 1 else 0)
/-- R107, at power-up. -/
def Chute.initial (n : Nat) : Chute := ⟨n, 6, 300, 6, 300, 8, 400, 0, 0⟩
/-- R134, at power-up. -/
def Bench.initial (n : Nat) : Bench := ⟨n, .closed, false, false, true, true, 4, none, false, none⟩
/-- R112, at power-up. -/
def Template.initial (n : Nat) : Template := ⟨n, none⟩
/-- R141, at power-up. -/
def Group.initial (n : Nat) : Group := ⟨n, []⟩
/-- R162, at power-up. -/
def DispatchLane.initial (n : Nat) : DispatchLane := ⟨n, 20, 0, 0, 0, false, []⟩
/-- R175, at power-up. -/
def MapEntry.initial (k : FaultKind) : MapEntry := ⟨k, true, k.defaultSeverity⟩
/-- R175, at power-up. -/
def FaultMonitor.initial : FaultMonitor where
  map := FaultKind.all.map MapEntry.initial
  severities := [⟨0, .logOnly, none, none⟩, ⟨1, .noticeAndAttention, none, none⟩, ⟨2, .halt, none, none⟩]
  seen := 0
  counters := [⟨1, 0, false, 0⟩, ⟨2, 0, false, 0⟩]

/-- The part right after power-up: every field at the value its chapter gives (R26, R27, R28, R61, R83, R107, R112,
R134, R135, R141, R162, R175, R176, R204). The values of `link.busyHold`, `link.tx` and of the model's own fields are
those of log entries 3, 10, 11 and 12. -/
def State.reset : State where
  clock := ⟨0, false⟩
  waves := (upTo 8).map Wave.initial
  book := ⟨[], 0⟩
  items := []
  entryCounter := 0
  lanes := (upTo 6).map Lane.initial
  admission := ⟨defaultSchedule, 0, false⟩
  loop := ⟨24, 4⟩
  rushFloor := 0
  chutes := (upTo 12).map Chute.initial
  pool := ⟨32, 1600, 32, 1600⟩
  arbiter := ⟨[], [], 12⟩
  benches := (upTo 12).map Bench.initial
  templates := (upTo 8).map Template.initial
  timers := ⟨40, 30, 5, 10⟩
  groups := (upTo 31).map Group.initial
  dispatch := (upTo 4).map DispatchLane.initial
  lateLane := 4
  faults := FaultMonitor.initial
  cell := ⟨.setup, false, none, none, ⟨true, false, false, false⟩⟩
  notices := ⟨0, BitVec.allOnes 11, false, false, .activeLow⟩
  link := ⟨none, [], [], none, []⟩
  bus := ⟨none, []⟩
  freeCount := 0
  pending := []

end Sys2Proof.Machine
end

