-- ==== Sys2Proof/Machine/Tables.lean ====
section
/-! DEFINITION. The tables of State: keyed lists in one canonical form (rising keys), and the one reading and the one writing operation of each. -/

namespace Sys2Proof.Machine

open Sys2Proof

/-! ### Keyed lists -/

/-- The entry of key `n`, if the table has one. -/
def look {α : Type} (key : α → Nat) (n : Nat) (xs : List α) : Option α :=
  xs.find? (fun x => key x == n)

/-- The table with `f` applied to the entry of key `n`. -/
def amend {α : Type} (key : α → Nat) (n : Nat) (f : α → α) (xs : List α) : List α :=
  xs.map (fun x => if key x == n then f x else x)

/-- The table with `a` put in its place among rising keys. -/
def insertBy {α : Type} (key : α → Nat) (a : α) : List α → List α
  | [] => [a]
  | x :: xs => if key a < key x then a :: x :: xs else x :: insertBy key a xs

/-- The table without the entry of key `n`. -/
def dropKey {α : Type} (key : α → Nat) (n : Nat) (xs : List α) : List α :=
  xs.filter (fun x => key x != n)

/-- R24: whether an order is on the waiting list. -/
def Order.isWaiting (o : Order) : Bool := o.state == .loaded && !o.held && o.bench == none

namespace State

/-! ### Reading -/

def item? (s : State) (tag : Nat) : Option Item := look Item.tag tag s.items
def order? (s : State) (slot : Nat) : Option Order := look Order.slot slot s.book.orders
def bench? (s : State) (b : Nat) : Option Bench := look Bench.number b s.benches
def chute? (s : State) (b : Nat) : Option Chute := look Chute.bench b s.chutes
def lane? (s : State) (n : Nat) : Option Lane := look Lane.number n s.lanes
def wave? (s : State) (n : Nat) : Option Wave := look Wave.number n s.waves
def dispatchLane? (s : State) (n : Nat) : Option DispatchLane := look DispatchLane.number n s.dispatch

/-- R112: the plan of a template, absent while it is undefined. -/
def plan? (s : State) (n : Nat) : Option TemplatePlan := (look Template.number n s.templates).bind (·.plan)

/-- R141: the alternates of a group; group 0 names none. -/
def alternates (s : State) (n : Nat) : List Nat := ((look Group.number n s.groups).map (·.skus)).getD []

/-- The order in a non-FREE slot that the host's reference names (R13). -/
def orderOf? (s : State) (ref : Nat) : Option Order := s.book.orders.find? (fun o => o.ref == ref)

/-- The hamper record at bench b. -/
def hamper? (s : State) (b : Nat) : Option Hamper := (s.bench? b).bind (·.hamper)

/-- R28: the state of a wave. -/
def waveState (s : State) (n : Nat) : WaveState := ((s.wave? n).map (·.state)).getD .unused

/-- R28, R37: the cutoff a wave holds; 0 for a wave that holds none, which no order in the book can name. -/
def cutoffOf (s : State) (n : Nat) : Nat := ((s.wave? n).bind (·.cutoff)).getD 0

/-! ### Writing -/

def updItem (tag : Nat) (f : Item → Item) (s : State) : State :=
  { s with items := amend Item.tag tag f s.items }
def updOrder (slot : Nat) (f : Order → Order) (s : State) : State :=
  { s with book := { s.book with orders := amend Order.slot slot f s.book.orders } }
def updBench (b : Nat) (f : Bench → Bench) (s : State) : State :=
  { s with benches := amend Bench.number b f s.benches }
def updChute (b : Nat) (f : Chute → Chute) (s : State) : State :=
  { s with chutes := amend Chute.bench b f s.chutes }
def updLane (n : Nat) (f : Lane → Lane) (s : State) : State :=
  { s with lanes := amend Lane.number n f s.lanes }
def updWave (n : Nat) (f : Wave → Wave) (s : State) : State :=
  { s with waves := amend Wave.number n f s.waves }
def updDispatch (n : Nat) (f : DispatchLane → DispatchLane) (s : State) : State :=
  { s with dispatch := amend DispatchLane.number n f s.dispatch }

/-- The hamper record at bench b, where it has one. -/
def updHamper (b : Nat) (f : Hamper → Hamper) (s : State) : State :=
  s.updBench b (fun x => { x with hamper := x.hamper.map f })

/-- R3: line n of an order is the one at position n. -/
def updLine (slot n : Nat) (f : Line → Line) (s : State) : State :=
  s.updOrder slot (fun o => { o with lines := o.lines.modify (n - 1) f })

/-! ### Computed state (log entry 21) -/

/-- R1: line records in use. -/
def linesUsed (s : State) : Nat := (s.book.orders.map (fun o => o.lines.length)).sum

/-- R55: loop occupancy. -/
def occupancy (s : State) : Nat := s.items.countP (fun i => i.location == .onLoop)

/-- R24: the orders on the waiting list. -/
def waiting (s : State) : List Order :=
  s.book.orders.filter Order.isWaiting

/-- R4: the age of an order. -/
def age (s : State) (o : Order) : Nat :=
  (s.book.loadSeq + Config.loadModulus - o.loadSeq) % Config.loadModulus

/-- R41: how long ago an item entered its chute or the buffer; the greatest is the oldest. -/
def entryAge (s : State) (i : Item) : Nat :=
  (s.entryCounter + Config.entryModulus - i.entrySeq) % Config.entryModulus

/-- R39. -/
def tableFull (s : State) : Bool := decide (Config.maxItems ≤ s.items.length)

/-- R31: the time elapsed since a stored minute. -/
def elapsed (s : State) (m : Nat) : Nat := s.clock.minute - m

/-- R31: a deadline is reached when it is at or before now. -/
def reached (s : State) (d : Nat) : Bool := decide (d ≤ s.clock.minute)

/-- R177: the states in which Place, Seal, hamper release, buffer release to a chute and the shortage pass run. -/
def working (s : State) : Bool :=
  s.cell.state == .running || s.cell.state == .paused || s.cell.state == .draining

/-- R177: the states in which binding runs. -/
def bindingAllowed (s : State) : Bool := s.cell.state == .running || s.cell.state == .paused

end State

/-- R2, R3: line n of an order, by position. -/
def Order.line? (o : Order) (n : Nat) : Option Line := if n = 0 then none else o.lines[n - 1]?

/-- The oldest of a list of items by R41; of equals the first. -/
def State.oldest (s : State) (xs : List Item) : Option Item :=
  xs.foldl (fun best i =>
    match best with
    | none => some i
    | some b => if s.entryAge b < s.entryAge i then some i else some b) none

/-! ### Bench sets -/

/-- R49: whether a set names bench b. -/
def benchIn (v : BenchSet) (b : Nat) : Bool := decide (1 ≤ b) && v.getLsbD (b - 1)

/-- R49: the set of the benches of a list. -/
def benchSetOf (bs : List Nat) : BenchSet := bs.foldl (fun v b => v ||| BitVec.ofNat 12 (2 ^ (b - 1))) 0

end Sys2Proof.Machine
end

