-- ==== Sys2Proof/Machine/Formats.lean ====
section
/-! DEFINITION. The formats of the two lines: numbers, CRC, frames and their assembly, unit addresses, kind codes, and the record layouts the spec gives (R188 to R203). -/

namespace Sys2Proof.Machine

open Sys2Proof

/-! ### Numbers (R197) -/

/-- A number sent least significant byte first. -/
def leNat : List Byte → Nat
  | [] => 0
  | b :: bs => b.toNat + 256 * leNat bs

/-- The n bytes of a number, least significant first. -/
def leBytes : Nat → Nat → List Byte
  | 0, _ => []
  | n + 1, v => BitVec.ofNat 8 v :: leBytes n (v / 256)

/-- The field of `size` bytes at `offset` of a body. -/
def fieldAt (body : List Byte) (offset size : Nat) : Nat := leNat ((body.drop offset).take size)

/-- R197: an absent field is the all-ones value of its width. -/
def leBytesOpt (n : Nat) : Option Nat → List Byte
  | none => List.replicate n 0xFF
  | some v => leBytes n v

/-- R197: class codes. -/
def classOfCode : Nat → Option ItemClass
  | 0 => some .ambient
  | 1 => some .heavy
  | 2 => some .fragile
  | 3 => some .chilled
  | _ => none

def classCode : ItemClass → Nat
  | .ambient => 0
  | .heavy => 1
  | .fragile => 2
  | .chilled => 3

/-- R197: zone codes. -/
def Zone.code : Zone → Nat
  | .base => 0
  | .middle => 1
  | .top => 2
  | .pocket => 3

/-- R189: status codes. -/
def Status.code : Status → Nat
  | .ok => 0
  | .unknownKind => 1
  | .badLength => 2
  | .badValue => 3
  | .wrongState => 4
  | .noRoom => 5
  | .notFound => 6
  | .duplicate => 7
  | .inUse => 8
  | .incomplete => 9
  | .busy => 10

/-- R164: fault kind codes. -/
def FaultKind.code : FaultKind → Nat
  | .linkFrame => 1
  | .cellBusFrame => 2
  | .fieldMismatch => 3
  | .dupTag => 4
  | .laneOverrun => 5
  | .classConflict => 6
  | .fitRefused => 7
  | .noHome => 8
  | .misroute => 9
  | .placeRefused => 10
  | .placeTimeout => 11
  | .dwellExpired => 12
  | .cageFull => 13
  | .lateHamper => 14
  | .bufferFault => 15
  | .restartForced => 16
  | .clockLimit => 17

/-- R197: a set of fault kinds holds kind code k in bit k - 1. -/
def FaultKind.bit (k : FaultKind) : KindSet := BitVec.ofNat 17 (2 ^ (k.code - 1))

def kindIn (v : KindSet) (k : FaultKind) : Bool := v.getLsbD (k.code - 1)

/-- R173: the set of the kind codes of a list. -/
def kindSetOf (codes : List Nat) : KindSet := codes.foldl (fun v c => v ||| BitVec.ofNat 17 (2 ^ (c - 1))) 0

/-! ### CRC (R188) -/

/-- One bit of the CRC: the polynomial x^16 + x^12 + x^5 + 1, most significant bit first. -/
def crcShift (c : BitVec 16) : BitVec 16 :=
  if c.getLsbD 15 then (c <<< 1) ^^^ 0x1021#16 else c <<< 1

def crcTimes : Nat → BitVec 16 → BitVec 16
  | 0, c => c
  | n + 1, c => crcTimes n (crcShift c)

def crcByte (c : BitVec 16) (b : Byte) : BitVec 16 := crcTimes 8 (c ^^^ (b.setWidth 16 <<< 8))

/-- R188: initial value 0xFFFF, nothing reflected, result not inverted. -/
def crc16 (bs : List Byte) : BitVec 16 := bs.foldl crcByte 0xFFFF#16

/-- R188: the CRC is sent high byte first. -/
def crcBytes (bs : List Byte) : List Byte :=
  [(crc16 bs).extractLsb' 8 8, (crc16 bs).extractLsb' 0 8]

/-! ### Frame assembly (R188, R190, R198, R199) -/

/-- What the end of a frame finds. `good` carries the bytes that the length counts. -/
inductive FrameEnd where
  | badLength | badCrc | good (counted : List Byte)
  deriving DecidableEq, Repr

def startByte : Byte := 0xA5

/-- One byte on a line whose frames count between `low` and `high` bytes in their length. -/
def rxByte (low high : Nat) (a : Assembly) (b : Byte) : Assembly × Option FrameEnd :=
  match a with
  | none => (if b = startByte then some [] else none, none)
  | some got =>
    let got' := got ++ [b]
    let len := fieldAt got' 0 2
    if got'.length < 2 then (some got', none)
    else if len < low || high < len then (none, some .badLength)
    else if got'.length < len + 4 then (some got', none)
    else if crcBytes (got'.take (len + 2)) = got'.drop (len + 2) then (none, some (.good ((got'.drop 2).take len)))
    else (none, some .badCrc)

/-- R198: a whole host frame. -/
def hostFrameBytes (tag kind : Byte) (body : List Byte) : List Byte :=
  let covered := leBytes 2 (body.length + 2) ++ (tag :: kind :: body)
  startByte :: (covered ++ crcBytes covered)

/-- R199: a whole cell bus frame, with its tag byte as given (0 in every frame that is not corrupt). -/
def busFrameBytes (addr tag kind : Byte) (body : List Byte) : List Byte :=
  let covered := leBytes 2 (body.length + 3) ++ (addr :: tag :: kind :: body)
  startByte :: (covered ++ crcBytes covered)

/-! ### Unit addresses and kind codes (R190, R194, R195) -/

/-- R190: the address map. -/
def unitOf (a : Byte) : Option FieldUnit :=
  let n := a.toNat
  if 1 ≤ n ∧ n ≤ 6 then some (.lane n)
  else if n = 0x10 then some .sorter
  else if n = 0x11 then some .buffer
  else if 0x21 ≤ n ∧ n ≤ 0x2C then some (.bench (n - 0x20))
  else none

def FieldUnit.address : FieldUnit → Byte
  | .lane n => BitVec.ofNat 8 n
  | .sorter => 0x10
  | .buffer => 0x11
  | .bench n => BitVec.ofNat 8 (0x20 + n)

/-- The twenty field units (R185, R190). -/
def allUnits : List FieldUnit :=
  (upTo 6).map FieldUnit.lane ++ [.sorter, .buffer] ++ (upTo 12).map FieldUnit.bench

/-- R195: whether a unit sends records of a kind. -/
def FieldUnit.sends : FieldUnit → Nat → Bool
  | .lane _, k => k == 0x01
  | .sorter, k => k == 0x10 || k == 0x11 || k == 0x12
  | .buffer, k => k == 0x18 || k == 0x19
  | .bench _, k => decide (0x20 ≤ k ∧ k ≤ 0x2A)

/-- R195: the kind codes of the records the part sends. -/
def OutRecord.code : OutRecord → Nat
  | .admitTag _ => 0x81
  | .laneReject _ _ => 0x82
  | .laneHold => 0x83
  | .laneGo => 0x84
  | .route _ _ => 0x90
  | .bufferRelease _ _ => 0x98
  | .fitBase _ => 0xA0
  | .fitPocket => 0xA1
  | .place _ _ _ => 0xA2
  | .ret _ => 0xA3
  | .pull _ => 0xA4
  | .sealHamper => 0xA5
  | .release _ => 0xA6
  | .unpack => 0xA7
  | .cellRestart => 0xF0

/-- R194: whether a kind code is listed. -/
def kindListed (k : Nat) : Bool :=
  decide ((0x01 ≤ k ∧ k ≤ 0x0A) ∨ (0x10 ≤ k ∧ k ≤ 0x13) ∨ (0x20 ≤ k ∧ k ≤ 0x2A) ∨ (0x30 ≤ k ∧ k ≤ 0x3B) ∨
    (0x40 ≤ k ∧ k ≤ 0x43) ∨ (0x50 ≤ k ∧ k ≤ 0x55) ∨ (0x58 ≤ k ∧ k ≤ 0x5B))

/-- R189: the kind of a reply: 0xFF for a request kind of 0x80 or above, else the request kind plus 0x80. -/
def replyKind (k : Byte) : Byte := if 0x80 ≤ k.toNat then 0xFF else k + 0x80

/-- R189: the kind of a BUSY reply, which echoes the request kind: as it came, or as a reply carries it (log entry 8). -/
def busyKind (k : Byte) : Byte := if Config.busyKindPlain then k else replyKind k

/-! ### Record layouts (R200 to R203) -/

/-- R200: the fields of an Arrival, as its body carries them. -/
structure ArrivalFields where
  tag : Nat
  sku : Nat
  cls : Nat
  mass : Nat
  volume : Nat
  chillExit : Option Nat
  deriving DecidableEq, Repr

/-- R200: a two-byte field that may be absent. -/
def absentOr (v : Nat) : Option Nat := if v = 0xFFFF then none else some v

/-- R200: the fields of an Arrival body. -/
def ArrivalFields.read (body : List Byte) : ArrivalFields where
  tag := fieldAt body 0 2
  sku := fieldAt body 2 3
  cls := fieldAt body 5 1
  mass := fieldAt body 6 2
  volume := fieldAt body 8 2
  chillExit := absentOr (fieldAt body 10 2)

/-- R200: an Arrival body, 12 bytes. -/
def ArrivalFields.bytes (a : ArrivalFields) : List Byte :=
  leBytes 2 a.tag ++ leBytes 3 a.sku ++ leBytes 1 a.cls ++ leBytes 2 a.mass ++ leBytes 2 a.volume ++
    leBytesOpt 2 a.chillExit

/-- R201: one line of a Load Order, as its body carries it. -/
structure LineFields where
  sku : Nat
  cls : Nat
  required : Nat
  group : Nat
  deriving DecidableEq, Repr

/-- R201: the fields of a Load Order. -/
structure LoadFields where
  ref : Nat
  priority : Nat
  wave : Nat
  template : Nat
  lines : List LineFields
  deriving DecidableEq, Repr

/-- R201: line n (counted from 0) of a Load Order body. -/
def LineFields.read (body : List Byte) (n : Nat) : LineFields where
  sku := fieldAt body (8 + 6 * n) 3
  cls := fieldAt body (11 + 6 * n) 1
  required := fieldAt body (12 + 6 * n) 1
  group := fieldAt body (13 + 6 * n) 1

/-- R201: the line count of a Load Order body. -/
def loadLineCount (body : List Byte) : Nat := fieldAt body 7 1

/-- R201: whether the length of a Load Order body fits its line count. -/
def loadLengthOk (body : List Byte) : Bool :=
  decide (8 ≤ body.length ∧ body.length = 8 + 6 * loadLineCount body)

/-- R201: the fields of a Load Order body. -/
def LoadFields.read (body : List Byte) : LoadFields where
  ref := fieldAt body 0 4
  priority := fieldAt body 4 1
  wave := fieldAt body 5 1
  template := fieldAt body 6 1
  lines := (List.range (loadLineCount body)).map (LineFields.read body)

def LineFields.bytes (l : LineFields) : List Byte :=
  leBytes 3 l.sku ++ leBytes 1 l.cls ++ leBytes 1 l.required ++ leBytes 1 l.group

/-- R201: a Load Order body. -/
def LoadFields.bytes (f : LoadFields) : List Byte :=
  leBytes 4 f.ref ++ leBytes 1 f.priority ++ leBytes 1 f.wave ++ leBytes 1 f.template ++ leBytes 1 f.lines.length ++
    f.lines.flatMap LineFields.bytes

/-- R202: a Place body, 4 bytes. -/
def placeBody (tag : Nat) (zone : Zone) (slot : Nat) : List Byte :=
  leBytes 2 tag ++ leBytes 1 zone.code ++ leBytes 1 slot

/-- R203: a fault record, 12 bytes; kind code 0 and all ones mark an empty place. -/
def faultRecordBytes : Option FaultRecord → List Byte
  | none => 0 :: List.replicate 11 0xFF
  | some r =>
    leBytes 1 r.kind.code ++ leBytes 2 r.minute ++ leBytesOpt 2 r.ctx.tag ++ leBytesOpt 1 r.ctx.slot ++
      leBytesOpt 1 r.ctx.bench ++ leBytesOpt 1 r.ctx.lane ++ leBytesOpt 3 r.ctx.sku ++ leBytes 1 r.detail

/-- R197: a set of notice flags, 2 bytes: flag n in bit n, and bits 11 to 15 zero. -/
def noticeSetBytes (v : NoticeSet) : List Byte := leBytes 2 v.toNat

/-- R197: a set of fault kinds, 3 bytes: kind code k in bit k - 1. -/
def kindSetBytes (v : KindSet) : List Byte := leBytes 3 v.toNat

/-- R203: the body of a Notice frame, 4 bytes. -/
def noticeBody (pending : NoticeSet) (minute : Nat) : List Byte :=
  noticeSetBytes pending ++ leBytes 2 minute

/-- R194, R198, R203: the bytes of a Notice frame: kind 0x60, tag 0. -/
def noticeFrameBytes (pending : NoticeSet) (minute : Nat) : List Byte :=
  hostFrameBytes 0 0x60 (noticeBody pending minute)

end Sys2Proof.Machine
end

