-- ==== Sys2Proof/Machine/Flags.lean ====
section
/-! DEFINITION. Flags and records that only report: notice flags and the attention line (R191, R192), and the Fault Monitor's writing of one report (R165 to R169). -/

namespace Sys2Proof.Machine

open Sys2Proof

/-! ### Notice flags (R191) -/

inductive NoticeFlag where
  | orderComplete | orderDispatched | orderOverdue | orderCancelled | lineShort | waveCut | cageMatch | cageFull
  | benchStalled | faultNotice | cellState
  deriving DecidableEq, Repr

def NoticeFlag.number : NoticeFlag → Nat
  | .orderComplete => 0
  | .orderDispatched => 1
  | .orderOverdue => 2
  | .orderCancelled => 3
  | .lineShort => 4
  | .waveCut => 5
  | .cageMatch => 6
  | .cageFull => 7
  | .benchStalled => 8
  | .faultNotice => 9
  | .cellState => 10

/-- R197: flag n in bit n. -/
def NoticeFlag.bit (f : NoticeFlag) : NoticeSet := BitVec.ofNat 11 (2 ^ f.number)

def flagIn (v : NoticeSet) (f : NoticeFlag) : Bool := v.getLsbD f.number

/-- R191: raising a flag. A Notice frame becomes due when an enabled flag goes from clear to pending. -/
def Notices.raised (f : NoticeFlag) (n : Notices) : Notices :=
  if flagIn n.pending f then n
  else { n with pending := n.pending ||| f.bit, due := n.due || flagIn n.enables f }

/-- R166, R192: FAULT_NOTICE raised with or without attention. -/
def Notices.faultRaised (attention : Bool) (n : Notices) : Notices :=
  let n' := n.raised .faultNotice
  { n' with mark := n'.mark || attention }

/-- R192: whether the attention line is asserted. -/
def Notices.asserted (n : Notices) : Bool :=
  let live := n.pending &&& n.enables
  decide (live &&& ~~~ NoticeFlag.faultNotice.bit ≠ 0) || (flagIn live .faultNotice && n.mark)

/-- R192: the level driven, true for high. -/
def Notices.lineHigh (n : Notices) : Bool :=
  match n.polarity with
  | .activeLow => !n.asserted
  | .activeHigh => n.asserted

/-- R191: raising a flag of the part. -/
def State.raiseNotice (f : NoticeFlag) (s : State) : State := { s with notices := s.notices.raised f }

/-! ### Writing one report (R165 to R169) -/

def FaultMonitor.entry? (m : FaultMonitor) (k : FaultKind) : Option MapEntry := m.map.find? (fun e => e.kind == k)

/-- R166: the action of a severity as it stands. -/
def FaultMonitor.actionOf (m : FaultMonitor) (sev : Nat) : FaultAction :=
  ((look Severity.number sev m.severities).map (·.action)).getD .logOnly

/-- R167: the first record while it is empty, the latest record after. -/
def Severity.written (r : FaultRecord) (v : Severity) : Severity :=
  match v.first with
  | none => { v with first := some r }
  | some _ => { v with latest := some r }

/-- R169: a counter counts a kind of its select set, holding at 127. -/
def Counter.counted (k : FaultKind) (c : Counter) : Counter :=
  if kindIn c.select k then
    if c.value < 127 then { c with value := c.value + 1 } else { c with overflow := true }
  else c

/-- R167 to R169: a report logged under a severity: written, joined to the seen set, counted. -/
def FaultMonitor.logged (r : FaultRecord) (sev : Nat) (m : FaultMonitor) : FaultMonitor :=
  { m with
    severities := amend Severity.number sev (Severity.written r) m.severities
    seen := m.seen ||| r.kind.bit
    counters := m.counters.map (Counter.counted r.kind) }

/-- R164: an empty context. -/
def FaultCtx.empty : FaultCtx := ⟨none, none, none, none, none⟩

/-- R164: the context fields that concern an item: tag, lane of origin, SKU. -/
def Item.ctx (i : Item) : FaultCtx := ⟨some i.tag, none, none, some i.lane, some i.sku⟩

end Sys2Proof.Machine
end

