-- ==== Sys2Proof/Machine/Ops.lean ====
section
/-! DEFINITION. The shared operations under every command: free choices, records out, lane signals, cell state changes, fault reports, staging credits, the release arbiter, and the freeing of an item record. -/

namespace Sys2Proof.Machine

open Sys2Proof

/-! ### Free choices (log entries 3, 5) -/

/-- Two pieces of work that the spec lets be done in either order. Where the orders differ, a free value decides. -/
def eitherOrder (f g : State → State) (s : State) : State :=
  let fg := g (f s)
  let gf := f (g s)
  if fg = gf then fg
  else if Config.freeBit s.freeCount then { fg with freeCount := fg.freeCount + 1 }
  else { gf with freeCount := gf.freeCount + 1 }

/-- `n` items in an order that free values from number `k` on decide; one item needs none. -/
def pickOrder {α : Type} (k : Nat) : Nat → List α → List α
  | 0, xs => xs
  | _ + 1, [] => []
  | _ + 1, [x] => [x]
  | n + 1, x :: y :: xs =>
    let all := x :: y :: xs
    let i := Config.freePick k % all.length
    match all[i]? with
    | some z => z :: pickOrder (k + 1) n (all.eraseIdx i)
    | none => all

/-- The state after an order of `n` things has been picked. -/
def State.picked (n : Nat) (s : State) : State :=
  if n < 2 then s else { s with freeCount := s.freeCount + n }

namespace State

/-! ### Records out (R190, R195) -/

/-- A record for one field unit; the records of one unit leave in the order they are made. -/
def send (u : FieldUnit) (r : OutRecord) (s : State) : State :=
  { s with bus := { s.bus with sent := s.bus.sent ++ [(u, r)] } }

/-- R56: Route for an ON_LOOP item. -/
def route (tag : Nat) (point : Option Point) (s : State) : State := s.send .sorter (.route tag point)

/-! ### Lane signals (R47) -/

/-- R47: whether hold is wanted for a lane. -/
def holdWanted (s : State) (l : Lane) : Bool :=
  decide (Config.queueRoom ≤ l.queue.length) || s.tableFull || s.cell.state == .halted || s.cell.state == .restarting

end State

/-- R47: a lane's signal after it is judged. -/
def Lane.judged (wanted : Bool) (l : Lane) : Lane :=
  { l with signal := if wanted then .hold else .go }

/-- R47: the record that judging a lane sends. -/
def Lane.change (wanted : Bool) (l : Lane) : Option (FieldUnit × OutRecord) :=
  match l.signal, wanted with
  | .go, true => some (.lane l.number, .laneHold)
  | .hold, false => some (.lane l.number, .laneGo)
  | _, _ => none

namespace State

/-- R47: judge every lane signal. -/
def judgeLanes (s : State) : State :=
  { s with
    lanes := s.lanes.map (fun l => l.judged (s.holdWanted l))
    bus := { s.bus with sent := s.bus.sent ++ s.lanes.filterMap (fun l => l.change (s.holdWanted l)) } }

/-! ### Cell state changes and fault reports (R164 to R170, R178, R182) -/

/-- R178: a change of the cell state raises CELL_STATE. -/
def setCell (c : CellState) (s : State) : State :=
  { s with cell := { s.cell with state := c } }.raiseNotice .cellState

/-- R182: a halt request from the Fault Monitor. -/
def haltRequest (s : State) : State :=
  match s.cell.state with
  | .ready | .running | .paused | .draining => (s.setCell .halted).judgeLanes
  | .halted | .setup | .restarting => s

/-- R166, R170: the action of a logged report. -/
def applyAction (a : FaultAction) (s : State) : State :=
  match a with
  | .logOnly => s
  | .notice => { s with notices := s.notices.faultRaised false }
  | .noticeAndAttention => { s with notices := s.notices.faultRaised true }
  | .halt => { s with notices := s.notices.faultRaised true }.haltRequest

/-- R164 to R170: a fault report, dropped where its kind is disabled, else logged, counted and acted on, at once
(log entry 1). -/
def raiseFault (k : FaultKind) (c : FaultCtx) (detail : Nat) (s : State) : State :=
  match s.faults.entry? k with
  | none => s
  | some e =>
    if e.enabled then
      let m := s.faults.logged ⟨k, s.clock.minute, c, detail⟩ e.severity
      { s with faults := m }.applyAction (m.actionOf e.severity)
    else s

/-! ### Staging credits (R85 to R91) -/

/-- R85: take 1 item and `vu` from bench b's chute. -/
def takeChute (b vu : Nat) (s : State) : State :=
  s.updChute b (fun c => { c with freeItems := c.freeItems - 1, freeVu := c.freeVu - vu })

/-- R85: return 1 item and `vu` to bench b's chute. -/
def giveChute (b vu : Nat) (s : State) : State :=
  s.updChute b (fun c => { c with freeItems := c.freeItems + 1, freeVu := c.freeVu + vu })

/-- R86: take 1 item and `vu` from the common pool into bench b's holding. -/
def takeCommon (b vu : Nat) (s : State) : State :=
  { s with pool := { s.pool with freeItems := s.pool.freeItems - 1, freeVu := s.pool.freeVu - vu } }.updChute b
    (fun c => { c with heldItems := c.heldItems + 1, heldVu := c.heldVu + vu })

/-- R86: return 1 item and `vu` of bench b's holding to the common pool. -/
def giveCommon (b vu : Nat) (s : State) : State :=
  { s with pool := { s.pool with freeItems := s.pool.freeItems + 1, freeVu := s.pool.freeVu + vu } }.updChute b
    (fun c => { c with heldItems := c.heldItems - 1, heldVu := c.heldVu - vu })

/-- R85: whether bench b's chute has 1 item and `vu` free. -/
def chuteRoom (s : State) (b vu : Nat) : Bool :=
  match s.chute? b with
  | none => false
  | some c => decide (1 ≤ c.freeItems ∧ vu ≤ c.freeVu)

/-- R86: whether the pool has room and bench b's holding stays within its cap. -/
def commonRoom (s : State) (b vu : Nat) : Bool :=
  match s.chute? b with
  | none => false
  | some c =>
    decide (1 ≤ s.pool.freeItems ∧ vu ≤ s.pool.freeVu ∧ c.heldItems + 1 ≤ c.capItems ∧ c.heldVu + vu ≤ c.capVu)

/-! ### The release arbiter (R92 to R97) -/

/-- R93, R97: a tag that may be ordered: not held back, and on no entry of the release list. -/
def orderable (s : State) (tag : Nat) : Bool :=
  !s.arbiter.heldBack.contains tag && !s.arbiter.releases.any (fun e => e.1 == tag)

/-- R92: an outbound item. -/
def outbound (i : Item) : Bool := i.location == .inBuffer && i.alloc == none

/-- R92: a staged item of bench b that is eligible for release to b's chute. -/
def stagedEligible (s : State) (b : Nat) (i : Item) : Bool :=
  i.location == .inBuffer && i.wait == .none && s.orderable i.tag &&
    match i.alloc with
    | none => false
    | some a =>
      a.bench == b && s.chuteRoom b i.vu &&
        match s.order? a.slot with
        | none => false
        | some o => o.state == .building

/-- R97: an outbound item ordered to EXCEPTION. -/
def orderOut (tag : Nat) (s : State) : State :=
  { s with arbiter := { s.arbiter with releases := s.arbiter.releases ++ [(tag, Point.exception)] } }.send .buffer
    (.bufferRelease tag .exception)

/-- R96: a staged item ordered to bench b's chute; the bench pointer moves to b (R95). -/
def orderToChute (i : Item) (b : Nat) (s : State) : State :=
  (({ s with arbiter := { s.arbiter with releases := s.arbiter.releases ++ [(i.tag, Point.bench b)], pointer := b } }.takeChute
      b i.vu).updItem i.tag (fun x => { x with hold := .both b, location := .bufferToChute })).send .buffer
    (.bufferRelease i.tag (.bench b))

/-- R95: the benches in the order of a scan: from the one after the pointer, going round from 12 to 1. -/
def scanBenches (s : State) : List Nat := (List.range 12).map (fun k => (s.arbiter.pointer + k) % 12 + 1)

/-- R95: one free place of the release list filled, absent where nothing eligible remains or the list is full. -/
def arbitrateOnce (s : State) : Option State :=
  if Config.releaseRoom ≤ s.arbiter.releases.length then none
  else
    match s.oldest (s.items.filter (fun i => outbound i && s.orderable i.tag)) with
    | some i => some (s.orderOut i.tag)
    | none =>
      if s.working then
        s.scanBenches.findSome? (fun b =>
          (s.oldest (s.items.filter (s.stagedEligible b))).map (fun i => s.orderToChute i b))
      else none

/-- R95: an arbitration fills places until the list holds 2 entries or nothing eligible remains. -/
def arbitrate (s : State) : State :=
  match s.arbitrateOnce with
  | none => s
  | some s1 =>
    match s1.arbitrateOnce with
    | none => s1
    | some s2 => s2

/-! ### Credit returns and freed records (R89 to R91, R42) -/

/-- The chute credits of an item moved back; no arbitration. -/
def dropChuteHold (tag : Nat) (s : State) : State :=
  match s.item? tag with
  | none => s
  | some i =>
    match i.hold with
    | .chute b => (s.giveChute b i.vu).updItem tag (fun x => { x with hold := .none })
    | .both b => (s.giveChute b i.vu).updItem tag (fun x => { x with hold := .common b })
    | .none | .common _ => s

/-- Whether an item holds chute credits. -/
def holdsChute (s : State) (tag : Nat) : Bool :=
  match s.item? tag with
  | none => false
  | some i =>
    match i.hold with
    | .chute _ | .both _ => true
    | .none | .common _ => false

/-- R89: an item's chute credits returned to the bench of its hold; a return runs the release arbitration. -/
def returnChute (tag : Nat) (s : State) : State :=
  if s.holdsChute tag then (s.dropChuteHold tag).arbitrate else s

/-- R90: an item's common credits returned to the pool and the holding of its hold's bench. -/
def returnCommon (tag : Nat) (s : State) : State :=
  match s.item? tag with
  | none => s
  | some i =>
    match i.hold with
    | .common b => (s.giveCommon b i.vu).updItem tag (fun x => { x with hold := .none })
    | .both b => (s.giveCommon b i.vu).updItem tag (fun x => { x with hold := .chute b })
    | .none | .chute _ => s

/-- R42, R91, R93: an item record freed: every credit its hold names is returned, its tag leaves the held-back set, the
lane signals are judged (R47) and the release arbitration runs. -/
def freeItem (tag : Nat) (s : State) : State :=
  let s1 := (s.returnCommon tag).dropChuteHold tag
  let s2 := { s1 with
    items := dropKey Item.tag tag s1.items
    arbiter := { s1.arbiter with heldBack := s1.arbiter.heldBack.filter (· != tag) } }
  s2.judgeLanes.arbitrate

end State

end Sys2Proof.Machine
end

