-- ==== Sys2Proof/Machine/Orders.lean ====
section
/-! DEFINITION. The shared operations on orders, hampers and benches: line counts and states, the top gate, Place and Seal issue, stalls, Return and Pull, cancelling, completion, release of an allocation, binding and the hand-back (chapters 1, 4.6 and 6). -/

namespace Sys2Proof.Machine

open Sys2Proof

/-! ### Lines (R5, R7) -/

/-- R5: the line state after a change of the counts. -/
def Line.settled (l : Line) : Line :=
  match l.state with
  | .opened | .short => if l.required ≤ l.committed then { l with state := .filled } else l
  | .filled =>
    if l.committed < l.required then { l with state := if l.shortMark then .short else .opened } else l
  | .closed => l

/-- R7: a complete line. -/
def Line.complete (l : Line) : Bool :=
  (l.state == .filled && l.placed == l.required) || (l.state == .closed && l.placed == l.committed)

/-- R6: a commit of rank r at minute `now`. -/
def Line.commit (rank now : Nat) (l : Line) : Line :=
  { l with
    committed := l.committed + 1
    substituted := if rank = 0 then l.substituted else l.substituted + 1
    lastProgress := now }.settled

/-- R6: the release of an allocation of rank r. -/
def Line.release (rank : Nat) (l : Line) : Line :=
  { l with
    committed := l.committed - 1
    substituted := if rank = 0 then l.substituted else l.substituted - 1 }.settled

/-- R6: a Placed. -/
def Line.place (l : Line) : Line := { l with placed := l.placed + 1 }

/-- R6: a Pulled of rank r. -/
def Line.pull (rank : Nat) (l : Line) : Line :=
  { l with
    committed := l.committed - 1
    placed := l.placed - 1
    substituted := if rank = 0 then l.substituted else l.substituted - 1 }.settled

/-- R12: the gate a list of lines gives. -/
def gateOf (lines : List Line) : Gate :=
  if lines.all (fun l => !(l.cls == .heavy) || l.complete) then .opened else .shut

def Order.totalPlaced (o : Order) : Nat := (o.lines.map (·.placed)).sum

def Order.totalRequired (o : Order) : Nat := (o.lines.map (·.required)).sum

/-- R17, R25: whether an order has a line of a class. -/
def Order.hasClass (o : Order) (c : ItemClass) : Bool := o.lines.any (fun l => l.cls == c)

/-- Whether an item is allocated to the order in a slot. -/
def Item.allocatedTo (i : Item) (slot : Nat) : Bool :=
  match i.alloc with
  | none => false
  | some a => a.slot == slot

/-! ### Hampers (R77, R113 to R116) -/

def Hamper.zone (h : Hamper) : Zone → ZoneRec
  | .base => h.base
  | .middle => h.middle
  | .top => h.top
  | .pocket => h.pocketZone

def Hamper.updZone (z : Zone) (f : ZoneRec → ZoneRec) (h : Hamper) : Hamper :=
  match z with
  | .base => { h with base := f h.base }
  | .middle => { h with middle := f h.middle }
  | .top => { h with top := f h.top }
  | .pocket => { h with pocketZone := f h.pocketZone }

/-- R77: the first slot number of a zone: 1 plus the slot counts of the zones before it. -/
def Hamper.firstSlot (h : Hamper) : Zone → Nat
  | .base => 1
  | .middle => 1 + h.base.slots.length
  | .top => 1 + h.base.slots.length + h.middle.slots.length
  | .pocket => 1 + h.base.slots.length + h.middle.slots.length + h.top.slots.length

/-- R77: the lowest-numbered FREE slot of a zone. -/
def Hamper.freeSlot? (h : Hamper) (z : Zone) : Option Nat :=
  ((h.zone z).slots.findIdx? (· == .free)).map (h.firstSlot z + ·)

/-- R114: a slot of a zone set to a state. -/
def Hamper.setSlot (z : Zone) (n : Nat) (st : SlotState) (h : Hamper) : Hamper :=
  h.updZone z (fun r => { r with slots := r.slots.set (n - h.firstSlot z) st })

/-- R114: a commit of an item of `mass` and `vu` into slot n of a zone. -/
def Hamper.reserve (z : Zone) (n mass vu : Nat) (h : Hamper) : Hamper :=
  ({ h with mass := h.mass + mass }.updZone z (fun r => { r with committed := r.committed + vu })).setSlot z n .reserved

/-- R80, R114, R116: a unit leaves slot n of a zone: mass and VU fall, the slot becomes FREE, and a clamped zone's
capacity falls by the same VU. -/
def Hamper.vacate (z : Zone) (n mass vu : Nat) (h : Hamper) : Hamper :=
  ({ h with mass := h.mass - mass }.updZone z (fun r =>
    { r with
      committed := r.committed - vu
      capacity := if r.clamped then r.capacity - vu else r.capacity })).setSlot z n .free

/-- R114, R115: a Placed fills slot n; the first into TOP closes BASE. -/
def Hamper.fill (z : Zone) (n : Nat) (h : Hamper) : Hamper :=
  let h' := h.setSlot z n .filled
  { h' with baseClosed := h'.baseClosed || z == .top }

/-- R116: a NO_ROOM refusal clamps a zone to what is committed in it. -/
def Hamper.clamp (z : Zone) (h : Hamper) : Hamper :=
  h.updZone z (fun r => { r with capacity := r.committed, clamped := true })

def ZoneRec.fresh (p : ZonePlan) : ZoneRec := ⟨p.capacity, p.capacity, false, 0, List.replicate p.slots .free⟩

/-- R113: the hamper record at the bind. -/
def Hamper.fresh (n : Nat) (p : TemplatePlan) : Hamper where
  template := n
  massLimit := p.massLimit
  mass := 0
  base := ZoneRec.fresh p.base
  middle := ZoneRec.fresh p.middle
  top := ZoneRec.fresh p.top
  pocketZone := ZoneRec.fresh p.pocket
  baseClosed := false
  pocket := .none
  places := []

namespace State

/-! ### The top gate (R12) -/

/-- R12, R118: the items allocated to an order whose wait cause is w wait no more. -/
def clearWaits (slot : Nat) (w : WaitCause) (s : State) : State :=
  { s with items := s.items.map (fun i => if i.allocatedTo slot && i.wait == w then { i with wait := .none } else i) }

/-- R12: whether the gate of a bound order goes from SHUT to OPEN when it is evaluated now. -/
def gateOpens (s : State) (slot : Nat) : Bool :=
  match s.order? slot with
  | none => false
  | some o => o.bench != none && o.topGate == some .shut && gateOf o.lines == .opened

/-- R12: the gate of a bound order evaluated, without the arbitration its opening runs. -/
def setGate (slot : Nat) (s : State) : State :=
  let s' := s.updOrder slot (fun o =>
    if o.bench != none && o.topGate != none then { o with topGate := some (gateOf o.lines) } else o)
  if s.gateOpens slot then s'.clearWaits slot .topGate else s'

/-- R12: the gate of a bound order evaluated; its opening clears the TOP_GATE waits and runs the arbitration. -/
def recomputeGate (slot : Nat) (s : State) : State :=
  if s.gateOpens slot then (s.setGate slot).arbitrate else s.setGate slot

/-- Whether line n of the order in a slot is HEAVY. -/
def lineHeavy (s : State) (slot n : Nat) : Bool :=
  match (s.order? slot).bind (·.line? n) with
  | none => false
  | some l => l.cls == .heavy

/-! ### Place issue, stalls and Seal issue (R119, R120, R127, R128) -/

/-- R120: an item eligible for a Place at bench b for its order o. -/
def placeEligible (b : Nat) (o : Order) (i : Item) : Bool :=
  i.location == .inChute && i.locBench == some b && i.allocatedTo o.slot && i.outstanding == .none &&
    i.wait == .none && !(i.cls == .fragile && o.topGate == some .shut)

/-- R119: whether an attempt at bench b issues Places, and for which order. -/
def placeOrder? (s : State) (b : Nat) : Option Order :=
  match s.bench? b with
  | none => none
  | some x =>
    if x.state == .building && x.staffed && !x.stalled && s.working then
      match x.orderSlot.bind s.order? with
      | none => none
      | some o => if o.state == .building || o.state == .held then some o else none
    else none

/-- R120: Place sent for an item at bench b. -/
def issuePlace (b : Nat) (i : Item) (a : Alloc) (s : State) : State :=
  ((s.send (.bench b) (.place i.tag a.zone a.slotNo)).updItem i.tag
    (fun x => { x with outstanding := .place s.clock.minute })).updHamper b
    (fun h => { h with places := h.places ++ [⟨i.tag, false⟩] })

/-- R119, R120: up to n Places, one at a time, while the placement list has room and an item is eligible. -/
def placeTimes (b : Nat) : Nat → State → State
  | 0, s => s
  | n + 1, s =>
    match s.placeOrder? b, s.hamper? b with
    | some o, some h =>
      if h.places.length < Config.placeRoom then
        match s.oldest (s.items.filter (placeEligible b o)) with
        | none => s
        | some i =>
          match i.alloc with
          | none => s
          | some a => placeTimes b n (s.issuePlace b i a)
      else s
    | _, _ => s

/-- R119: Place issue tried for bench b. -/
def placeTry (b : Nat) (s : State) : State := placeTimes b Config.placeRoom s

/-- R127: the stall of bench b judged, as a tag leaves its placement list. -/
def judgeStall (b : Nat) (s : State) : State :=
  match s.bench? b with
  | none => s
  | some x =>
    let marked := match x.hamper with
      | none => false
      | some h => h.places.any (·.timedOut)
    if x.stalled && !marked then (s.updBench b (fun x => { x with stalled := false })).placeTry b else s

/-- R128: Seal issue tried for bench b. -/
def sealTry (b : Nat) (s : State) : State :=
  match s.bench? b with
  | none => s
  | some x =>
    let complete := match x.orderSlot.bind s.order? with
      | none => false
      | some o => o.state == .complete
    let pocketOpen := match x.hamper with
      | none => false
      | some h => h.pocket != .requested
    if x.state == .building && complete && pocketOpen && x.staffed && s.working then
      (s.send (.bench b) .sealHamper).updBench b (fun x => { x with state := .sealing })
    else s

/-! ### Return and Pull (R124, R147) -/

/-- R120: a tag leaves bench b's placement list. -/
def dropPlace (b tag : Nat) (s : State) : State :=
  s.updHamper b (fun h => { h with places := h.places.filter (fun e => e.tag != tag) })

/-- R124: Return sent for an item in bench b's chute, replacing a Place (the tag leaves the list, the stall is judged,
and Place issue is tried, R119); none is sent where one is outstanding. -/
def sendReturn (b tag : Nat) (s : State) : State :=
  match s.item? tag with
  | none => s
  | some i =>
    let go (t : State) : State :=
      (t.send (.bench b) (.ret tag)).updItem tag (fun x => { x with outstanding := .ret s.clock.minute })
    match i.outstanding with
    | .ret _ => s
    | .place _ => ((go (s.dropPlace b tag)).judgeStall b).placeTry b
    | .none | .pull _ => go s

/-- R147: Pull sent for an item in bench b's hamper. -/
def sendPull (b tag : Nat) (s : State) : State :=
  (s.send (.bench b) (.pull tag)).updItem tag (fun x => { x with outstanding := .pull s.clock.minute })

/-! ### Releasing an allocation (R80) -/

/-- R80: the line, the hamper and the item record at a release; the checks that follow it are `releaseAlloc`'s. -/
def releaseCore (tag : Nat) (s : State) : State :=
  match s.item? tag with
  | none => s
  | some i =>
    match i.alloc with
    | none => s
    | some a =>
      ((s.updLine a.slot a.line (Line.release a.rank)).updHamper a.bench
        (Hamper.vacate a.zone a.slotNo i.mass i.vu)).updItem tag
        (fun x => { x with alloc := none, wait := .none })

/-! ### Cancelling (R20, R130) -/

/-- R20 step 2: one item of a cancelled order released and withdrawn from where it is. -/
def withdrawForCancel (slot : Nat) (s : State) (tag : Nat) : State :=
  match s.item? tag with
  | none => s
  | some i =>
    let s1 := s.releaseCore tag
    let s2 := match i.alloc with
      | none => s1
      | some a => if s.lineHeavy a.slot a.line then s1.setGate slot else s1
    match i.location with
    | .onLoop => (s2.updItem tag (fun x => { x with dest := some .exception })).route tag (some .exception)
    | .inChute =>
      (s2.updItem tag (fun x => { x with withdrawal := some slot })).sendReturn (i.locBench.getD 0) tag
    | .bufferToChute => s2.updItem tag (fun x => { x with withdrawal := some slot })
    | .atLane | .inBuffer | .inHamper => s2

/-- R20: the order in a slot, bound to a bench, enters CANCELLING. Items are taken in rising tag (log entry 18). -/
def enterCancelling (slot : Nat) (s : State) : State :=
  match s.order? slot with
  | none => s
  | some o =>
    let b := o.bench.getD 0
    let s1 := ((s.updOrder slot (fun o => { o with state := .cancelling, held := false })).send (.bench b)
      .unpack).updBench b (fun x => { x with state := .unpacking, unpacked := false })
    let out := s1.items.filter (fun i => i.allocatedTo slot && !(i.location == .inHamper))
    let counted := out.countP (fun i => i.location == .inChute || i.location == .bufferToChute)
    let s2 := (out.map (·.tag)).foldl (withdrawForCancel slot) s1
    (s2.updOrder slot (fun o => { o with withdrawals := counted })).arbitrate

/-! ### The completion check (R9, R10) -/

/-- R9: whether the completion check finds the order complete. -/
def orderComplete (s : State) (o : Order) : Bool :=
  o.state == .building && o.lines.all Line.complete &&
    s.items.all (fun i => !i.allocatedTo o.slot ||
      (i.location == .inHamper &&
        match i.outstanding with
        | .ret _ | .pull _ => false
        | .none | .place _ => true)) &&
    match o.bench.bind s.hamper? with
    | none => true
    | some h => h.places.isEmpty

/-- R9, R10: the completion check of the order in a slot. -/
def completionCheck (slot : Nat) (s : State) : State :=
  match s.order? slot with
  | none => s
  | some o =>
    if s.orderComplete o then
      if 1 ≤ o.totalPlaced then
        ((s.updOrder slot (fun o => { o with state := .complete })).raiseNotice .orderComplete).sealTry (o.bench.getD 0)
      else s.enterCancelling slot
    else s

/-- R80: the allocation of an item not IN_HAMPER released; the completion check runs, and the gate is recomputed when
the line is HEAVY. -/
def releaseAlloc (tag : Nat) (s : State) : State :=
  match s.item? tag with
  | none => s
  | some i =>
    match i.alloc with
    | none => s
    | some a =>
      let s1 := s.releaseCore tag
      let s2 := if s.lineHeavy a.slot a.line then s1.recomputeGate a.slot else s1
      s2.completionCheck a.slot

/-! ### Binding (R25) -/

/-- R25: whether a waiting order may be bound to a bench. -/
def bindEligible (s : State) (x : Bench) (o : Order) : Bool :=
  decide (s.rushFloor ≤ o.priority) &&
    (match s.plan? o.template with
      | none => false
      | some p => decide (p.sizeClass ≤ x.largestSize)) &&
    (!o.hasClass .chilled || x.chilledCapable) && (!o.hasClass .heavy || x.heavyCapable)

/-- R25: whether order p is ranked before order q. -/
def bindBefore (s : State) (p q : Order) : Bool :=
  if p.priority ≠ q.priority then decide (q.priority < p.priority)
  else if s.cutoffOf p.wave ≠ s.cutoffOf q.wave then decide (s.cutoffOf p.wave < s.cutoffOf q.wave)
  else if s.age p ≠ s.age q then decide (s.age q < s.age p)
  else decide (p.slot < q.slot)

/-- R25: the waiting order a bench is given. -/
def bestFor (s : State) (x : Bench) : Option Order :=
  (s.waiting.filter (s.bindEligible x)).foldl (fun best o =>
    match best with
    | none => some o
    | some p => if s.bindBefore o p then some o else some p) none

/-- R25, R113: order o bound to bench b: hamper record made, Fit Base sent, bench FITTING. -/
def bind (b : Nat) (o : Order) (p : TemplatePlan) (s : State) : State :=
  ((s.updOrder o.slot (fun o =>
    { o with
      bench := some b
      lines := o.lines.map (fun l => { l with lastProgress := s.clock.minute })
      topGate := some (gateOf o.lines) })).updBench b (fun x =>
    { x with state := .fitting, orderSlot := some o.slot, hamper := some (Hamper.fresh o.template p) })).send (.bench b)
    (.fitBase o.template)

/-- R25: one bench of a binding pass. -/
def bindBench (s : State) (b : Nat) : State :=
  match s.bench? b with
  | none => s
  | some x =>
    if x.state == .idle then
      match s.bestFor x with
      | none => s
      | some o =>
        match s.plan? o.template with
        | none => s
        | some p => s.bind b o p
    else s

/-- R25: a binding pass, in RUNNING and PAUSED alone, the benches in rising number. -/
def bindPass (s : State) : State :=
  if s.bindingAllowed then (upTo 12).foldl bindBench s else s

/-! ### The hand-back and CANCELLED (R21, R132) -/

/-- R132: bench b handed back; binding runs when it is IDLE. -/
def handBack (b : Nat) (s : State) : State :=
  let s1 := s.updBench b (fun x =>
    { x with
      orderSlot := none, hamper := none, unpacked := false, stalled := false
      state := if x.staffed then .idle else .closed })
  match s1.bench? b with
  | none => s1
  | some x => if x.state == .idle then s1.bindPass else s1

/-- R21: a CANCELLING order becomes CANCELLED. -/
def becomeCancelled (slot : Nat) (s : State) : State :=
  match s.order? slot with
  | none => s
  | some o =>
    let s1 := (s.updOrder slot (fun o => { o with state := .cancelled, bench := none })).raiseNotice .orderCancelled
    match o.bench with
    | none => s1
    | some b => s1.handBack b

/-- R21: whether a CANCELLING order has its Unpacked and no withdrawal pending. -/
def cancelDone (s : State) (slot : Nat) : Bool :=
  match s.order? slot with
  | none => false
  | some o =>
    o.state == .cancelling && o.withdrawals == 0 &&
      match o.bench.bind s.bench? with
      | none => false
      | some x => x.unpacked

/-- R21: the pending withdrawal of an item, where it has one, answered. -/
def answerWithdrawal (tag : Nat) (s : State) : State :=
  match (s.item? tag).bind (·.withdrawal) with
  | none => s
  | some slot =>
    let s1 := (s.updItem tag (fun x => { x with withdrawal := none })).updOrder slot
      (fun o => { o with withdrawals := o.withdrawals - 1 })
    if s1.cancelDone slot then s1.becomeCancelled slot else s1

end State

end Sys2Proof.Machine
end

