-- ==== Sys2Proof/Machine/Allocate.lean ====
section
/-! DEFINITION. The Allocator (chapter 4): candidate conditions, fit and credit tests, the score, the choice of the winner, the commit, and the faults of a run that finds no home. -/

namespace Sys2Proof.Machine

open Sys2Proof

/-! ### Candidate conditions (R64 to R70) -/

/-- R65: a direct match. -/
def directMatch (i : Item) (l : Line) : Bool :=
  l.cls == i.cls && l.sku == i.sku && (l.state == .opened || l.state == .short)

/-- R68: the zone test. -/
def ZoneRec.takes (vu : Nat) (r : ZoneRec) : Bool :=
  r.slots.any (· == .free) && decide (r.committed + vu ≤ r.capacity)

/-- R67, R68: the zone an item of a class and VU goes into, absent where R67 gives none or its zone test fails. -/
def Hamper.zoneFor (cls : ItemClass) (vu : Nat) (h : Hamper) : Option Zone :=
  let base := if !h.baseClosed && h.base.takes vu then some Zone.base else none
  match cls with
  | .heavy => base
  | .ambient => if h.middle.takes vu then some .middle else base
  | .fragile => if h.top.takes vu then some .top else none
  | .chilled => if h.pocketZone.takes vu then some .pocket else none

/-- R68, R81: what the zone choice and the fit test find. -/
inductive Fit where
  | noZone | overMass | into (z : Zone)
  deriving DecidableEq, Repr

def Hamper.fit (i : Item) (h : Hamper) : Fit :=
  match h.zoneFor i.cls i.vu with
  | none => .noZone
  | some z => if h.mass + i.mass ≤ h.massLimit then .into z else .overMass

/-- R69: the wait cause. -/
def waitFor (i : Item) (o : Order) (h : Hamper) : WaitCause :=
  if i.cls == .fragile && o.topGate == some .shut then .topGate
  else if i.cls == .chilled && h.pocket != .fitted then .pocket
  else .none

/-- R70: the source of credits that passes. -/
inductive CreditSource where
  | chute | common
  deriving DecidableEq, Repr

def State.creditTest (s : State) (b vu : Nat) (w : WaitCause) : Option CreditSource :=
  if w == .none && s.chuteRoom b vu then some .chute
  else if s.commonRoom b vu then some .common
  else none

/-! ### The score (R71 to R73) -/

/-- R71. -/
def State.urgency (s : State) (o : Order) : Nat := 1023 - min 1023 (s.cutoffOf o.wave - s.clock.minute)

/-- R72: R and C of an order. -/
def Order.wanted (o : Order) : Nat := (o.lines.map (fun l => if l.state == .closed then l.committed else l.required)).sum

def Order.got (o : Order) : Nat := (o.lines.map (·.committed)).sum

/-- R72. -/
def Order.completion (o : Order) : Nat := 256 * (o.got + 1) / o.wanted

/-- R73. -/
def State.score (s : State) (o : Order) : Nat := 1024 * o.priority + 4 * s.urgency o + o.completion

/-! ### The search (R74, R75) -/

structure Candidate where
  slot : Nat
  line : Nat
  bench : Nat
  rank : Nat
  zone : Zone
  wait : WaitCause
  source : CreditSource
  score : Nat
  age : Nat
  deriving DecidableEq, Repr

namespace State

/-- R64: the order-level conditions, with the bench of the order. -/
def orderBench? (s : State) (i : Item) (o : Order) : Option Nat :=
  match o.bench, s.lane? i.lane with
  | some b, some l =>
    let staffed := ((s.bench? b).map (·.staffed)).getD false
    if o.state == .building && staffed && decide (s.rushFloor ≤ o.priority) && benchIn l.vector b then some b else none
  | _, _ => none

/-- R64, R67 to R70: line n of order o as a candidate for item i at rank r. -/
def candidate? (s : State) (i : Item) (o : Order) (n rank : Nat) : Option Candidate :=
  match s.orderBench? i o with
  | none => none
  | some b =>
    match s.hamper? b with
    | none => none
    | some h =>
      match h.fit i with
      | .noZone | .overMass => none
      | .into z =>
        let w := waitFor i o h
        match s.creditTest b i.vu w with
        | none => none
        | some src => some ⟨o.slot, n, b, rank, z, w, src, s.score o, s.age o⟩

/-- R74: the candidates of the direct pass. -/
def directCandidates (s : State) (i : Item) : List Candidate :=
  s.book.orders.flatMap (fun o =>
    (o.lines.zipIdx 1).filterMap (fun ln => if directMatch i ln.1 then s.candidate? i o ln.2 0 else none))

/-- R66: the rank at which an item matches a line as a substitute. -/
def substituteRank? (s : State) (i : Item) (l : Line) : Option Nat :=
  if l.cls == i.cls && l.state == .short && l.group != 0 then
    ((s.alternates l.group).findIdx? (· == i.sku)).map (· + 1)
  else none

/-- R75: the candidates of the substitution pass. -/
def substituteCandidates (s : State) (i : Item) : List Candidate :=
  s.book.orders.flatMap (fun o =>
    (o.lines.zipIdx 1).filterMap (fun ln => (s.substituteRank? i ln.1).bind (s.candidate? i o ln.2)))

end State

/-- R74: highest score, then greatest age, then lowest slot. -/
def directBefore (a b : Candidate) : Bool :=
  if a.score ≠ b.score then decide (b.score < a.score)
  else if a.age ≠ b.age then decide (b.age < a.age)
  else decide (a.slot < b.slot)

/-- R75: lowest rank, then highest score, then greatest age, then lowest line number, then lowest slot. -/
def substituteBefore (a b : Candidate) : Bool :=
  if a.rank ≠ b.rank then decide (a.rank < b.rank)
  else if a.score ≠ b.score then decide (b.score < a.score)
  else if a.age ≠ b.age then decide (b.age < a.age)
  else if a.line ≠ b.line then decide (a.line < b.line)
  else decide (a.slot < b.slot)

/-- The candidate that goes before every other. -/
def bestOf (before : Candidate → Candidate → Bool) (cs : List Candidate) : Option Candidate :=
  cs.foldl (fun best c =>
    match best with
    | none => some c
    | some d => if before c d then some c else some d) none

namespace State

/-- R74, R75: the winner of a run: a direct candidate anywhere wins over every substitute. -/
def winner? (s : State) (i : Item) : Option Candidate :=
  match bestOf directBefore (s.directCandidates i) with
  | some c => some c
  | none => bestOf substituteBefore (s.substituteCandidates i)

/-! ### The commit (R76 to R79) -/

/-- R79: the pocket asked for at the first CHILLED commit of a hamper. -/
def askPocket (b : Nat) (s : State) : State :=
  match s.hamper? b with
  | none => s
  | some h =>
    if h.pocket == .none then
      (s.updHamper b (fun h => { h with pocket := .requested })).send (.bench b) .fitPocket
    else s

/-- R78: where a commit sends the item, and what it holds. -/
def destOf (c : Candidate) : Point :=
  match c.source with
  | .chute => .bench c.bench
  | .common => .buffer

def holdOf (c : Candidate) : Hold :=
  match c.source with
  | .chute => .chute c.bench
  | .common => .common c.bench

/-- R76 to R79: item i committed to a candidate. The completion check of R76 finds the order incomplete and changes
nothing, since i is not IN_HAMPER; a HEAVY commit leaves the gate as it is. -/
def commit (i : Item) (c : Candidate) (s : State) : State :=
  let n := ((s.hamper? c.bench).bind (·.freeSlot? c.zone)).getD 0
  let s1 := (s.updLine c.slot c.line (Line.commit c.rank s.clock.minute)).updOrder c.slot
    (fun o => if i.cls == .fragile then { o with fragileBegun := true } else o)
  let s2 := s1.updHamper c.bench (Hamper.reserve c.zone n i.mass i.vu)
  let s3 := match c.source with
    | .chute => s2.takeChute c.bench i.vu
    | .common => s2.takeCommon c.bench i.vu
  let s4 := s3.updItem i.tag (fun x =>
    { x with
      alloc := some ⟨c.slot, c.line, c.bench, c.rank, c.zone, n⟩
      wait := c.wait, hold := holdOf c, dest := some (destOf c) })
  let s5 := s4.route i.tag (some (destOf c))
  if i.cls == .chilled then s5.askPocket c.bench else s5

/-! ### Faults of a run without a home (R81, R82) -/

/-- R81: the lines of BUILDING orders that have the item's SKU and class and are OPEN or SHORT. -/
def matchingLines (s : State) (i : Item) : List Order :=
  s.book.orders.filter (fun o => o.state == .building && o.lines.any (directMatch i))

/-- R81: what the fit test finds for an order whose order-level conditions hold; absent where they do not. -/
def fitOf? (s : State) (i : Item) (o : Order) : Option Fit :=
  (s.orderBench? i o).bind (fun b => (s.hamper? b).map (·.fit i))

/-- R81: the FIT_REFUSED report of a run, where it raises one. -/
def fitRefused? (s : State) (i : Item) : Option (FaultCtx × Nat) :=
  let os := s.matchingLines i
  let failsZone := fun o => s.fitOf? i o == some .noZone
  let failsMass := fun o => s.fitOf? i o == some .overMass
  match os with
  | [] => none
  | o :: _ =>
    if os.all (fun o => failsZone o || failsMass o) then
      some ({ i.ctx with slot := some o.slot, bench := o.bench },
        if os.all failsZone then 1 else if os.all failsMass then 2 else 3)
    else none

/-- R82: the CLASS_CONFLICT report of a run, where it raises one. -/
def classConflict? (s : State) (i : Item) : Option (FaultCtx × Nat) :=
  s.book.orders.findSome? (fun o =>
    if o.state == .building then
      (o.lines.find? (fun l => l.sku == i.sku && l.cls != i.cls)).map (fun l =>
        ({ i.ctx with slot := some o.slot, bench := o.bench }, classCode l.cls))
    else none)

/-- R81, R82: the reports of a run without a home, in either order (log entry 24). -/
def reportNoFit (i : Item) (s : State) : State :=
  match s.fitRefused? i, s.classConflict? i with
  | none, none => s
  | some f, none => s.raiseFault .fitRefused f.1 f.2
  | none, some c => s.raiseFault .classConflict c.1 c.2
  | some f, some c =>
    eitherOrder (fun t => t.raiseFault .fitRefused f.1 f.2) (fun t => t.raiseFault .classConflict c.1 c.2) s

/-! ### The run (R62, R63) -/

/-- R63: one run for a tracked item: committed to its winner, or left without a home. -/
def runAllocation (tag : Nat) (s : State) : State :=
  match s.item? tag with
  | none => s
  | some i =>
    match s.winner? i with
    | some c => s.commit i c
    | none => s.reportNoFit i

/-- Whether an item has a destination, which a run gives it exactly when it finds a home. -/
def hasDest (s : State) (tag : Nat) : Bool :=
  match s.item? tag with
  | none => false
  | some i => i.dest != none

end State

end Sys2Proof.Machine
end

