-- ==== Sys2Proof/Machine/Admission.lean ====
section
/-! DEFINITION. The Lane Admission Unit (R50 to R53): the attempt, the scan of the schedule, and the admission of a lane head. -/

namespace Sys2Proof.Machine

open Sys2Proof

namespace State

/-- R52: whether a tracked item is expired. -/
def itemExpired (s : State) (tag : Nat) : Bool := ((s.item? tag).map (·.expired)).getD false

/-- R52: the expired head of a lane rejected. -/
def rejectHead (n tag : Nat) (s : State) : State :=
  ((s.send (.lane n) (.laneReject tag .expired)).updLane n (fun l => { l with queue := l.queue.tail })).freeItem tag

/-- R52: the expired heads of a lane rejected, one after another, until the head is not expired. -/
def rejectExpired (n : Nat) : List Nat → State → State
  | [], s => s
  | tag :: rest, s => if s.itemExpired tag then rejectExpired n rest (s.rejectHead n tag) else s

/-- R53: the head `tag` of lane n, selected at entry e, admitted; Route NONE where no home is found. -/
def admitItem (e n tag : Nat) (s : State) : State :=
  let s1 := s.send (.lane n) (.admitTag tag)
  let s2 := { s1 with admission := { s1.admission with pointer := (e + 1) % 32, mergeFree := false } }
  let s3 := (s2.updLane n (fun l => { l with queue := l.queue.tail })).judgeLanes
  let s4 := s3.updItem tag (fun x => { x with location := .onLoop, laps := 0 })
  let s5 := s4.runAllocation tag
  if s5.hasDest tag then s5 else s5.route tag none

/-- R52: the scan over the entries of a list, in its order. -/
def scanEntries : List Nat → State → State
  | [], s => s
  | e :: es, s =>
    match s.lane? (s.admission.schedule[e]?.getD 0) with
    | none => scanEntries es s
    | some l =>
      let s1 := rejectExpired l.number l.queue s
      match (s1.lane? l.number).bind (·.queue.head?) with
      | none => scanEntries es s1
      | some tag => s1.admitItem e l.number tag

/-- R51: whether an attempt proceeds to the scan. -/
def admissionOpen (s : State) : Bool :=
  s.cell.state == .running && s.admission.mergeFree && decide (s.occupancy < s.loop.capacity)

/-- R51, R52: admission tried. -/
def tryAdmit (s : State) : State :=
  if s.admissionOpen then scanEntries ((List.range 32).map (fun k => (s.admission.pointer + k) % 32)) s else s

end State

end Sys2Proof.Machine
end

