-- ==== Sys2Proof/Machine/Cages.lean ====
section
/-! DEFINITION. The Dispatch Unit (chapter 8): room, the full flag, the release of a hamper, lane service, and the choice of lane at Sealed. -/

namespace Sys2Proof.Machine

open Sys2Proof

/-- R152: a lane has room. -/
def DispatchLane.room (d : DispatchLane) : Bool := decide (d.count + d.inFlight < d.capacity)

namespace State

/-- R156: lane n's full flag judged; going from clear to set it raises the notice and the fault CAGE_FULL, with the
bench and order slot of the Release that set it, where one did. -/
def judgeFull (n : Nat) (by_ : Option (Nat × Nat)) (s : State) : State :=
  match s.dispatchLane? n with
  | none => s
  | some d =>
    let s1 := s.updDispatch n (fun d => { d with full := !d.room })
    if !d.full && !d.room then
      (s1.raiseNotice .cageFull).raiseFault .cageFull
        ⟨none, by_.map (·.2), by_.map (·.1), some n, none⟩ d.capacity
    else s1

/-- R155: Release sent to bench b, with its order, for lane n. -/
def releaseHamper (n b slot : Nat) (s : State) : State :=
  ((((s.send (.bench b) (.release n)).updDispatch n (fun d =>
    { d with holding := d.holding.filter (fun e => e.1 != b), inFlight := d.inFlight + 1 })).updBench b (fun x =>
    { x with state := .releasing })).updOrder slot (fun o => { o with dispatchLane := some n })).judgeFull n
    (some (b, slot))

/-- R154: whether bench b is staffed. -/
def staffed (s : State) (b : Nat) : Bool := ((s.bench? b).map (·.staffed)).getD false

/-- R154: up to k Releases on lane n: the first staffed bench of the list, while the cell state allows it and the lane
has room. -/
def serveTimes (n : Nat) : Nat → State → State
  | 0, s => s
  | k + 1, s =>
    match s.dispatchLane? n with
    | none => s
    | some d =>
      if s.working && d.room then
        match d.holding.find? (fun e => s.staffed e.1) with
        | none => s
        | some e => serveTimes n k (s.releaseHamper n e.1 e.2)
      else s

/-- R154: lane n served. -/
def serveLane (n : Nat) (s : State) : State :=
  match s.dispatchLane? n with
  | none => s
  | some d => serveTimes n d.holding.length s

/-- R154: all four lanes served in turn, lane 1 first. -/
def serveAll (s : State) : State := (upTo 4).foldl (fun t n => t.serveLane n) s

/-- R153: the Dispatch Unit takes bench b with the sealed order o: the lane chosen, the list joined, the lane served.
LATE_HAMPER is reported before the CAGE_FULL of a Release that this service makes (log entry 33). -/
def takeSealed (b : Nat) (o : Order) (s : State) : State :=
  let departed := s.waveState o.wave == .departed
  let n := if departed then s.lateLane else ((s.wave? o.wave).bind (·.lane)).getD 0
  let s1 := if departed then
      (s.updOrder o.slot (fun o => { o with late := true })).raiseFault .lateHamper
        ⟨none, some o.slot, some b, some n, none⟩ o.wave
    else s
  ((s1.updDispatch n (fun d => { d with holding := d.holding ++ [(b, o.slot)] })).updBench b (fun x =>
    { x with state := .holding })).serveLane n

end State

end Sys2Proof.Machine
end

