-- ==== Sys2Proof/Machine/CellControl.lean ====
section
/-! DEFINITION. Cell State Control (chapter 10): the quiet condition, the work of each state entry, the warm restart, and the judgments of draining and restarting. -/

namespace Sys2Proof.Machine

open Sys2Proof

/-! ### The quiet condition (R181) -/

/-- R181: the bench instructions outstanding at a bench: Fit Base, Fit Pocket, Seal, Release or Unpack. -/
def Bench.instructionOut (x : Bench) : Bool :=
  match x.state with
  | .fitting | .sealing | .releasing => true
  | .building =>
    match x.hamper with
    | none => false
    | some h => h.pocket == .requested
  | .unpacking => !x.unpacked
  | .closed | .idle | .holding => false

/-- R186: a cause added to the record; the causes in it stay. -/
def Causes.union (a b : Causes) : Causes :=
  ⟨a.powerUp || b.powerUp, a.immediate || b.immediate, a.boundary || b.boundary, a.forced || b.forced⟩

def Causes.none : Causes := ⟨false, false, false, false⟩
def Causes.ofImmediate : Causes := ⟨false, true, false, false⟩
def Causes.ofBoundary : Causes := ⟨false, false, true, false⟩
def Causes.ofForced : Causes := ⟨false, false, false, true⟩

namespace State

/-- R181: the number of outstanding field instructions. -/
def outstandingCount (s : State) : Nat :=
  s.items.countP (fun i => i.outstanding != .none) + s.benches.countP Bench.instructionOut

/-- R181: the parts of the quiet condition: occupancy, release list entries, outstanding field instructions. -/
def quietParts (s : State) : Nat × Nat × Nat := (s.occupancy, s.arbiter.releases.length, s.outstandingCount)

/-- R181: the cell is quiet. -/
def quiet (s : State) : Bool := s.quietParts == (0, 0, 0)

/-- R184: how much is still outstanding. -/
def outstandingTotal (s : State) : Nat := s.occupancy + s.arbiter.releases.length + s.outstandingCount

/-! ### State entries (R178) -/

def placeAll (s : State) : State := (upTo 12).foldl (fun t b => t.placeTry b) s
def sealAll (s : State) : State := (upTo 12).foldl (fun t b => t.sealTry b) s

/-- R178: Place issue, Seal issue and lane service at a state entry. -/
def resumeBenches (s : State) : State := s.placeAll.sealAll.serveAll

/-- R178: the work of entering RUNNING. Admission and the arbitration compete for chute credits; either may go first
(log entry 2). -/
def enterRunning (s : State) : State :=
  (eitherOrder tryAdmit arbitrate (s.setCell .running)).bindPass.resumeBenches

/-- R178: the work of entering PAUSED. -/
def enterPaused (s : State) : State := (s.setCell .paused).arbitrate.bindPass.resumeBenches

/-- R178: the work of entering DRAINING; the quiet condition is judged after it. -/
def enterDraining (s : State) : State := (s.setCell .draining).arbitrate.resumeBenches

/-! ### The warm restart (R185, with R26, R61, R107, R134, R162, R204) -/

/-- R134: a bench after a warm restart. -/
def restartBench (x : Bench) : Bench :=
  { x with state := .closed, staffed := false, stalled := false, orderSlot := none, unpacked := false, hamper := none }

/-- R107: a chute after a warm restart. -/
def restartChute (c : Chute) : Chute :=
  { c with freeItems := c.reserveItems, freeVu := c.reserveVu, heldItems := 0, heldVu := 0 }

/-- R162: a dispatch lane after a warm restart, its full flag judged from the kept count without notice. -/
def restartDispatch (d : DispatchLane) : DispatchLane :=
  { d with inFlight := 0, holding := [], full := decide (d.capacity ≤ d.count) }

/-- R191, R204: the notices after a warm restart: CELL_STATE alone pending. -/
def restartNotices (n : Notices) : Notices :=
  { n with
    pending := NoticeFlag.cellState.bit
    mark := false
    due := n.due || flagIn n.enables .cellState }

/-- R185: the volatile state cleared and the settings and fault history kept, before any record is sent. -/
def cleared (cause : Causes) (s : State) : State :=
  { s with
    book := ⟨[], 0⟩
    items := []
    entryCounter := 0
    lanes := s.lanes.map (fun l => { l with queue := [] })
    admission := { s.admission with pointer := 0, mergeFree := false }
    chutes := s.chutes.map restartChute
    pool := { s.pool with freeItems := s.pool.items, freeVu := s.pool.vu }
    arbiter := ⟨[], [], 12⟩
    benches := s.benches.map restartBench
    dispatch := s.dispatch.map restartDispatch
    cell :=
      { s.cell with
        state := if s.cell.committed then .ready else .setup
        mode := none
        deadline := none
        causes := s.cell.causes.union cause }
    notices := restartNotices s.notices }

/-- R185: Cell Restart to each of the twenty field units. -/
def sendRestarts (s : State) : State := allUnits.foldl (fun t u => t.send u .cellRestart) s

/-- R185: the warm restart; the lane signals are judged after the Cell Restart records (R47). -/
def warmRestart (cause : Causes) (s : State) : State := (s.cleared cause).sendRestarts.judgeLanes

/-! ### Draining and restarting (R181, R184) -/

/-- R181, R184: the quiet condition judged: a quiet DRAINING cell becomes READY, a quiet RESTARTING cell restarts. -/
def actQuiet (s : State) : State :=
  if s.quiet then
    match s.cell.state with
    | .draining => s.setCell .ready
    | .restarting => s.warmRestart .ofBoundary
    | .setup | .ready | .running | .paused | .halted => s
  else s

/-- R181: the judgment at the end of the event that took `s0` to `s`: it is made when a part of the condition or the
cell state has changed (log entry 28). -/
def judgeQuiet (s0 s : State) : State :=
  if s0.quietParts = s.quietParts ∧ s0.cell.state = s.cell.state then s else s.actQuiet

/-- R184: a restart forced at its deadline, with the count of what was outstanding. -/
def forceRestart (s : State) : State :=
  (s.warmRestart .ofForced).raiseFault .restartForced FaultCtx.empty (min 255 s.outstandingTotal)

/-- R184: the restart wait deadline judged at a tick. -/
def judgeDeadline (s : State) : State :=
  match s.cell.state, s.cell.deadline with
  | .restarting, some d => if s.reached d && !s.quiet then s.forceRestart else s
  | _, _ => s

end State

/-- An event of the cell: its handling, then the quiet judgment (R181). -/
def event (f : State → State) (s : State) : Outcome := .next (State.judgeQuiet s (f s))

end Sys2Proof.Machine
end

