-- ==== Sys2Proof/Machine/RequestFrames.lean ====
section
/-! DEFINITION. The request that a host frame spells (R189, R194, R197). The spec gives the body layout of Load Order, says of some requests that their body is empty, and gives the width of the one field of four others (log entry 37); the fields of every other request stand at free places of its body, and the width of each is that of its range (log entry 7). -/

namespace Sys2Proof.Machine

open Sys2Proof

/-- R197: entry `n` of a field of `w` bytes of a request body, least significant first, at a place that the spec does not
give. -/
def bodyNat (kind : Byte) (body : List Byte) (w k : Nat) (n : Nat := 0) : Nat :=
  fieldAt body (Config.fieldPlace kind body k n) w

/-- R197: a number of `w` bytes, absent where it is the all-ones value of that width. -/
def presentIn (w n : Nat) : Option Nat := if n + 1 = 256 ^ w then none else some n

/-- R197: a field of `w` bytes that may be absent. -/
def bodyOpt (kind : Byte) (body : List Byte) (w k : Nat) : Option Nat := presentIn w (bodyNat kind body w k)

/-- R197: a list of fields of `w` bytes; the codes of Set Counter Select and the benches of Set Lane Profile stand so
(DEDUCED, log entry 40). -/
def bodyNats (kind : Byte) (body : List Byte) (w k : Nat) : List Nat :=
  (List.range (Config.fieldCount kind body k)).map (bodyNat kind body w k)

/-- R197: the width of a field whose codes the spec does not give: one byte or more. -/
def codeWidth (kind : Byte) (k : Nat) : Nat := 1 + Config.codeExtra kind k

/-- R197: entry `n` of such a field: the value that its number stands for. -/
def bodyCode {α : Type} [Inhabited α] (kind : Byte) (body : List Byte) (k : Nat) (n : Nat := 0) : α :=
  Config.codeValue kind k (bodyNat kind body (codeWidth kind k) k n)

/-- R197: such a field where it may be absent. -/
def bodyCodeOpt {α : Type} [Inhabited α] (kind : Byte) (body : List Byte) (k : Nat) : Option α :=
  (presentIn (codeWidth kind k) (bodyNat kind body (codeWidth kind k) k)).map (Config.codeValue kind k)

/-- R112: slots and capacity of one zone. -/
def bodyZone (kind : Byte) (body : List Byte) (k : Nat) : ZonePlan := ⟨bodyNat kind body 1 k, bodyNat kind body 2 (k + 1)⟩

/-- R112: a template plan. -/
def bodyPlan (kind : Byte) (body : List Byte) (k : Nat) : TemplatePlan :=
  ⟨bodyNat kind body 1 k, bodyNat kind body 2 (k + 1), bodyZone kind body (k + 2), bodyZone kind body (k + 4),
    bodyZone kind body (k + 6), bodyZone kind body (k + 8)⟩

/-- R172: the kind entries of Set Fault Map: code, enable and severity of each. -/
def bodyEntries (kind : Byte) (body : List Byte) (k : Nat) : List MapField :=
  (List.range (Config.fieldCount kind body k)).map
    (fun n => ⟨bodyNat kind body 1 k n, bodyCode kind body (k + 1) n, bodyNat kind body 1 (k + 2) n⟩)

/-- R189, R194: the request that a host frame of a tag, a kind and a body spells. A kind that is not listed is unknown.
Where the spec gives a request an empty body, every other body has the wrong length (R174, R179, R180, R186, R187, R193);
an empty body is one of the lengths of Get Item, Get Bench and Get Staging, and names nothing (R43, R106, R133). DEDUCED
(log entry 37): a minute, a tag and a set of notice flags are fields of 2 bytes, so that the body of Set Clock, of a Get
Item that names a tag, of Set Notice Enable and of Acknowledge Notices has 2 bytes. -/
def requestOfFrame (tag kind : Byte) (body : List Byte) : Instr :=
  let rq : ReqHead := ⟨tag, Config.requestLengthOk kind body, true⟩
  let coded : ReqHead := { rq with valueOk := Config.requestValueOk kind body }
  let empty : ReqHead := { rq with lengthOk := decide (body = []) }
  let pair : ReqHead := { rq with lengthOk := decide (body.length = 2) }
  let orEmpty : ReqHead := { rq with lengthOk := decide (body = []) || Config.requestLengthOk kind body }
  let num (w k : Nat) : Nat := bodyNat kind body w k
  let opt : Nat → Nat → Option Nat := bodyOpt kind body
  let ref : Nat := num 4 2
  match kind.toNat with
  | 0x01 => .getIdentity empty
  | 0x02 => .getCellStatus empty
  | 0x03 => .commitSetup empty
  | 0x04 => .startCell empty
  | 0x05 => .pauseCell empty
  | 0x06 => .stopCell empty
  | 0x07 => .clearHalt empty
  | 0x08 =>
    if (bodyCode kind body 2 : Bool) then .restartCellAtBoundary coded else .restartCellImmediate coded
  | 0x09 => .getRestartCauses empty
  | 0x0A => .clearRestartCauses empty
  | 0x10 => .setClock pair (BitVec.ofNat 16 (fieldAt body 0 2))
  | 0x11 => .setWave rq (num 1 2) (num 1 3) (BitVec.ofNat 16 (num 2 4))
  | 0x12 => .departWave rq (num 1 2)
  | 0x13 => .getWave rq (opt 1 2)
  | 0x20 => .loadOrder tag body
  | 0x21 =>
    match (bodyCode kind body 3 : Fin 5) with
    | 0 => .setQuantity coded ref (num 1 4) (num 1 5)
    | 1 => .addLine coded ref (num 3 4) (num 1 5) (num 1 6) (num 1 7)
    | 2 => .removeLine coded ref (num 1 4)
    | 3 => .setPriority coded ref (num 1 4)
    | 4 => .amendSetWave coded ref (num 1 4)
  | 0x22 => .holdOrder rq ref
  | 0x23 => .resumeOrder rq ref
  | 0x24 => .cancelOrder rq ref
  | 0x25 => .retireOrder rq ref
  | 0x26 => .declareShort rq ref (num 1 3)
  | 0x27 => .restoreLine rq ref (num 1 3)
  | 0x28 => .closeLine rq ref (num 1 3)
  | 0x29 => .getOrder rq ref
  | 0x2A =>
    let marks : Bool × Bool := bodyCode kind body 3
    .listOrders coded (bodyCode kind body 2) marks.1 marks.2
  | 0x30 => .setTemplate rq (num 1 2) (bodyPlan kind body 3)
  | 0x31 =>
    .setBenchProfile coded (num 1 2) (bodyCodeOpt kind body 3) (bodyCodeOpt kind body 4) (opt 1 5)
      (opt 1 6) (opt 2 7)
  | 0x32 => .setCommonPool rq (num 1 2) (num 2 3)
  | 0x33 => .setCommonCap rq (opt 1 2) (num 1 3) (num 2 4)
  | 0x34 => .setLaneProfile rq (num 1 2) (bodyNats kind body 1 3)
  | 0x35 => .setAdmissionSchedule rq (bodyNats kind body 1 2)
  | 0x36 => .setLoop rq (opt 1 2) (opt 1 3)
  | 0x37 => .setTimers rq (opt 1 2) (opt 1 3) (opt 1 4) (opt 1 5)
  | 0x38 => .setSubstitutionGroup rq (num 1 2) (num 1 3) (bodyNats kind body 3 4)
  | 0x39 => .setRushFloor rq (num 1 2)
  | 0x3A => .setDispatchLane rq (num 1 2) (opt 1 3) (opt 1 4)
  | 0x3B => .setLateLane rq (num 1 2)
  | 0x40 => .cageSwapped rq (num 1 2)
  | 0x41 =>
    .getItem { rq with lengthOk := decide (body = [] ∨ body.length = 2) }
      (if body = [] then none else some (fieldAt body 0 2))
  | 0x42 => .getBench orEmpty (if body = [] then none else some (num 1 2))
  | 0x43 => .getStaging orEmpty (if body = [] then none else some (num 1 2))
  | 0x50 =>
    .setFaultMap coded (num 1 2) (bodyEntries kind body 3) (bodyCodeOpt kind body 6) (bodyCodeOpt kind body 7)
      (bodyCodeOpt kind body 8)
  | 0x51 => .setCounterSelect rq (num 1 2) (bodyNats kind body 1 3)
  | 0x52 => .getFaultRecords rq (opt 1 2)
  | 0x53 => .clearFaultRecords rq (opt 1 2)
  | 0x54 => .getCounters empty
  | 0x55 => .clearCounter rq (num 1 2)
  | 0x58 => .setNoticeEnable pair (BitVec.ofNat 16 (fieldAt body 0 2))
  | 0x59 => .setAttentionPolarity coded (bodyCode kind body 2)
  | 0x5A => .getNotices empty
  | 0x5B => .acknowledgeNotices pair (BitVec.ofNat 16 (fieldAt body 0 2))
  | _ => .unknownKind tag kind

end Sys2Proof.Machine
end

