-- ==== Sys2Proof/Machine/LinkOps.lean ====
section
/-! DEFINITION. The Host Link Interface's shared operations: the transmitter, replies in request order, BUSY, the bytes of the host link, and the hand-over of a request to its owner (R188, R189, R191). -/

namespace Sys2Proof.Machine

open Sys2Proof

/-! ### The receive queue (R189) -/

/-- R189: the frame of a BUSY reply. -/
def busyFrame (e : Byte × Byte) : HostFrame := .reply e.1 (busyKind e.2) ⟨.busy, .none⟩

namespace State

/-- R189: whether the oldest request of the queue is this one, with its tag, its kind and its fields, and its owner has not
yet taken it. -/
def atHead (s : State) (tag kind : Byte) (c : Instr) : Bool :=
  match s.link.queue with
  | [] => false
  | e :: _ => e == ⟨tag, kind, .waiting c⟩

/-- R189: whether a request may be handed to its owner: it is the oldest and not yet taken, or it arrives now at an empty
queue (log entry 6). -/
def inTurn (s : State) (tag kind : Byte) (c : Instr) : Bool := s.link.queue.isEmpty || s.atHead tag kind c

/-! ### The transmitter (R189, R191) -/

/-- A frame begun. -/
def beginFrame (f : HostFrame) (s : State) : State :=
  { s with link := { s.link with tx := some f, sent := s.link.sent ++ [f] } }

/-- R189: whether the next reply in request order is made and waits for the transmitter. -/
def replyWaits (s : State) : Bool :=
  match s.link.queue with
  | [] => false
  | e :: _ =>
    match e.stage with
    | .waiting _ => false
    | .answered _ => true

/-- R189: the next BUSY reply, else the next reply in request order, begun; its place is freed. Of several BUSY replies
that wait the oldest goes first (log entry 34). -/
def beginReply (s : State) : State :=
  match s.link.busyHold with
  | e :: es => { s with link := { s.link with busyHold := es } }.beginFrame (busyFrame e)
  | [] =>
    match s.link.queue with
    | e :: es =>
      match e.stage with
      | .answered r => { s with link := { s.link with queue := es } }.beginFrame (.reply e.tag (replyKind e.kind) r)
      | .waiting _ => s
    | [] => s

/-- R191: the due Notice frame begun, carrying the pending set and the minute as they stand. -/
def beginNotice (s : State) : State :=
  { s with notices := { s.notices with due := false } }.beginFrame (.notice s.notices.pending s.clock.minute)

/-- R189: a reply that finds the transmitter free begins at once. -/
def startIfFree (s : State) : State := if s.link.tx == none then s.beginReply else s

/-- R189: the reply of the request at the head of the queue, or of one that arrives at an empty queue, takes its place
and begins when the transmitter is free. -/
def answer (tag kind : Byte) (r : Reply) (s : State) : State :=
  let q := match s.link.queue with
    | [] => [⟨tag, kind, .answered r⟩]
    | e :: es => { e with stage := .answered r } :: es
  { s with link := { s.link with queue := q } }.startIfFree

/-- R189: a request that finds 4 queued: answered BUSY, or dropped when 4 BUSY replies wait. -/
def answerBusy (tag kind : Byte) (s : State) : State :=
  if s.link.busyHold.length < Config.linkRoom then
    { s with link := { s.link with busyHold := s.link.busyHold ++ [(tag, kind)] } }.startIfFree
  else s

/-! ### Host frames (R188) -/

/-- R189: a checked request arrives. -/
def requestArrives (tag kind : Byte) (c : Instr) (s : State) : State :=
  if s.link.queue.length < Config.linkRoom then
    { s with link := { s.link with queue := s.link.queue ++ [⟨tag, kind, .waiting c⟩] } }
  else s.answerBusy tag kind

/-- R188, R189: what the end of a host frame does. A good frame is the request that its body spells. -/
def hostFrameEnds (e : FrameEnd) (s : State) : State :=
  match e with
  | .badLength => s.raiseFault .linkFrame FaultCtx.empty 1
  | .badCrc => s.raiseFault .linkFrame FaultCtx.empty 2
  | .good (tag :: kind :: body) => s.requestArrives tag kind (requestOfFrame tag kind body)
  | .good _ => s

/-- R188: bytes that arrive on the host link. -/
def hostBytes : List Byte → State → State
  | [], s => s
  | b :: bs, s =>
    let r := rxByte 2 1026 s.link.rx b
    let s1 := { s with link := { s.link with rx := r.1 } }
    hostBytes bs (match r.2 with
      | none => s1
      | some e => s1.hostFrameEnds e)

end State

/-! ### The hand-over of a request (R189) -/

/-- R189: the request c, of kind `kind`, handed to its owner, which answers with a reply and a state. Where it is not in
turn it arrives, and waits for its turn in the queue, or finds 4 queued (log entry 6). -/
def request (c : Instr) (rq : ReqHead) (kind : Byte) (owner : State → Reply × State) (s : State) : Outcome :=
  if s.inTurn rq.tag kind c then
    let r := owner s
    .next ((State.judgeQuiet s r.2).answer rq.tag kind r.1)
  else .next (s.requestArrives rq.tag kind c)

/-- A reply that carries its status alone. -/
def bare (st : Status) : Reply := ⟨st, .none⟩

/-- A reply OK with a body. -/
def okWith (b : ReplyBody) : Reply := ⟨.ok, b⟩

/-- R189: a body of the wrong length is refused with BAD_LENGTH, a field out of range with BAD_VALUE, and a refused
request changes nothing. Where the rule of a request states no order of its cases of refusal, the first that it lists
gives the status: DESIGN CHOICE (log entry 38). -/
def checked (lengthOk valueOk : Bool) (owner : State → Reply × State) (s : State) : Reply × State :=
  if !lengthOk then (bare .badLength, s)
  else if !valueOk then (bare .badValue, s)
  else owner s

end Sys2Proof.Machine
end

