-- ==== Sys2Proof/Machine/Operands.lean ====
section
/-! DEFINITION. The checks of operands: the ranges of request fields, the checks of an order request (R13), and the checks of a field record's address, kind and length (R190). -/

namespace Sys2Proof.Machine

open Sys2Proof

/-! ### Ranges (each named in the rule of its request) -/

/-- Both ends are in the range. -/
def inRange (lo hi n : Nat) : Bool := decide (lo ≤ n ∧ n ≤ hi)

/-- An absent field is in range. -/
def optInRange (lo hi : Nat) : Option Nat → Bool
  | none => true
  | some n => inRange lo hi n

def maxSku : Nat := 16777214
def maxRef : Nat := 4294967294

/-- R14, R17: the fields of a line, its class aside. -/
def lineFieldsOk (sku cls required group : Nat) : Bool :=
  inRange 1 maxSku sku && (classOfCode cls).isSome && inRange 1 12 required && inRange 0 31 group

/-- R112: the fields of a template entry. -/
def planOk (p : TemplatePlan) : Bool :=
  inRange 1 4 p.sizeClass && inRange 1 30000 p.massLimit &&
    inRange 0 16 p.base.slots && inRange 0 16 p.middle.slots && inRange 0 16 p.top.slots &&
    inRange 0 1000 p.base.capacity && inRange 0 1000 p.middle.capacity && inRange 0 1000 p.top.capacity &&
    inRange 0 8 p.pocket.slots && inRange 0 1000 p.pocket.capacity &&
    inRange 1 48 (p.base.slots + p.middle.slots + p.top.slots + p.pocket.slots)

/-- No entry of a list stands twice. -/
def distinct : List Nat → Bool
  | [] => true
  | x :: xs => !xs.contains x && distinct xs

/-- R14: the fields of a Load Order. -/
def loadFieldsOk (f : LoadFields) : Bool :=
  inRange 1 maxRef f.ref && inRange 0 3 f.priority && inRange 1 8 f.wave && inRange 1 8 f.template &&
    inRange 1 Config.maxLines f.lines.length &&
    f.lines.all (fun l => lineFieldsOk l.sku l.cls l.required l.group) &&
    decide ((f.lines.map (·.required)).sum ≤ Config.maxUnits)

/-- R193: a flag set that names no flag above 10. -/
def flagsOk (v : BitVec 16) : Bool := decide (v.toNat < 2048)

/-! ### Order requests (R13) -/

/-- R13: the reply to a request that names an order carries its slot, except with BAD_LENGTH, BAD_VALUE and
NOT_FOUND. -/
def orderReply (st : Status) (slot : Nat) : Reply :=
  match st with
  | .badLength | .badValue | .notFound => bare st
  | _ => ⟨st, .slot slot⟩

/-- R15, R137 to R139: LOADED, BUILDING or HELD. -/
def openOrder (st : OrderState) : Bool := st == .loaded || st == .building || st == .held

/-- R13: the checks of a request that names one order, in their order: length, ranges, reference, state. -/
def orderRequest (rq : ReqHead) (valueOk : Bool) (ref : Nat) (allowed : OrderState → Bool)
    (owner : Order → State → Reply × State) (s : State) : Reply × State :=
  checked rq.lengthOk (valueOk && inRange 1 maxRef ref) (fun s =>
    match s.orderOf? ref with
    | none => (bare .notFound, s)
    | some o => if allowed o.state then owner o s else (orderReply .wrongState o.slot, s)) s

/-! ### Field records (R190) -/

/-- R190: the lane or the bench of an address, as fault context. -/
def FieldUnit.ctx : FieldUnit → FaultCtx
  | .lane n => { FaultCtx.empty with lane := some n }
  | .bench n => { FaultCtx.empty with bench := some n }
  | .sorter | .buffer => FaultCtx.empty

/-- R190: the fault of a record that does not fit its address, its kind or its length, where it has one. A record whose
kind its unit does not send and whose length is wrong too is reported once, with detail 11: R190 gives the details no
order, so that the kind is judged before the length is a DESIGN CHOICE (log entry 36). -/
def recordFault (addr : Byte) (kind : Nat) (lengthOk : Bool) : Option (FaultCtx × Nat) :=
  match unitOf addr with
  | none => some (FaultCtx.empty, 10)
  | some u => if !u.sends kind then some (u.ctx, 11) else if !lengthOk then some (u.ctx, 12) else none

/-- R190: a record of a kind handed to its owner with the number of its unit (0 for the sorter and the buffer), or
reported and ignored. -/
def State.fieldRecord (hd : RecHead) (kind : Nat) (owner : Nat → State → State) (s : State) : State :=
  match recordFault hd.addr kind hd.lengthOk with
  | some (c, d) => s.raiseFault .fieldMismatch c d
  | none =>
    match unitOf hd.addr with
    | some (.lane n) | some (.bench n) => owner n s
    | some .sorter | some .buffer => owner 0 s
    | none => s

/-- A FIELD_MISMATCH that carries a tag. -/
def State.tagMismatch (tag detail : Nat) (s : State) : State :=
  s.raiseFault .fieldMismatch { FaultCtx.empty with tag := some tag } detail

/-- A FIELD_MISMATCH that carries a tag and a bench. -/
def State.tagBenchMismatch (tag bench detail : Nat) (s : State) : State :=
  s.raiseFault .fieldMismatch { FaultCtx.empty with tag := some tag, bench := some bench } detail

/-- A FIELD_MISMATCH that carries a bench. -/
def State.benchMismatch (bench detail : Nat) (s : State) : State :=
  s.raiseFault .fieldMismatch { FaultCtx.empty with bench := some bench } detail

/-- R57, R100: the bench of a point, when it is a bench 1 to 12. -/
def pointBench? : Point → Option Nat
  | .bench n => if inRange 1 12 n then some n else none
  | .buffer | .exception | .other => none

/-- R57: a point of the sorter: a bench 1 to 12, BUFFER or EXCEPTION. -/
def sorterPoint : Point → Bool
  | .bench n => inRange 1 12 n
  | .buffer | .exception => true
  | .other => false

/-- R98 to R100: a point of delivery: a bench 1 to 12 or EXCEPTION (log entry 15). -/
def deliveryPoint : Point → Bool
  | .bench n => inRange 1 12 n
  | .exception => true
  | .buffer | .other => false

end Sys2Proof.Machine
end

