-- ==== Sys2Proof/Machine/BenchRecords.lean ====
section
/-! DEFINITION. The records of the benches (chapter 6, R147 to R149, R157). -/

namespace Sys2Proof.Machine

open Sys2Proof

/-- R123: the detail of PLACE_REFUSED. -/
def refuseDetail : RefuseReason → Nat
  | .damaged => 1
  | .wrongItem => 2
  | .noRoom => 3
  | .other => 0

/-- R8: a LOADED order whose base is fitted. -/
def Order.based (o : Order) : Order :=
  if o.state == .loaded then { o with state := if o.held then .held else .building } else o

/-- R157: a lane's cage takes a hamper. -/
def DispatchLane.taken (d : DispatchLane) : DispatchLane :=
  { d with count := min 40 (d.count + 1), inFlight := d.inFlight - 1 }

/-- R154: the lane on whose holding list bench b stands. -/
def State.holdingLane? (s : State) (b : Nat) : Option Nat :=
  (s.dispatch.find? (fun d => d.holding.any (fun e => e.1 == b))).map (·.number)

/-- R21, R129: the tags of the items allocated to the order in a slot and IN_HAMPER. -/
def State.inHamperOf (s : State) (slot : Nat) : List Nat :=
  (s.items.filter (fun i => i.allocatedTo slot && i.location == .inHamper)).map (·.tag)

namespace State

/-! ### Bench Open, Bench Close (R109, R110) -/

/-- R109: an occupied bench staffed again: Place issue and Seal issue tried, and the lane of its list served. -/
def restaff (b : Nat) (s : State) : State :=
  let s1 := ((s.updBench b (fun x => { x with staffed := true })).placeTry b).sealTry b
  match s1.holdingLane? b with
  | none => s1
  | some n => s1.serveLane n

/-- R109. -/
def benchOpen (b : Nat) (s : State) : State :=
  match s.bench? b with
  | none => s
  | some x =>
    match x.state with
    | .closed => (s.updBench b (fun x => { x with state := .idle, staffed := true })).bindPass
    | .idle => s
    | .fitting | .building | .sealing | .holding | .releasing | .unpacking => if x.staffed then s else s.restaff b

/-- R110. -/
def benchClose (b : Nat) (s : State) : State :=
  match s.bench? b with
  | none => s
  | some x =>
    match x.state with
    | .idle => s.updBench b (fun x => { x with state := .closed, staffed := false })
    | .closed => s
    | .fitting | .building | .sealing | .holding | .releasing | .unpacking =>
      s.updBench b (fun x => { x with staffed := false })

/-! ### Base Fitted, Pocket Fitted (R117, R118) -/

/-- R8, R117. -/
def baseFitted (b : Nat) (s : State) : State :=
  match s.bench? b with
  | none => s
  | some x =>
    match x.state with
    | .fitting =>
      let slot := x.orderSlot.getD 0
      (((s.updBench b (fun x => { x with state := .building })).updOrder slot Order.based).placeTry b).completionCheck
        slot
    | .unpacking => s
    | .closed | .idle | .building | .sealing | .holding | .releasing => s.benchMismatch b 3

/-- R118: a pocket fitted. -/
def fitPocket (b slot : Nat) (s : State) : State :=
  (((s.updHamper b (fun h => { h with pocket := .fitted })).clearWaits slot .pocket).arbitrate).sealTry b

/-- R118. -/
def pocketFitted (b : Nat) (s : State) : State :=
  match s.bench? b with
  | none => s
  | some x =>
    if x.state = .unpacking then s
    else match x.hamper with
      | none => s.benchMismatch b 3
      | some h =>
        match h.pocket with
        | .requested => s.fitPocket b (x.orderSlot.getD 0)
        | .fitted => s
        | .none => s.benchMismatch b 3

/-! ### Answers for one item (R121 to R126, R148, R149) -/

/-- R126, R149: an answer of bench b for item i taken as from the bench at which i stands. -/
def fromBench (b : Nat) (i : Item) (owner : Nat → State → State) (s : State) : State :=
  match i.locBench with
  | none => s.tagBenchMismatch i.tag b 1
  | some c => if c = b then owner b s else owner c (s.tagBenchMismatch i.tag b 2)

/-- R6, R114, R115: the unit of an allocation placed: slot FILLED, BASE closed at the first into TOP, the line's placed
count risen. -/
def fillUnit (a : Alloc) (s : State) : State :=
  (s.updHamper a.bench (Hamper.fill a.zone a.slotNo)).updLine a.slot a.line Line.place

/-- R12: the gate recomputed when line n of the order in a slot is HEAVY. -/
def gateIfHeavy (slot n : Nat) (s : State) : State := if s.lineHeavy slot n then s.recomputeGate slot else s

/-- R121: a Placed that answers a Place at bench b. -/
def placedAnswer (i : Item) (b : Nat) (s : State) : State :=
  let s1 := (s.dropPlace b i.tag).updItem i.tag (fun x => { x with outstanding := .none })
  let s2 := match i.alloc with
    | none => s1
    | some a => s1.fillUnit a
  let s3 := s2.returnChute i.tag
  let s4 := if i.cls = .chilled then s3.updItem i.tag (fun x => { x with location := .inHamper }) else s3.freeItem i.tag
  let s5 := match i.alloc with
    | none => s4
    | some a => (s4.gateIfHeavy a.slot a.line).completionCheck a.slot
  (s5.judgeStall b).placeTry b

/-- R122: a Placed that overtook a Return at bench b. -/
def placedOvertook (i : Item) (b : Nat) (s : State) : State :=
  let s1 := s.returnChute i.tag
  let s2 := match i.alloc with
    | none => s1
    | some a => s1.fillUnit a
  let s3 := (s2.updItem i.tag (fun x => { x with location := .inHamper })).sendPull b i.tag
  let s4 := match i.alloc with
    | none => s3
    | some a => (s3.gateIfHeavy a.slot a.line).completionCheck a.slot
  s4.answerWithdrawal i.tag

/-- R121, R122, R126: a Placed. -/
def placed (tag b : Nat) (s : State) : State :=
  match s.item? tag with
  | none => s.tagBenchMismatch tag b 0
  | some i =>
    match i.outstanding with
    | .place _ => s.fromBench b i (placedAnswer i)
    | .ret _ => s.fromBench b i (placedOvertook i)
    | .none | .pull _ => s.tagBenchMismatch tag b 1

/-- R125: a Returned that answers a Return. -/
def returnedAnswer (i : Item) (s : State) : State :=
  let s1 := (((s.updItem i.tag (fun x => { x with outstanding := .none })).releaseAlloc i.tag).returnChute
    i.tag).answerWithdrawal i.tag
  let s2 := s1.freeItem i.tag
  match i.alloc with
  | none => s2
  | some a => s2.completionCheck a.slot

/-- R125, R126: a Returned. -/
def returned (tag b : Nat) (s : State) : State :=
  match s.item? tag with
  | none => s.tagBenchMismatch tag b 0
  | some i =>
    match i.outstanding with
    | .ret _ => s.fromBench b i (fun _ => returnedAnswer i)
    | .none | .place _ | .pull _ => s.tagBenchMismatch tag b 1

/-- R123: the report of a refusal at bench b (log entry 30 for its order slot). -/
def reportRefused (i : Item) (r : RefuseReason) (b : Nat) (s : State) : State :=
  s.raiseFault .placeRefused { i.ctx with slot := i.alloc.map (·.slot), bench := some b } (refuseDetail r)

/-- R123: a Place Refused that answers a Place at bench b. -/
def refusedPlace (i : Item) (r : RefuseReason) (b : Nat) (s : State) : State :=
  let s1 := (((s.reportRefused i r b).dropPlace b i.tag).updItem i.tag
    (fun x => { x with outstanding := .none })).releaseAlloc i.tag
  let s2 := match i.alloc, r with
    | some a, .noRoom => s1.updHamper a.bench (Hamper.clamp a.zone)
    | _, _ => s1
  (((s2.returnChute i.tag).freeItem i.tag).judgeStall b).placeTry b

/-- R123, R126: a Place Refused. -/
def placeRefused (tag : Nat) (r : RefuseReason) (b : Nat) (s : State) : State :=
  if r = .other then s.tagBenchMismatch tag b 4
  else match s.item? tag with
    | none => s.tagBenchMismatch tag b 0
    | some i =>
      match i.outstanding with
      | .place _ => s.fromBench b i (refusedPlace i r)
      | .ret _ => s.fromBench b i (fun c t => (t.reportRefused i r c).returnedAnswer i)
      | .none | .pull _ => s.tagBenchMismatch tag b 1

/-- R148: a Pulled that answers a Pull. -/
def pulledAnswer (i : Item) (s : State) : State :=
  let s1 := match i.alloc with
    | none => s
    | some a =>
      ((((s.updLine a.slot a.line (Line.pull a.rank)).updHamper a.bench
        (Hamper.vacate a.zone a.slotNo i.mass i.vu)).updItem i.tag
        (fun x => { x with alloc := none, outstanding := .none })).gateIfHeavy a.slot a.line).completionCheck a.slot
  s1.freeItem i.tag

/-- R148, R149: a Pulled. -/
def pulled (tag b : Nat) (s : State) : State :=
  match s.item? tag with
  | none => s
  | some i =>
    match i.outstanding with
    | .pull _ => s.fromBench b i (fun _ => pulledAnswer i)
    | .none | .place _ | .ret _ => s.tagBenchMismatch tag b 1

/-! ### Sealed, Hamper Out, Unpacked (R129, R131, R157) -/

/-- The order bound to a bench. -/
def orderAt? (s : State) (x : Bench) : Option Order := x.orderSlot.bind s.order?

/-- R11, R129: the order of bench b sealed. -/
def sealOrder (b : Nat) (o : Order) (s : State) : State :=
  let s1 := s.updOrder o.slot (fun o => { o with state := .sealed, sealMinute := some s.clock.minute })
  ((s1.inHamperOf o.slot).foldl (fun t tag => t.freeItem tag) s1).takeSealed b o

/-- R129. -/
def hamperSealed (b : Nat) (s : State) : State :=
  match s.bench? b with
  | none => s
  | some x =>
    match x.state with
    | .sealing =>
      match s.orderAt? x with
      | none => s.benchMismatch b 3
      | some o => if o.state = .complete then s.sealOrder b o else s.benchMismatch b 3
    | .unpacking => s
    | .closed | .idle | .fitting | .building | .holding | .releasing => s.benchMismatch b 3

/-- R157: lane n's cage takes a hamper, with CAGE_MATCH where the count comes to the match count. -/
def cageTakes (n : Nat) (s : State) : State :=
  let s1 := s.updDispatch n DispatchLane.taken
  match s1.dispatchLane? n with
  | none => s1
  | some d => if d.matchCount ≠ 0 ∧ d.count = d.matchCount then s1.raiseNotice .cageMatch else s1

/-- R11, R157: the hamper of order o leaves bench b. -/
def dispatchOrder (b : Nat) (o : Order) (s : State) : State :=
  (((s.cageTakes (o.dispatchLane.getD 0)).updOrder o.slot
    (fun o => { o with state := .dispatched, bench := none })).raiseNotice .orderDispatched).handBack b

/-- R157. -/
def hamperOut (b : Nat) (s : State) : State :=
  match s.bench? b with
  | none => s
  | some x =>
    match x.state with
    | .releasing =>
      match s.orderAt? x with
      | none => s.benchMismatch b 3
      | some o => if o.state = .sealed then s.dispatchOrder b o else s.benchMismatch b 3
    | .closed | .idle | .fitting | .building | .sealing | .holding | .unpacking => s.benchMismatch b 3

/-- R21, R131: the hamper of bench b taken apart. -/
def takeApart (b slot : Nat) (s : State) : State :=
  let s1 := s.updBench b (fun x => { x with unpacked := true, hamper := none })
  let s2 := (s1.inHamperOf slot).foldl (fun t tag => t.freeItem tag) s1
  if s2.cancelDone slot then s2.becomeCancelled slot else s2

/-- R131. -/
def unpacked (b : Nat) (s : State) : State :=
  match s.bench? b with
  | none => s
  | some x =>
    if x.state = .unpacking ∧ x.unpacked = false then s.takeApart b (x.orderSlot.getD 0) else s.benchMismatch b 3

end State

/-! ### The commands -/

/-- BENCH_OPEN, kind 0x20 from a bench (R109). -/
def execBenchOpen (hd : RecHead) (s : State) : Outcome := event (State.fieldRecord hd 0x20 State.benchOpen) s

/-- BENCH_CLOSE, kind 0x21 from a bench (R110). -/
def execBenchClose (hd : RecHead) (s : State) : Outcome := event (State.fieldRecord hd 0x21 State.benchClose) s

/-- BASE_FITTED, kind 0x22 from a bench (R8, R117). -/
def execBaseFitted (hd : RecHead) (s : State) : Outcome := event (State.fieldRecord hd 0x22 State.baseFitted) s

/-- POCKET_FITTED, kind 0x23 from a bench (R118). -/
def execPocketFitted (hd : RecHead) (s : State) : Outcome := event (State.fieldRecord hd 0x23 State.pocketFitted) s

/-- PLACED, kind 0x24 from a bench (R121, R122). -/
def execPlaced (hd : RecHead) (tag : Nat) (s : State) : Outcome := event (State.fieldRecord hd 0x24 (State.placed tag)) s

/-- PLACE_REFUSED, kind 0x25 from a bench (R123). -/
def execPlaceRefused (hd : RecHead) (tag : Nat) (reason : RefuseReason) (s : State) : Outcome :=
  event (State.fieldRecord hd 0x25 (State.placeRefused tag reason)) s

/-- RETURNED, kind 0x26 from a bench (R125). -/
def execReturned (hd : RecHead) (tag : Nat) (s : State) : Outcome :=
  event (State.fieldRecord hd 0x26 (State.returned tag)) s

/-- PULLED, kind 0x27 from a bench (R148). -/
def execPulled (hd : RecHead) (tag : Nat) (s : State) : Outcome := event (State.fieldRecord hd 0x27 (State.pulled tag)) s

/-- SEALED, kind 0x28 from a bench (R11, R129). -/
def execHamperSealed (hd : RecHead) (s : State) : Outcome := event (State.fieldRecord hd 0x28 State.hamperSealed) s

/-- HAMPER_OUT, kind 0x29 from a bench (R157). -/
def execHamperOut (hd : RecHead) (s : State) : Outcome := event (State.fieldRecord hd 0x29 State.hamperOut) s

/-- UNPACKED, kind 0x2A from a bench (R131). -/
def execUnpacked (hd : RecHead) (s : State) : Outcome := event (State.fieldRecord hd 0x2A State.unpacked) s

end Sys2Proof.Machine
end

