-- ==== Sys2Proof/Machine/SorterRecords.lean ====
section
/-! DEFINITION. The records of the sorter: Merge Ready, Divert Done, Loop Pass (R50, R57 to R60), with the settling of credits at a sorter confirmation (R90). -/

namespace Sys2Proof.Machine

open Sys2Proof

/-- R58: whether an item's credit hold names the point of divert. -/
def holdNames : Hold → Point → Bool
  | .chute b, .bench c => b == c
  | .common _, .buffer => true
  | _, _ => false

/-- R58: the detail of MISROUTE at the sorter. -/
def misrouteDetail : Point → Nat
  | .bench _ => 1
  | .buffer => 2
  | .exception | .other => 3

/-- R58, R100: the context of MISROUTE. -/
def misrouteCtx (i : Item) (p : Point) : FaultCtx :=
  { i.ctx with slot := i.alloc.map (·.slot), bench := pointBench? p }

namespace State

/-! ### Settling credits (R90) -/

/-- R90: the credits an item holds against any place but p returned. BOTH is no hold of an item at the sorter: it is a
release ordered since, and its chute credits stay with it. -/
def settleAt (p : Point) (tag : Nat) (s : State) : State :=
  let s1 := if p = .buffer then s else s.returnCommon tag
  match (s1.item? tag).map Item.hold with
  | some (.chute b) => if p = .bench b then s1 else s1.returnChute tag
  | some .none | some (.common _) | some (.both _) | none => s1

/-- R41, R57: an item leaves the loop, or the buffer, for a chute or the buffer: its location, with a new chute entry
sequence; its destination is absent. -/
def enter (loc : Location) (b : Option Nat) (tag : Nat) (s : State) : State :=
  { s.updItem tag (fun x =>
    { x with location := loc, locBench := b, dest := none, entrySeq := s.entryCounter }) with
    entryCounter := (s.entryCounter + 1) % Config.entryModulus }

/-- R42: a record dropped whose credits are returned apart. -/
def dropRecord (tag : Nat) (s : State) : State :=
  { s with
    items := dropKey Item.tag tag s.items
    arbiter := { s.arbiter with heldBack := s.arbiter.heldBack.filter (· != tag) } }.judgeLanes

/-- R91: every credit that a dropped record's hold names returned, and the arbitration run. -/
def giveBack (i : Item) (s : State) : State :=
  (match i.hold with
    | .none => s
    | .chute b => s.giveChute b i.vu
    | .common b => s.giveCommon b i.vu
    | .both b => (s.giveChute b i.vu).giveCommon b i.vu).arbitrate

/-- R57, R58: an item leaves the cell by the exception chute. The fall in occupancy and the return of its credits reach
their blocks in either order (log entry 22). -/
def leaveLoop (i : Item) (s : State) : State := eitherOrder (giveBack i) tryAdmit (s.dropRecord i.tag)

/-! ### Divert Done (R57, R58) -/

/-- R57: an item diverted where it was sent. -/
def divertSent (i : Item) (p : Point) (s : State) : State :=
  match p with
  | .bench b =>
    eitherOrder (fun t => (t.placeTry b).settleAt p i.tag) tryAdmit (s.enter .inChute (some b) i.tag)
  | .buffer => eitherOrder (fun t => (t.settleAt p i.tag).arbitrate) tryAdmit (s.enter .inBuffer none i.tag)
  | .exception | .other => s.leaveLoop i

/-- R58, R90: whose credits a diversion elsewhere returns: those against any place but `kept`. -/
def divertElsewhere (i : Item) (p kept : Point) (s : State) : State :=
  let s1 := s.releaseAlloc i.tag
  match p with
  | .bench b =>
    eitherOrder (fun t => (t.sendReturn b i.tag).settleAt kept i.tag) tryAdmit (s1.enter .inChute (some b) i.tag)
  | .buffer => eitherOrder (fun t => (t.settleAt kept i.tag).arbitrate) tryAdmit (s1.enter .inBuffer none i.tag)
  | .exception | .other => s1.leaveLoop i

/-- R57, R58: a Divert Done of a tracked ON_LOOP item. A misrouted item keeps no credits. Its MISROUTE is reported before
the FIT_REFUSED or CLASS_CONFLICT of an admission tried at the same event (log entry 33). -/
def divertTracked (i : Item) (p : Point) (s : State) : State :=
  if i.dest = some p then s.divertSent i p
  else if holdNames i.hold p then s.divertElsewhere i p p
  else (s.raiseFault .misroute (misrouteCtx i p) (misrouteDetail p)).divertElsewhere i p .other

/-- R57 to R59: a Divert Done. -/
def divert (tag : Nat) (p : Point) (s : State) : State :=
  if !sorterPoint p then s.tagMismatch tag 4
  else match s.item? tag with
    | none =>
      if p = .exception then s
      else s.raiseFault .fieldMismatch { FaultCtx.empty with tag := some tag, bench := pointBench? p } 0
    | some i => if i.location = .onLoop then s.divertTracked i p else s.tagMismatch tag 1

/-! ### Loop Pass (R59, R60) -/

/-- R59, R60: an ON_LOOP item sent out: its allocation released, its destination EXCEPTION, Route sent. -/
def sendOut (tag : Nat) (s : State) : State :=
  ((s.releaseAlloc tag).updItem tag (fun x => { x with dest := some .exception })).route tag (some .exception)

/-- R60: an item sent out at its lap limit, with NO_HOME. -/
def lapOut (i : Item) (detail : Nat) (s : State) : State :=
  (s.sendOut i.tag).raiseFault .noHome { i.ctx with slot := i.alloc.map (·.slot) } detail

/-- R60: the pass of item i, its lap count risen, outside RESTARTING. The FIT_REFUSED or CLASS_CONFLICT of its run is
reported before the NO_HOME of the same pass (log entry 33). -/
def passByDest (i : Item) (s : State) : State :=
  let atLimit := decide (s.loop.lapLimit ≤ i.laps)
  match i.dest with
  | some (.bench _) | some .buffer => if atLimit then s.lapOut i 1 else s
  | some .exception | some .other => s
  | none =>
    let s1 := if s.working then s.runAllocation i.tag else s
    if s1.hasDest i.tag then s1 else if atLimit then s1.lapOut i 0 else s1

/-- R60, R90: the credits of an item that passed every point, against any place but its destination, returned. -/
def settleAfterPass (tag : Nat) (s : State) : State :=
  s.settleAt (((s.item? tag).bind (·.dest)).getD .other) tag

/-- R59, R60: a Loop Pass of a tracked ON_LOOP item. -/
def passTracked (i : Item) (s : State) : State :=
  let laps := min 15 (i.laps + 1)
  let s1 := s.updItem i.tag (fun x => { x with laps := laps })
  (if s1.cell.state == .restarting then s1.sendOut i.tag
    else s1.passByDest { i with laps := laps }).settleAfterPass i.tag

/-- R59, R60: a Loop Pass. -/
def pass (tag : Nat) (s : State) : State :=
  match s.item? tag with
  | none => (s.route tag (some .exception)).tagMismatch tag 0
  | some i => if i.location = .onLoop then s.passTracked i else s.tagMismatch tag 1

/-- R50: Merge Ready. -/
def mergeReady (s : State) : State := { s with admission := { s.admission with mergeFree := true } }.tryAdmit

end State

/-! ### The commands -/

/-- MERGE_READY, kind 0x10 from the sorter (R50). -/
def execMergeReady (hd : RecHead) (s : State) : Outcome :=
  event (State.fieldRecord hd 0x10 (fun _ => State.mergeReady)) s

/-- DIVERT_DONE, kind 0x11 from the sorter (R57 to R59). -/
def execDivertDone (hd : RecHead) (tag : Nat) (point : Point) (s : State) : Outcome :=
  event (State.fieldRecord hd 0x11 (fun _ => State.divert tag point)) s

/-- LOOP_PASS, kind 0x12 from the sorter (R59, R60). -/
def execLoopPass (hd : RecHead) (tag : Nat) (s : State) : Outcome :=
  event (State.fieldRecord hd 0x12 (fun _ => State.pass tag)) s

end Sys2Proof.Machine
end

