-- ==== Sys2Proof/Machine/BufferRecords.lean ====
section
/-! DEFINITION. The records of the buffer: Delivered and Release Failed (R98 to R101). -/

namespace Sys2Proof.Machine

open Sys2Proof

/-- R100: the detail of MISROUTE at a delivery. -/
def misdeliveryDetail : Point → Nat
  | .bench _ => 4
  | .buffer | .exception | .other => 5

namespace State

/-- R93: the point of a tag's entry on the release list. -/
def releaseEntry? (s : State) (tag : Nat) : Option Point :=
  (s.arbiter.releases.find? (fun e => e.1 == tag)).map (·.2)

/-- R93: a tag's entry leaves the release list. -/
def dropRelease (tag : Nat) (s : State) : State :=
  { s with arbiter := { s.arbiter with releases := s.arbiter.releases.filter (fun e => e.1 != tag) } }

/-- R100: an answer whose tag is on no entry of the release list. -/
def noEntry (tag : Nat) (b : Option Nat) (s : State) : State :=
  s.raiseFault .fieldMismatch { FaultCtx.empty with tag := some tag, bench := b } (if (s.item? tag).isSome then 1 else 0)

/-- R98: a delivery to the chute of bench b as ordered. -/
def deliveredAt (b : Nat) (i : Item) (s : State) : State :=
  let s1 := (s.returnCommon i.tag).enter .inChute (some b) i.tag
  match i.alloc with
  | some _ => s1.placeTry b
  | none => s1.sendReturn b i.tag

/-- R100: a misdelivery at p. -/
def misdelivered (p : Point) (i : Item) (s : State) : State :=
  let s1 := (s.raiseFault .misroute (misrouteCtx i p) (misdeliveryDetail p)).releaseAlloc i.tag
  match p with
  | .bench b =>
    (((s1.enter .inChute (some b) i.tag).sendReturn b i.tag).returnCommon i.tag).returnChute i.tag
  | .buffer | .exception | .other => (s1.answerWithdrawal i.tag).freeItem i.tag

/-- R100: a Delivered whose point is no chute and not the exception chute. R100 gives it no result beyond the report and
the release of the allocation, and its report no detail (log entry 15). -/
def deliveredNowhere (p : Point) (i : Item) (s : State) : State :=
  ({ s with freeCount := s.freeCount + 1 }.raiseFault .misroute (misrouteCtx i p)
    (Config.freeByte s.freeCount).toNat).releaseAlloc i.tag

/-- R98 to R100: a Delivered that answers the entry (tag, q). -/
def answerDelivered (p q : Point) (i : Item) (s : State) : State :=
  if p = q then
    match p with
    | .bench b => s.deliveredAt b i
    | .buffer | .exception | .other => (s.returnCommon i.tag).freeItem i.tag
  else if deliveryPoint p then s.misdelivered p i
  else s.deliveredNowhere p i

/-- R98 to R100: a Delivered. After it the arbitration runs for the place freed on the list. -/
def delivered (tag : Nat) (p : Point) (s : State) : State :=
  match s.releaseEntry? tag with
  | none => s.noEntry tag (pointBench? p)
  | some q =>
    let s1 := s.dropRelease tag
    (match s1.item? tag with
      | none => s1
      | some i => s1.answerDelivered p q i).arbitrate

/-- R93, R101: a tag joins the held-back set. -/
def holdBack (tag : Nat) (s : State) : State :=
  if s.arbiter.heldBack.contains tag then s
  else { s with arbiter := { s.arbiter with heldBack := insertBy id tag s.arbiter.heldBack } }

/-- R101: the release of item i to q failed. -/
def failedRelease (q : Point) (i : Item) (s : State) : State :=
  let s1 := (s.raiseFault .bufferFault { i.ctx with slot := i.alloc.map (·.slot), bench := pointBench? q }
    (match q with
      | .bench _ => 1
      | .buffer | .exception | .other => 2)).holdBack i.tag
  match q with
  | .bench _ =>
    ((s1.dropChuteHold i.tag).updItem i.tag (fun x => { x with location := .inBuffer })).answerWithdrawal i.tag
  | .buffer | .exception | .other => s1

/-- R100, R101: a Release Failed. -/
def releaseFailed (tag : Nat) (s : State) : State :=
  match s.releaseEntry? tag with
  | none => s.noEntry tag none
  | some q =>
    let s1 := s.dropRelease tag
    (match s1.item? tag with
      | none => s1
      | some i => s1.failedRelease q i).arbitrate

end State

/-! ### The commands -/

/-- DELIVERED, kind 0x18 from the buffer (R98 to R100). -/
def execDelivered (hd : RecHead) (tag : Nat) (point : Point) (s : State) : Outcome :=
  event (State.fieldRecord hd 0x18 (fun _ => State.delivered tag point)) s

/-- RELEASE_FAILED, kind 0x19 from the buffer (R101). -/
def execReleaseFailed (hd : RecHead) (tag : Nat) (s : State) : Outcome :=
  event (State.fieldRecord hd 0x19 (fun _ => State.releaseFailed tag)) s

end Sys2Proof.Machine
end

