-- ==== Sys2Proof/Machine/LineCommands.lean ====
section
/-! DEFINITION. The commands of the two lines: bytes of the host link, gaps, requests queued, BUSY and unknown kinds, the transmitter, Notice frames, and misaddressed records (R188 to R191), with the ARRIVAL record (R45, R46, R200). -/

namespace Sys2Proof.Machine

open Sys2Proof

/-! ### Arrival (R45, R46) -/

/-- R45: the position of the first field of an Arrival out of its range, where one is. -/
def arrivalRangeFault (a : ArrivalFields) : Option Nat :=
  if !inRange 1 65534 a.tag then some 1
  else if !inRange 1 maxSku a.sku then some 2
  else match classOfCode a.cls with
    | none => some 3
    | some c =>
      if !inRange 1 25000 a.mass then some 4
      else if !inRange 1 40000 a.volume then some 5
      else if c == .chilled && a.chillExit == none then some 6
      else none

/-- R46: a volume in cubic centimetres as VU, rounded up. -/
def vuOf (volume : Nat) : Nat := (volume + 99) / 100

/-- R40, R46: the record of an accepted Arrival. -/
def newItem (lane budget : Nat) (a : ArrivalFields) (c : ItemClass) : Item where
  tag := a.tag
  sku := a.sku
  cls := c
  mass := a.mass
  vu := vuOf a.volume
  lane := lane
  chillExit := if c = .chilled then a.chillExit else none
  deadline := if c = .chilled then a.chillExit.map (fun m => min Config.lastMinute (m + budget)) else none
  expired := false
  location := .atLane
  locBench := none
  withdrawal := none
  laps := 0
  dest := none
  alloc := none
  wait := .none
  hold := .none
  outstanding := .none
  entrySeq := 0

namespace State

/-- R45: the context of an Arrival's fault: the lane, the tag and the SKU as received. -/
def arrivalCtx (n : Nat) (a : ArrivalFields) : FaultCtx := ⟨some a.tag, none, none, some n, some a.sku⟩

/-- R45: an Arrival discarded for want of room: Lane Hold sent, the signal HOLD, LANE_OVERRUN raised. -/
def overrun (n : Nat) (a : ArrivalFields) (detail : Nat) (s : State) : State :=
  ((s.send (.lane n) .laneHold).updLane n (fun l => { l with signal := .hold })).raiseFault .laneOverrun
    (arrivalCtx n a) detail

/-- R46: an accepted Arrival: record made, tag queued, lane signals judged, admission tried. -/
def acceptArrival (n : Nat) (a : ArrivalFields) (c : ItemClass) (s : State) : State :=
  (({ s with items := insertBy Item.tag (newItem n s.timers.dwellBudget a c) s.items }.updLane n
    (fun l => { l with queue := l.queue ++ [a.tag] })).judgeLanes).tryAdmit

/-- R45: an Arrival of lane n, its checks in their order. Where the queue holds 4 tags and the item table is full at
once, the detail of LANE_OVERRUN is that of the queue (log entry 32). -/
def takeArrival (a : ArrivalFields) (n : Nat) (s : State) : State :=
  match arrivalRangeFault a with
  | some d => (s.send (.lane n) (.laneReject a.tag .outOfRange)).raiseFault .fieldMismatch (arrivalCtx n a) d
  | none =>
    if (s.item? a.tag).isSome then
      (s.send (.lane n) (.laneReject a.tag .duplicate)).raiseFault .dupTag (arrivalCtx n a) 0
    else if Config.queueRoom ≤ (((s.lane? n).map (·.queue.length)).getD 0) then s.overrun n a 1
    else if s.tableFull then s.overrun n a 2
    else s.acceptArrival n a ((classOfCode a.cls).getD .ambient)

/-- R190, R200: an Arrival record as its frame carries it. -/
def arrivalRecord (addr : Byte) (body : List Byte) (s : State) : State :=
  fieldRecord ⟨addr, body.length == 12⟩ 0x01 (takeArrival (ArrivalFields.read body)) s

/-! ### Gaps (R188, R190) -/

/-- R188: a gap of more than 10 ms on the host link; outside a frame it has no effect. -/
def hostGap (s : State) : State :=
  match s.link.rx with
  | none => s
  | some _ => { s with link := { s.link with rx := none } }.raiseFault .linkFrame FaultCtx.empty 3

/-- R190: a gap of more than 10 ms on the units' pair; outside a frame it has no effect. -/
def busGap (s : State) : State :=
  match s.bus.rx with
  | none => s
  | some _ => { s with bus := { s.bus with rx := none } }.raiseFault .cellBusFrame FaultCtx.empty 3

/-! ### The transmitter (R189, R191) -/

/-- R189, R191: the next waiting frame begun. A BUSY reply goes as soon as the transmitter is free; between a due
Notice frame and the next reply in request order the spec gives no order (log entry 9). -/
def beginNext (s : State) : State :=
  if !s.link.busyHold.isEmpty || !s.notices.due then s.beginReply
  else if s.replyWaits then
    let t := { s with freeCount := s.freeCount + 1 }
    if Config.freeBit s.freeCount then t.beginNotice else t.beginReply
  else s.beginNotice

end State

/-! ### The commands -/

/-- LINK_FRAME (R188): bytes on the host link; a frame that fails its length or CRC check raises LINK_FRAME. -/
def execLinkFrame (bytes : List Byte) (s : State) : Outcome := event (State.hostBytes bytes) s

/-- LINK_BYTE_GAP (R188). -/
def execLinkByteGap (s : State) : Outcome := event State.hostGap s

/-- REQUEST_QUEUED (R188): bytes on the host link; a frame that passes its checks joins the receive queue. -/
def execRequestQueued (bytes : List Byte) (s : State) : Outcome := event (State.hostBytes bytes) s

/-- BUSY (R189): bytes on the host link; a request that finds 4 queued is answered BUSY, or dropped. -/
def execBusy (bytes : List Byte) (s : State) : Outcome := event (State.hostBytes bytes) s

/-- UNKNOWN_KIND (R189): the request of the queue's turn whose kind is 0x80 or above or not listed. A listed kind is
not unknown, and its request is handed over by its own command. -/
def execUnknownKind (tag kind : Byte) (s : State) : Outcome :=
  if kindListed kind.toNat then .next s
  else request (.unknownKind tag kind) ⟨tag, true, true⟩ kind (fun s => (bare .unknownKind, s)) s

/-- CELL_BUS_BYTE_GAP (R190). -/
def execCellBusByteGap (s : State) : Outcome := event State.busGap s

/-- MISADDRESSED_RECORD (R190): a well-framed record whose address or kind does not fit. One that fits is handed to its
owner by its own command. -/
def execMisaddressedRecord (addr kind : Byte) (s : State) : Outcome :=
  event (fun s =>
    match recordFault addr kind.toNat true with
    | some (c, d) => s.raiseFault .fieldMismatch c d
    | none => s) s

/-- NOTICE_FRAME (R191): a due Notice frame is sent when the transmitter is free and no BUSY reply waits for it (R189). -/
def execNoticeFrame (s : State) : Outcome :=
  .next (if s.notices.due && s.link.tx == none && s.link.busyHold.isEmpty then s.beginNotice else s)

/-- TRANSMITTER_FREE (R189): the transmitter finishes its frame, and the next waiting frame begins. -/
def execTransmitterFree (s : State) : Outcome := .next { s with link := { s.link with tx := none } }.beginNext

/-- ARRIVAL (R45, R200). -/
def execArrival (addr : Byte) (body : List Byte) (s : State) : Outcome := event (State.arrivalRecord addr body) s

end Sys2Proof.Machine
end

