-- ==== Sys2Proof/Machine/BusFrames.lean ====
section
/-! DEFINITION. The cell bus as it is received: the bytes of the units' pair, and each checked frame as an event at the block that owns its record (R190, R195). -/

namespace Sys2Proof.Machine

open Sys2Proof

/-- R190, R200: the body length of a record of a kind. That of an Arrival is 12; the others are not in the spec (log
entry 14). -/
def bodyLength (kind : Nat) : Nat := if kind = 0x01 then 12 else Config.recordLength kind

/-- R190: what a frame's record carries beside its fields. -/
def frameHead (addr kind : Byte) (body : List Byte) : RecHead := ⟨addr, body.length == bodyLength kind.toNat⟩

/-- R197: the tag that a record's body carries, 2 bytes least significant first, at a place that the spec does not give
(log entry 14). -/
def bodyTag (kind : Nat) (body : List Byte) : Nat := fieldAt body (Config.recordTagPlace kind body) 2

namespace State

/-- R190, R195: the owner of a record of a kind with the fields of its body. No unit sends any other kind. -/
def recordOwner (kind : Nat) (body : List Byte) : Nat → State → State :=
  match kind with
  | 0x01 => takeArrival (ArrivalFields.read body)
  | 0x10 => fun _ => mergeReady
  | 0x11 => fun _ => divert (bodyTag kind body) (Config.recordPoint kind body)
  | 0x12 => fun _ => pass (bodyTag kind body)
  | 0x18 => fun _ => delivered (bodyTag kind body) (Config.recordPoint kind body)
  | 0x19 => fun _ => releaseFailed (bodyTag kind body)
  | 0x20 => benchOpen
  | 0x21 => benchClose
  | 0x22 => baseFitted
  | 0x23 => pocketFitted
  | 0x24 => placed (bodyTag kind body)
  | 0x25 => placeRefused (bodyTag kind body) (Config.recordReason body)
  | 0x26 => returned (bodyTag kind body)
  | 0x27 => pulled (bodyTag kind body)
  | 0x28 => hamperSealed
  | 0x29 => hamperOut
  | 0x2A => unpacked
  | _ => fun _ s => s

/-- R190: a checked cell bus frame: a record that does not fit its address, its kind or its length is reported, and any
other is an event at the block that owns it. -/
def recordArrives (addr kind : Byte) (body : List Byte) (s : State) : State :=
  fieldRecord (frameHead addr kind body) kind.toNat (recordOwner kind.toNat body) s

/-- R190: what the end of a cell bus frame does. A frame whose CRC is bad and whose tag is not 0 is reported for its CRC
(log entry 35). -/
def busFrameEnds (e : FrameEnd) (s : State) : State :=
  match e with
  | .badLength => s.raiseFault .cellBusFrame FaultCtx.empty 1
  | .badCrc => s.raiseFault .cellBusFrame FaultCtx.empty 2
  | .good (addr :: tag :: kind :: body) =>
    if tag = 0 then s.recordArrives addr kind body else s.raiseFault .cellBusFrame FaultCtx.empty 4
  | .good _ => s

/-- R181, R190: bytes that arrive on the units' pair. Each frame that ends is an event, and the quiet condition is judged
after it. -/
def busBytes : List Byte → State → State
  | [], s => s
  | b :: bs, s =>
    let r := rxByte 3 1027 s.bus.rx b
    let s1 := { s with bus := { s.bus with rx := r.1 } }
    busBytes bs (match r.2 with
      | none => s1
      | some e => judgeQuiet s1 (s1.busFrameEnds e))

end State

/-! ### The command -/

/-- CELL_BUS_FRAME (R190): bytes on the units' pair. -/
def execCellBusFrame (bytes : List Byte) (s : State) : Outcome := .next (s.busBytes bytes)

end Sys2Proof.Machine
end

