-- ==== Sys2Proof/Machine/Time.lean ====
section
/-! DEFINITION. Power-up, the minute tick and its steps: the cutoff check, the dwell pass, the shortage pass, placement timing, the held-back set and the restart deadline (R27 to R31, R93, R127, R136, R143 to R146, R184). -/

namespace Sys2Proof.Machine

open Sys2Proof

/-! ### The cutoff check (R29) -/

/-- R29: whether an order of wave w is marked when the wave is cut. -/
def cutMarks (w : Nat) (o : Order) : Bool :=
  o.wave == w && (o.state == .loaded || o.state == .building || o.state == .held || o.state == .complete)

namespace State

/-- R29: wave w becomes CUT: its orders are marked, WAVE_CUT is raised, and ORDER_OVERDUE when one is newly marked. -/
def cutWave (w : Nat) (s : State) : State :=
  let newly := s.book.orders.any (fun o => cutMarks w o && !o.overdue)
  let s1 := s.updWave w (fun x => { x with state := .cut })
  let s2 := { s1 with book := { s1.book with
    orders := s1.book.orders.map (fun o => if cutMarks w o then { o with overdue := true } else o) } }
  let s3 := s2.raiseNotice .waveCut
  if newly then s3.raiseNotice .orderOverdue else s3

/-- R29: whether the cutoff check cuts wave w now. -/
def cutNow (s : State) (w : Nat) : Bool :=
  s.clock.isSet &&
    match s.wave? w with
    | none => false
    | some x => x.state == .planned && s.reached (x.cutoff.getD 0)

/-- R29: whether the cutoff check returns wave w to PLANNED now. -/
def uncutNow (s : State) (w : Nat) : Bool :=
  s.clock.isSet &&
    match s.wave? w with
    | none => false
    | some x => x.state == .cut && !s.reached (x.cutoff.getD 0)

/-- R29: the cutoff check of wave w. -/
def cutoffCheck (s : State) (w : Nat) : State :=
  if s.cutNow w then s.cutWave w
  else if s.uncutNow w then s.updWave w (fun x => { x with state := .planned })
  else s

/-- R29: the cutoff check of every wave. -/
def cutoffAll (s : State) : State := (upTo 8).foldl cutoffCheck s

/-! ### The dwell pass (R143 to R146) -/

/-- R146: what an expired item IN_HAMPER has done with it. -/
def pullAtExpiry (s : State) (i : Item) : Bool :=
  match i.outstanding, i.alloc.bind (fun a => s.order? a.slot) with
  | .pull _, _ => false
  | _, some o => o.state == .building || o.state == .held
  | _, none => false

/-- R143: the detail of DWELL_EXPIRED. -/
def dwellDetail (s : State) (i : Item) : Nat :=
  match i.location with
  | .atLane => 1
  | .onLoop => 2
  | .inBuffer => 3
  | .bufferToChute => 4
  | .inChute => 5
  | .inHamper =>
    match i.outstanding with
    | .pull _ => 6
    | .none | .place _ | .ret _ => if s.pullAtExpiry i then 6 else 7

/-- R144 to R146: the withdrawal begun at expiry, by the item's location. -/
def withdrawExpired (i : Item) (s : State) : State :=
  match i.location with
  | .atLane => s
  | .onLoop =>
    if i.dest = some .exception then s
    else ((s.releaseAlloc i.tag).updItem i.tag (fun x => { x with dest := some .exception })).route i.tag
      (some .exception)
  | .inBuffer => if i.alloc = none then s else (s.releaseAlloc i.tag).arbitrate
  | .bufferToChute => s.releaseAlloc i.tag
  | .inChute => s.sendReturn (i.locBench.getD 0) i.tag
  | .inHamper => if s.pullAtExpiry i then s.sendPull (i.locBench.getD 0) i.tag else s

/-- R143: whether the dwell pass finds an item expired. -/
def dwellDue (s : State) (i : Item) : Bool :=
  i.cls == .chilled && !i.expired &&
    match i.deadline with
    | none => false
    | some d => s.reached d

/-- R143: one item found expired: marked, reported, its withdrawal begun. -/
def expireItem (tag : Nat) (s : State) : State :=
  match s.item? tag with
  | none => s
  | some i =>
    if s.dwellDue i then
      let s1 := (s.updItem tag (fun x => { x with expired := true })).raiseFault .dwellExpired
        { i.ctx with slot := i.alloc.map (·.slot), bench := i.alloc.map (·.bench) } (s.dwellDetail i)
      s1.withdrawExpired i
    else s

/-- R143: the dwell pass, over the items due in an order the spec leaves open (log entry 5). -/
def dwellPass (s : State) : State :=
  let due := (s.items.filter s.dwellDue).map (·.tag)
  (pickOrder s.freeCount due.length due).foldl (fun t tag => t.expireItem tag) (s.picked due.length)

/-! ### The shortage pass (R136) -/

/-- R136: whether the pass makes a line SHORT. -/
def lineShort (s : State) (l : Line) : Bool :=
  l.state == .opened && decide (s.timers.shortageLimit ≤ s.elapsed l.lastProgress)

/-- R136: the shortage pass, in RUNNING, PAUSED and DRAINING. -/
def shortagePass (s : State) : State :=
  if s.working then
    let hit := s.book.orders.any (fun o => o.state == .building && o.lines.any s.lineShort)
    let s1 := { s with book := { s.book with orders := s.book.orders.map (fun o =>
      if o.state == .building then
        { o with lines := o.lines.map (fun l =>
          if s.lineShort l then { l with state := .short, shortMark := true } else l) }
      else o) } }
    if hit then s1.raiseNotice .lineShort else s1
  else s

/-! ### Placement timing (R127) -/

/-- R127: whether the Place of a placement list entry has reached the placement limit. -/
def placeDue (s : State) (e : PlaceEntry) : Bool :=
  !e.timedOut &&
    match s.item? e.tag with
    | none => false
    | some i =>
      match i.outstanding with
      | .place m => decide (s.timers.placementLimit ≤ s.elapsed m)
      | .none | .ret _ | .pull _ => false

/-- R127: the bench whose placement list holds a tag that is due. -/
def placeDueAt? (s : State) (tag : Nat) : Option Bench :=
  s.benches.find? (fun x =>
    match x.hamper with
    | none => false
    | some h => h.places.any (fun e => e.tag == tag && s.placeDue e))

/-- R127: one outstanding Place timed out: marked, reported, its bench stalled. -/
def timeOutPlace (tag : Nat) (s : State) : State :=
  match s.placeDueAt? tag, s.item? tag with
  | some x, some i =>
    let s1 := s.updHamper x.number (fun h =>
      { h with places := h.places.map (fun e => if e.tag == tag then { e with timedOut := true } else e) })
    let s2 := s1.raiseFault .placeTimeout
      { i.ctx with slot := i.alloc.map (·.slot), bench := some x.number } s.timers.placementLimit
    (s2.updBench x.number (fun x => { x with stalled := true })).raiseNotice .benchStalled
  | _, _ => s

/-- R127: the tags whose Places are due, bench by bench. -/
def duePlaces (s : State) : List Nat :=
  s.benches.flatMap (fun x =>
    match x.hamper with
    | none => []
    | some h => (h.places.filter s.placeDue).map (·.tag))

/-- R127: placement timing of every bench, in an order the spec leaves open (log entry 5). -/
def timePlaces (s : State) : State :=
  let due := s.duePlaces
  (pickOrder s.freeCount due.length due).foldl (fun t tag => t.timeOutPlace tag) (s.picked due.length)

/-! ### The tick (R30, R31) -/

/-- R93, R94: the held-back set emptied, and the arbitration run. -/
def clearHeldBack (s : State) : State := { s with arbiter := { s.arbiter with heldBack := [] } }.arbitrate

/-- R30: CLOCK_LIMIT, raised by a tick that finds the minute at 65,535. -/
def raiseClockLimit (s : State) : State := s.raiseFault .clockLimit FaultCtx.empty 0

/-- R30: the minute rises by 1, or holds at 65,535 and raises CLOCK_LIMIT. -/
def advanceMinute (s : State) : State :=
  if s.clock.minute < Config.lastMinute then { s with clock := { s.clock with minute := s.clock.minute + 1 } }
  else s.raiseClockLimit

/-- R136, R127: the timers of lines, items and Places, in the order their rules give. -/
def runTimers (s : State) : State := s.dwellPass.shortagePass.timePlaces

/-- R30, R31, R184: a tick with the clock-set flag set (log entry 4 for the order of its parts). -/
def tick (s : State) : State :=
  let s1 := eitherOrder runTimers clearHeldBack s.advanceMinute.cutoffAll
  (judgeQuiet s s1).judgeDeadline

end State

/-! ### The commands -/

/-- POWER_UP (R176): every piece of state at its initial value. The commands waiting, and which free values have been
read, are the model's own and stand. -/
def execPowerUp (s : State) : Outcome := .next { State.reset with freeCount := s.freeCount, pending := s.pending }

/-- MINUTE_TICK (R30). While the clock-set flag is clear the tick has no effect. -/
def execMinuteTick (s : State) : Outcome := .next (if s.clock.isSet then s.tick else s)

/-- CLOCK_LIMIT (R30), the step of a tick that finds the minute at 65,535. -/
def execClockLimit (s : State) : Outcome :=
  event (fun s => if s.clock.isSet && s.clock.minute == Config.lastMinute then s.raiseClockLimit else s) s

/-- WAVE_CUT (R29), the step of a cutoff check that cuts a PLANNED wave. -/
def execWaveCut (wave : Nat) (s : State) : Outcome :=
  .next (if s.cutNow wave then s.cutWave wave else s)

/-- DWELL_EXPIRED (R143), the step of a dwell pass that finds one item expired. -/
def execDwellExpired (tag : Nat) (s : State) : Outcome :=
  event (fun s => if s.clock.isSet then s.expireItem tag else s) s

/-- SHORTAGE_PASS (R136). -/
def execShortagePass (s : State) : Outcome := .next (if s.clock.isSet then s.shortagePass else s)

/-- PLACE_TIMEOUT (R127), the step of placement timing for one Place. -/
def execPlaceTimeout (tag : Nat) (s : State) : Outcome :=
  event (fun s => if s.clock.isSet then s.timeOutPlace tag else s) s

/-- RESTART_FORCED (R184), the judgment of the restart wait deadline. -/
def execRestartForced (s : State) : Outcome := .next (if s.clock.isSet then s.judgeDeadline else s)

/-- BOUNDARY_RESTART (R184): a RESTARTING cell found quiet makes its warm restart. -/
def execBoundaryRestart (s : State) : Outcome :=
  .next (if s.cell.state == .restarting then s.actQuiet else s)

/-- DRAIN_COMPLETE (R181): a DRAINING cell found quiet becomes READY. -/
def execDrainComplete (s : State) : Outcome :=
  .next (if s.cell.state == .draining then s.actQuiet else s)

end Sys2Proof.Machine
end

