-- ==== Sys2Proof/Machine/CellRequests.lean ====
section
/-! DEFINITION. The requests of Cell State Control and of the Hall Clock and Wave Table (chapters 10 and 2). -/

namespace Sys2Proof.Machine

open Sys2Proof

namespace State

/-- R179, R187: the number of defined templates and of defined waves. -/
def templateCount (s : State) : Nat := s.templates.countP (fun t => t.plan.isSome)
def waveCount (s : State) : Nat := s.waves.countP (fun w => w.state != .unused)

/-- R179: what every Commit Setup reply carries. -/
def setupView (s : State) : ReplyBody := .setup s.clock.isSet s.templateCount s.waveCount

/-- R187: what a Get Cell Status reply carries. -/
def cellView (s : State) : CellView where
  state := s.cell.state
  committed := s.cell.committed
  mode := s.cell.mode
  deadline := s.cell.deadline
  minute := s.clock.minute
  clockSet := s.clock.isSet
  quiet := s.quiet
  occupancy := s.occupancy
  releases := s.arbiter.releases.length
  outstanding := s.outstandingCount
  templates := s.templateCount
  waves := s.waveCount

/-! ### Cell commands (R179, R180, R183) -/

/-- R179. -/
def commitSetup (lengthOk : Bool) (s : State) : Reply × State :=
  if !lengthOk then (⟨.badLength, s.setupView⟩, s)
  else if s.cell.state != .setup then (⟨.wrongState, s.setupView⟩, s)
  else if s.clock.isSet && decide (1 ≤ s.templateCount) && decide (1 ≤ s.waveCount) then
    (⟨.ok, s.setupView⟩, { s with cell := { s.cell with committed := true } }.setCell .ready)
  else (⟨.incomplete, s.setupView⟩, s)

/-- R180: a cell command's outcome by the table: taken with a state, or refused; its reply carries the cell state after
the request. -/
def cellCommand (lengthOk : Bool) (act : State → Option State) (s : State) : Reply × State :=
  if !lengthOk then (⟨.badLength, .cellState s.cell.state⟩, s)
  else match act s with
    | none => (⟨.wrongState, .cellState s.cell.state⟩, s)
    | some t => let t' := judgeQuiet s t; (⟨.ok, .cellState t'.cell.state⟩, t')

/-- R180, the column of Start Cell. -/
def startAct (s : State) : Option State :=
  if !s.clock.isSet then none
  else match s.cell.state with
    | .ready | .paused => some s.enterRunning
    | .running => some s
    | .setup | .draining | .halted | .restarting => none

/-- R180, the column of Pause Cell. -/
def pauseAct (s : State) : Option State :=
  match s.cell.state with
  | .running => some s.enterPaused
  | .paused => some s
  | .setup | .ready | .draining | .halted | .restarting => none

/-- R180, the column of Stop Cell. -/
def stopAct (s : State) : Option State :=
  match s.cell.state with
  | .running | .paused => some s.enterDraining
  | .ready | .draining => some s
  | .setup | .halted | .restarting => none

/-- R47, R178, R180, the column of Clear Halt: on leaving HALTED the lane signals are judged again. -/
def clearHaltAct (s : State) : Option State :=
  match s.cell.state with
  | .halted => some s.enterPaused.judgeLanes
  | .setup | .ready | .running | .paused | .draining | .restarting => some s

/-- R183: a warm restart at once. -/
def restartNow (cause : Causes) (s : State) : Reply × State :=
  let t := s.warmRestart cause
  (okWith (.cellState t.cell.state), t)

/-- R183: the cell becomes RESTARTING, with its mode and deadline; the quiet condition is judged after the reply is
made. -/
def enterRestarting (s : State) : Reply × State :=
  let d := min Config.lastMinute (s.clock.minute + s.timers.restartWait)
  let t := (s.setCell .restarting).judgeLanes
  (okWith (.deadline d), { t with cell := { t.cell with mode := some .atBoundary, deadline := some d } })

/-- R183, the column of AT_BOUNDARY. -/
def restartAtBoundary (s : State) : Reply × State :=
  match s.cell.state with
  | .setup => s.restartNow .ofBoundary
  | .ready | .running | .paused | .draining | .halted => s.enterRestarting
  | .restarting => (bare .wrongState, s)

/-! ### Waves (R33 to R36) -/

/-- R34: whether an order counts as a reference of wave w. -/
def countsAsRef (w : Nat) (o : Order) : Bool :=
  o.wave == w && !(o.state == .dispatched) && !(o.state == .cancelled)

/-- R35: whether an order of wave w is unsealed. -/
def countsAsUnsealed (w : Nat) (o : Order) : Bool :=
  o.wave == w && (o.state == .loaded || o.state == .building || o.state == .held || o.state == .complete)

def waveRefs (s : State) (w : Nat) : Nat := s.book.orders.countP (countsAsRef w)
def waveUnsealed (s : State) (w : Nat) : Nat := s.book.orders.countP (countsAsUnsealed w)

/-- R36: one entry of a Get Wave reply. -/
def waveView (s : State) (w : Wave) : WaveView :=
  if w.state = .unused then ⟨w, 0, 0⟩ else ⟨w, s.waveRefs w.number, s.waveUnsealed w.number⟩

/-- R33, R34: the lane and cutoff set, the wave's state by the table, then its cutoff check. -/
def setWaveFields (w lane cutoff : Nat) (s : State) : State :=
  (s.updWave w (fun x =>
    { x with
      lane := some lane
      cutoff := some cutoff
      state := match x.state with
        | .unused | .planned | .departed => .planned
        | .cut => .cut })).cutoffCheck w

/-- R33, R34. -/
def setWave (rq : ReqHead) (w lane cutoff : Nat) (s : State) : Reply × State :=
  checked rq.lengthOk (inRange 1 8 w && inRange 1 4 lane) (fun s =>
    if s.waveState w == .departed && decide (1 ≤ s.waveRefs w) then (bare .inUse, s)
    else
      let t := s.setWaveFields w lane cutoff
      (okWith (.waveState (t.waveState w)), t)) s

/-- R35. -/
def departWave (rq : ReqHead) (w : Nat) (s : State) : Reply × State :=
  checked rq.lengthOk (inRange 1 8 w) (fun s =>
    match s.waveState w with
    | .unused => (bare .wrongState, s)
    | .planned | .cut | .departed =>
      (okWith (.unsealed (s.waveUnsealed w)), s.updWave w (fun x => { x with state := .departed }))) s

/-- R36. -/
def getWave (rq : ReqHead) (w : Option Nat) (s : State) : Reply × State :=
  checked rq.lengthOk (optInRange 1 8 w) (fun s =>
    let named := match w with
      | none => s.waves
      | some n => s.waves.filter (fun x => x.number == n)
    (okWith (.waves s.clock.minute s.clock.isSet (named.map s.waveView)), s)) s

/-- R32. -/
def setClock (rq : ReqHead) (minute : MinuteField) (s : State) : Reply × State :=
  checked rq.lengthOk true (fun s =>
    (okWith (.clock s.clock.minute s.clock.isSet), { s with clock := ⟨minute.toNat, true⟩ }.cutoffAll)) s

end State

/-! ### The commands -/

/-- GET_IDENTITY, kind 0x01 (R187). -/
def execGetIdentity (rq : ReqHead) (s : State) : Outcome :=
  request (.getIdentity rq) rq 0x01 (checked rq.lengthOk true (fun s =>
    (okWith (.identity Config.vendorCode Config.partCode Config.revision), s))) s

/-- GET_CELL_STATUS, kind 0x02 (R187). -/
def execGetCellStatus (rq : ReqHead) (s : State) : Outcome :=
  request (.getCellStatus rq) rq 0x02 (checked rq.lengthOk true (fun s => (okWith (.cellStatus s.cellView), s))) s

/-- COMMIT_SETUP, kind 0x03 (R179). -/
def execCommitSetup (rq : ReqHead) (s : State) : Outcome :=
  request (.commitSetup rq) rq 0x03 (State.commitSetup rq.lengthOk) s

/-- START_CELL, kind 0x04 (R180). -/
def execStartCell (rq : ReqHead) (s : State) : Outcome :=
  request (.startCell rq) rq 0x04 (State.cellCommand rq.lengthOk State.startAct) s

/-- PAUSE_CELL, kind 0x05 (R180). -/
def execPauseCell (rq : ReqHead) (s : State) : Outcome :=
  request (.pauseCell rq) rq 0x05 (State.cellCommand rq.lengthOk State.pauseAct) s

/-- STOP_CELL, kind 0x06 (R180). -/
def execStopCell (rq : ReqHead) (s : State) : Outcome :=
  request (.stopCell rq) rq 0x06 (State.cellCommand rq.lengthOk State.stopAct) s

/-- CLEAR_HALT, kind 0x07 (R180). -/
def execClearHalt (rq : ReqHead) (s : State) : Outcome :=
  request (.clearHalt rq) rq 0x07 (State.cellCommand rq.lengthOk State.clearHaltAct) s

/-- RESTART_CELL with mode IMMEDIATE, kind 0x08 (R183): a warm restart at once in every state. -/
def execRestartCellImmediate (rq : ReqHead) (s : State) : Outcome :=
  request (.restartCellImmediate rq) rq 0x08 (checked rq.lengthOk rq.valueOk (State.restartNow .ofImmediate)) s

/-- RESTART_CELL with mode AT_BOUNDARY, kind 0x08 (R183). -/
def execRestartCellAtBoundary (rq : ReqHead) (s : State) : Outcome :=
  request (.restartCellAtBoundary rq) rq 0x08 (checked rq.lengthOk rq.valueOk State.restartAtBoundary) s

/-- GET_RESTART_CAUSES, kind 0x09 (R186). -/
def execGetRestartCauses (rq : ReqHead) (s : State) : Outcome :=
  request (.getRestartCauses rq) rq 0x09 (checked rq.lengthOk true (fun s => (okWith (.causes s.cell.causes), s))) s

/-- CLEAR_RESTART_CAUSES, kind 0x0A (R186): the reply carries the record as it stood. -/
def execClearRestartCauses (rq : ReqHead) (s : State) : Outcome :=
  request (.clearRestartCauses rq) rq 0x0A (checked rq.lengthOk true (fun s =>
    (okWith (.causes s.cell.causes), { s with cell := { s.cell with causes := Causes.none } }))) s

/-- SET_CLOCK, kind 0x10 (R32). -/
def execSetClock (rq : ReqHead) (minute : MinuteField) (s : State) : Outcome :=
  request (.setClock rq minute) rq 0x10 (State.setClock rq minute) s

/-- SET_WAVE, kind 0x11 (R33, R34). -/
def execSetWave (rq : ReqHead) (wave lane : Nat) (cutoff : MinuteField) (s : State) : Outcome :=
  request (.setWave rq wave lane cutoff) rq 0x11 (State.setWave rq wave lane cutoff.toNat) s

/-- DEPART_WAVE, kind 0x12 (R35). -/
def execDepartWave (rq : ReqHead) (wave : Nat) (s : State) : Outcome :=
  request (.departWave rq wave) rq 0x12 (State.departWave rq wave) s

/-- GET_WAVE, kind 0x13 (R36). -/
def execGetWave (rq : ReqHead) (wave : Option Nat) (s : State) : Outcome :=
  request (.getWave rq wave) rq 0x13 (State.getWave rq wave) s

end Sys2Proof.Machine
end

