-- ==== Sys2Proof/Machine/ConfigRequests.lean ====
section
/-! DEFINITION. The requests that set the cell up: templates, benches, staging, lanes, loop, timers, groups, rush floor and dispatch lanes (chapters 3 to 8), and Cage Swapped (R158). -/

namespace Sys2Proof.Machine

open Sys2Proof

namespace State

/-- R112, Set Template: the entry defined, and binding run. -/
def defineTemplate (n : Nat) (p : TemplatePlan) (s : State) : State :=
  { s with templates := amend Template.number n (fun t => { t with plan := some p }) s.templates }.bindPass

/-- R112. -/
def setTemplate (rq : ReqHead) (n : Nat) (p : TemplatePlan) (s : State) : Reply × State :=
  checked rq.lengthOk (inRange 1 8 n && planOk p) (fun s => (bare .ok, s.defineTemplate n p)) s

/-! ### Set Bench Profile (R103, R111) -/

/-- R103: whether an item holds chute credits of bench b. -/
def holdAtChute : Hold → Nat → Bool
  | .chute c, b => c == b
  | .both c, b => c == b
  | .none, _ => false
  | .common _, _ => false

/-- R103: whether bench b's chute holds credits of any item. -/
def chuteHeld (s : State) (b : Nat) : Bool := s.items.any (fun i => holdAtChute i.hold b)

/-- R103: whether a reserve value present differs from the current one. -/
def reserveChanges (s : State) (b : Nat) (items vu : Option Nat) : Bool :=
  match s.chute? b with
  | none => false
  | some c => items.getD c.reserveItems != c.reserveItems || vu.getD c.reserveVu != c.reserveVu

/-- R103: a chute with a new reserve, nothing being held against it. -/
def reserveSet (items vu : Option Nat) (c : Chute) : Chute :=
  let n := items.getD c.reserveItems
  let v := vu.getD c.reserveVu
  { c with reserveItems := n, reserveVu := v, freeItems := n, freeVu := v }

/-- R111: a bench with new capabilities. -/
def capabilitySet (chilled heavy : Option Bool) (largest : Option Nat) (x : Bench) : Bench :=
  { x with
    chilledCapable := chilled.getD x.chilledCapable
    heavyCapable := heavy.getD x.heavyCapable
    largestSize := largest.getD x.largestSize }

/-- R103, R111: an accepted Set Bench Profile: capabilities, the reserve where it changes with the arbitration, and
binding. -/
def profileBench (b : Nat) (chilled heavy : Option Bool) (largest items vu : Option Nat) (s : State) : State :=
  let s1 := s.updBench b (capabilitySet chilled heavy largest)
  (if s.reserveChanges b items vu then (s1.updChute b (reserveSet items vu)).arbitrate else s1).bindPass

/-- R103, R111. BAD_VALUE before IN_USE where both hold (log entry 38). -/
def setBenchProfile (rq : ReqHead) (b : Nat) (chilled heavy : Option Bool) (largest items vu : Option Nat)
    (s : State) : Reply × State :=
  checked rq.lengthOk (rq.valueOk && inRange 1 12 b && optInRange 1 4 largest && optInRange 0 8 items &&
      optInRange 0 400 vu) (fun s =>
    if s.reserveChanges b items vu && s.chuteHeld b then (bare .inUse, s)
    else (bare .ok, s.profileBench b chilled heavy largest items vu)) s

/-! ### Set Common Pool, Set Common Cap (R104, R105) -/

/-- R104. BAD_VALUE before IN_USE where both hold (log entry 38). -/
def setCommonPool (rq : ReqHead) (items vu : Nat) (s : State) : Reply × State :=
  checked rq.lengthOk (inRange 0 64 items && inRange 0 3200 vu) (fun s =>
    if items = s.pool.items ∧ vu = s.pool.vu then (bare .ok, s)
    else if s.chutes.any (fun c => c.heldItems != 0 || c.heldVu != 0) then (bare .inUse, s)
    else (bare .ok, { s with pool := ⟨items, vu, items, vu⟩ })) s

/-- R105. -/
def setCommonCap (rq : ReqHead) (b : Option Nat) (items vu : Nat) (s : State) : Reply × State :=
  checked rq.lengthOk (optInRange 1 12 b && inRange 0 64 items && inRange 0 3200 vu) (fun s =>
    let cap := fun c : Chute => { c with capItems := items, capVu := vu }
    (bare .ok, match b with
      | none => { s with chutes := s.chutes.map cap }
      | some n => s.updChute n cap)) s

/-! ### Lanes, schedule, loop (R49, R54, R55) -/

/-- R49: the vector carried as a list of benches. -/
def setLaneProfile (rq : ReqHead) (lane : Nat) (vector : List Nat) (s : State) : Reply × State :=
  checked rq.lengthOk (inRange 1 6 lane && vector.all (inRange 1 12)) (fun s =>
    (bare .ok, s.updLane lane (fun l => { l with vector := benchSetOf vector }))) s

/-- R54: 32 entries; any other number is a body of the wrong length. -/
def setAdmissionSchedule (rq : ReqHead) (entries : List Nat) (s : State) : Reply × State :=
  checked (rq.lengthOk && entries.length == 32) (entries.all (inRange 0 6)) (fun s =>
    (bare .ok, { s with admission := { s.admission with schedule := entries, pointer := 0 } }.tryAdmit)) s

/-- R55. BAD_VALUE before IN_USE where both hold (log entry 38). -/
def setLoop (rq : ReqHead) (capacity lapLimit : Option Nat) (s : State) : Reply × State :=
  checked rq.lengthOk (optInRange 1 32 capacity && optInRange 1 15 lapLimit) (fun s =>
    if capacity.isSome && s.occupancy != 0 then (bare .inUse, s)
    else (bare .ok,
      { s with loop := ⟨capacity.getD s.loop.capacity, lapLimit.getD s.loop.lapLimit⟩ }.tryAdmit)) s

/-! ### Timers, groups, rush floor (R83, R135, R141) -/

/-- R135. -/
def setTimers (rq : ReqHead) (dwell shortage placement restart : Option Nat) (s : State) : Reply × State :=
  checked rq.lengthOk (optInRange 10 120 dwell && optInRange 5 240 shortage && optInRange 1 30 placement &&
      optInRange 1 30 restart) (fun s =>
    let t : Timers := ⟨dwell.getD s.timers.dwellBudget, shortage.getD s.timers.shortageLimit,
      placement.getD s.timers.placementLimit, restart.getD s.timers.restartWait⟩
    (okWith (.timers t), { s with timers := t })) s

/-- R141: a body whose length does not match its count is refused with BAD_LENGTH. -/
def setSubstitutionGroup (rq : ReqHead) (g count : Nat) (skus : List Nat) (s : State) : Reply × State :=
  checked (rq.lengthOk && skus.length == count) (inRange 1 31 g && inRange 0 6 count && skus.all (inRange 1 maxSku))
    (fun s =>
      if !distinct skus then (bare .duplicate, s)
      else (okWith (.group (s.alternates g)),
        { s with groups := amend Group.number g (fun x => { x with skus := skus }) s.groups })) s

/-- R25, R83: lowering the floor runs binding. -/
def setRushFloor (rq : ReqHead) (floor : Nat) (s : State) : Reply × State :=
  checked rq.lengthOk (inRange 0 3 floor) (fun s =>
    let t := { s with rushFloor := floor }
    (okWith (.rushFloor s.rushFloor), if floor < s.rushFloor then t.bindPass else t)) s

/-! ### Dispatch lanes (R158 to R160) -/

/-- R160: the reply carries the lane record after the full flag is judged and the lane is served (log entry 20). -/
def setDispatchLane (rq : ReqHead) (n : Nat) (capacity matchCount : Option Nat) (s : State) : Reply × State :=
  checked rq.lengthOk (inRange 1 4 n && optInRange 1 40 capacity && optInRange 0 40 matchCount) (fun s =>
    let s1 := s.updDispatch n (fun d =>
      { d with capacity := capacity.getD d.capacity, matchCount := matchCount.getD d.matchCount })
    let t := (s1.judgeFull n none).serveLane n
    (match t.dispatchLane? n with
      | none => bare .ok
      | some d => okWith (.dispatchLane d), t)) s

/-- R159. -/
def setLateLane (rq : ReqHead) (n : Nat) (s : State) : Reply × State :=
  checked rq.lengthOk (inRange 1 4 n) (fun s => (okWith (.lateLane s.lateLane), { s with lateLane := n })) s

/-- R158: the count 0, the full flag judged, the lane served. -/
def swapCage (n : Nat) (s : State) : State :=
  ((s.updDispatch n (fun d => { d with count := 0 })).judgeFull n none).serveLane n

/-- R158. -/
def cageSwapped (rq : ReqHead) (n : Nat) (s : State) : Reply × State :=
  checked rq.lengthOk (inRange 1 4 n) (fun s =>
    (okWith (.cageCount (((s.dispatchLane? n).map (·.count)).getD 0)), s.swapCage n)) s

end State

/-! ### The commands -/

/-- SET_TEMPLATE, kind 0x30 (R112). -/
def execSetTemplate (rq : ReqHead) (number : Nat) (plan : TemplatePlan) (s : State) : Outcome :=
  request (.setTemplate rq number plan) rq 0x30 (State.setTemplate rq number plan) s

/-- SET_BENCH_PROFILE, kind 0x31 (R103, R111). -/
def execSetBenchProfile (rq : ReqHead) (bench : Nat) (chilled heavy : Option Bool) (largest items vu : Option Nat)
    (s : State) : Outcome :=
  request (.setBenchProfile rq bench chilled heavy largest items vu) rq 0x31
    (State.setBenchProfile rq bench chilled heavy largest items vu) s

/-- SET_COMMON_POOL, kind 0x32 (R104). -/
def execSetCommonPool (rq : ReqHead) (items vu : Nat) (s : State) : Outcome :=
  request (.setCommonPool rq items vu) rq 0x32 (State.setCommonPool rq items vu) s

/-- SET_COMMON_CAP, kind 0x33 (R105). -/
def execSetCommonCap (rq : ReqHead) (bench : Option Nat) (items vu : Nat) (s : State) : Outcome :=
  request (.setCommonCap rq bench items vu) rq 0x33 (State.setCommonCap rq bench items vu) s

/-- SET_LANE_PROFILE, kind 0x34 (R49). -/
def execSetLaneProfile (rq : ReqHead) (lane : Nat) (vector : List Nat) (s : State) : Outcome :=
  request (.setLaneProfile rq lane vector) rq 0x34 (State.setLaneProfile rq lane vector) s

/-- SET_ADMISSION_SCHEDULE, kind 0x35 (R54). -/
def execSetAdmissionSchedule (rq : ReqHead) (entries : List Nat) (s : State) : Outcome :=
  request (.setAdmissionSchedule rq entries) rq 0x35 (State.setAdmissionSchedule rq entries) s

/-- SET_LOOP, kind 0x36 (R55). -/
def execSetLoop (rq : ReqHead) (capacity lapLimit : Option Nat) (s : State) : Outcome :=
  request (.setLoop rq capacity lapLimit) rq 0x36 (State.setLoop rq capacity lapLimit) s

/-- SET_TIMERS, kind 0x37 (R135). -/
def execSetTimers (rq : ReqHead) (dwell shortage placement restart : Option Nat) (s : State) : Outcome :=
  request (.setTimers rq dwell shortage placement restart) rq 0x37
    (State.setTimers rq dwell shortage placement restart) s

/-- SET_SUBSTITUTION_GROUP, kind 0x38 (R141). -/
def execSetSubstitutionGroup (rq : ReqHead) (group count : Nat) (skus : List Nat) (s : State) : Outcome :=
  request (.setSubstitutionGroup rq group count skus) rq 0x38 (State.setSubstitutionGroup rq group count skus) s

/-- SET_RUSH_FLOOR, kind 0x39 (R83). -/
def execSetRushFloor (rq : ReqHead) (floor : Nat) (s : State) : Outcome :=
  request (.setRushFloor rq floor) rq 0x39 (State.setRushFloor rq floor) s

/-- SET_DISPATCH_LANE, kind 0x3A (R160). -/
def execSetDispatchLane (rq : ReqHead) (lane : Nat) (capacity matchCount : Option Nat) (s : State) : Outcome :=
  request (.setDispatchLane rq lane capacity matchCount) rq 0x3A (State.setDispatchLane rq lane capacity matchCount) s

/-- SET_LATE_LANE, kind 0x3B (R159). -/
def execSetLateLane (rq : ReqHead) (lane : Nat) (s : State) : Outcome :=
  request (.setLateLane rq lane) rq 0x3B (State.setLateLane rq lane) s

/-- CAGE_SWAPPED, kind 0x40 (R158). -/
def execCageSwapped (rq : ReqHead) (lane : Nat) (s : State) : Outcome :=
  request (.cageSwapped rq lane) rq 0x40 (State.cageSwapped rq lane) s

end Sys2Proof.Machine
end

