-- ==== Sys2Proof/Machine/OrderRequests.lean ====
section
/-! DEFINITION. The requests of the Order Book and of the lines of its orders (chapters 1 and 7.2). -/

namespace Sys2Proof.Machine

open Sys2Proof

namespace State

/-! ### Load Order (R14) -/

/-- R1: the lowest-numbered FREE slot. -/
def freeSlot? (s : State) : Option Nat := (List.range Config.orderSlots).find? (fun n => (s.order? n).isNone)

/-- R3: a line at Load Order and at an added line. -/
def newLine (s : State) (sku : Nat) (cls : ItemClass) (required group : Nat) : Line :=
  ⟨sku, cls, required, 0, 0, 0, group, .opened, false, s.clock.minute⟩

/-- R14: the lines of a Load Order. -/
def loadLines (s : State) (f : LoadFields) : List Line :=
  f.lines.map (fun l => s.newLine l.sku ((classOfCode l.cls).getD .ambient) l.required l.group)

/-- R14: the order record at Load Order. -/
def newOrder (s : State) (slot : Nat) (f : LoadFields) : Order where
  slot := slot
  ref := f.ref
  loadSeq := s.book.loadSeq
  priority := f.priority
  wave := f.wave
  template := f.template
  state := .loaded
  held := false
  bench := none
  overdue := s.waveState f.wave == .cut
  late := false
  topGate := none
  fragileBegun := false
  withdrawals := 0
  lines := s.loadLines f
  sealMinute := none
  dispatchLane := none

/-- R14: an accepted Load Order: the order in its slot, the load sequence, ORDER_OVERDUE, and binding. -/
def acceptOrder (slot : Nat) (f : LoadFields) (s : State) : State :=
  let o := s.newOrder slot f
  let s1 := { s with book :=
    { s.book with
      orders := insertBy Order.slot o s.book.orders
      loadSeq := (s.book.loadSeq + 1) % Config.loadModulus } }
  (if o.overdue then s1.raiseNotice .orderOverdue else s1).bindPass

/-- R14 check 4, R15: a wave no order may be put on. -/
def waveShut (s : State) (w : Nat) : Bool := s.waveState w == .unused || s.waveState w == .departed

/-- R14: Load Order, its checks in their order. -/
def loadOrder (body : List Byte) (s : State) : Reply × State :=
  let f := LoadFields.read body
  checked (loadLengthOk body) (loadFieldsOk f) (fun s =>
    if (s.orderOf? f.ref).isSome || !distinct (f.lines.map (·.sku)) then (bare .duplicate, s)
    else if s.cell.state == .restarting || s.waveShut f.wave || (s.plan? f.template).isNone then
      (bare .wrongState, s)
    else match s.freeSlot? with
      | none => (bare .noRoom, s)
      | some slot =>
        if Config.linePool < s.linesUsed + f.lines.length then (bare .noRoom, s)
        else (okWith (.slot slot), s.acceptOrder slot f)) s

/-! ### Amend Order (R15 to R18) -/

/-- R25: binding runs when the order just changed is on the waiting list. -/
def bindIfWaiting (slot : Nat) (s : State) : State :=
  match s.order? slot with
  | none => s
  | some o => if o.isWaiting then s.bindPass else s

/-- R18: whether an amendment that adds or raises a HEAVY line is forbidden. -/
def heavyShut (s : State) (o : Order) : Bool :=
  o.fragileBegun || match o.bench.bind s.hamper? with
    | none => false
    | some h => h.baseClosed

/-- R13: a request on an order accepted. -/
def taken (o : Order) (t : State) : Reply × State := (orderReply .ok o.slot, t)

/-- R13: a request on an order refused; it changes nothing. -/
def refusedWith (st : Status) (o : Order) (s : State) : Reply × State := (orderReply st o.slot, s)

/-- R16. DESIGN CHOICE (log entry 38): where several cases of refusal hold at once, the first in the order in which R16
lists them gives the status; R16 states no order among them. -/
def setQuantity (n required : Nat) (o : Order) (s : State) : Reply × State :=
  match o.line? n with
  | none => refusedWith .notFound o s
  | some l =>
    if l.state == .closed then refusedWith .wrongState o s
    else if required < l.committed ∨ Config.maxUnits < o.totalRequired - l.required + required then
      refusedWith .badValue o s
    else if l.cls == .heavy && decide (l.required < required) && s.heavyShut o then refusedWith .wrongState o s
    else
      let s1 := s.updLine o.slot n (fun l => { l with required := required }.settled)
      taken o (((s1.recomputeGate o.slot).completionCheck o.slot).bindIfWaiting o.slot)

/-- R17: whether the bench of a bound order cannot take a line of a class. -/
def benchLacks (s : State) (o : Order) (c : ItemClass) : Bool :=
  match o.bench.bind s.bench? with
  | none => false
  | some x => (c == .chilled && !x.chilledCapable) || (c == .heavy && !x.heavyCapable)

/-- R17, ADD_LINE. DESIGN CHOICE (log entry 38): where several cases of refusal hold at once, the first in the order in
which R17 lists them gives the status; R17 states no order among them. -/
def addLine (sku : Nat) (c : ItemClass) (required group : Nat) (o : Order) (s : State) : Reply × State :=
  if o.lines.any (fun l => l.sku == sku) then refusedWith .duplicate o s
  else if Config.maxLines ≤ o.lines.length ∨ Config.maxUnits < o.totalRequired + required then
    refusedWith .badValue o s
  else if s.benchLacks o c then refusedWith .wrongState o s
  else if c == .heavy && s.heavyShut o then refusedWith .wrongState o s
  else if Config.linePool ≤ s.linesUsed then refusedWith .noRoom o s
  else
    let s1 := s.updOrder o.slot (fun o => { o with lines := o.lines ++ [s.newLine sku c required group] })
    taken o ((s1.recomputeGate o.slot).bindIfWaiting o.slot)

/-- R17: the allocations to lines after a removed one. -/
def renumber (slot n : Nat) (s : State) : State :=
  { s with items := s.items.map (fun i =>
    match i.alloc with
    | none => i
    | some a => if a.slot = slot ∧ n < a.line then { i with alloc := some { a with line := a.line - 1 } } else i) }

/-- R17, REMOVE_LINE. DESIGN CHOICE (log entry 38): where several cases of refusal hold at once, the first in the order in
which R17 lists them gives the status; R17 states no order among them. -/
def removeLine (n : Nat) (o : Order) (s : State) : Reply × State :=
  match o.line? n with
  | none => refusedWith .notFound o s
  | some l =>
    if l.committed ≠ 0 then refusedWith .inUse o s
    else if o.lines.length ≤ 1 then refusedWith .badValue o s
    else
      let s1 := (s.updOrder o.slot (fun o => { o with lines := o.lines.eraseIdx (n - 1) })).renumber o.slot n
      taken o (((s1.recomputeGate o.slot).completionCheck o.slot).bindIfWaiting o.slot)

/-- R15, SET_PRIORITY. -/
def setPriority (p : Nat) (o : Order) (s : State) : Reply × State :=
  taken o ((s.updOrder o.slot (fun o => { o with priority := p })).bindIfWaiting o.slot)

/-- R15, SET_WAVE (log entry 17 for a wave that is CUT). DESIGN CHOICE (log entry 38): the order's own wave is refused too
where it is DEPARTED, since R15 states the refusal first. -/
def amendWave (w : Nat) (o : Order) (s : State) : Reply × State :=
  if s.waveShut w then refusedWith .wrongState o s
  else if w = o.wave then taken o s
  else
    let cut := s.waveState w == .cut
    let s1 := s.updOrder o.slot (fun o => { o with wave := w, overdue := o.overdue || cut })
    taken o ((if cut then s1.raiseNotice .orderOverdue else s1).bindIfWaiting o.slot)

/-! ### Hold, Resume, Cancel, Retire (R19, R20, R22) -/

/-- R19: the states in which Hold Order and Resume Order are taken are those of R15. -/
def holdOrder (o : Order) (s : State) : Reply × State :=
  match o.state with
  | .loaded => taken o (s.updOrder o.slot (fun o => { o with held := true }))
  | .building => taken o (s.updOrder o.slot (fun o => { o with state := .held, held := true }))
  | .held => taken o s
  | .complete | .sealed | .dispatched | .cancelling | .cancelled => refusedWith .wrongState o s

/-- R19, Resume Order. A resumed order's staged items may be eligible again, so the arbitration runs (R94). -/
def resumeOrder (o : Order) (s : State) : Reply × State :=
  match o.state with
  | .loaded =>
    if o.held then taken o ((s.updOrder o.slot (fun o => { o with held := false })).bindIfWaiting o.slot) else taken o s
  | .building => taken o s
  | .held =>
    taken o (((s.updOrder o.slot (fun o => { o with state := .building, held := false })).completionCheck
      o.slot).arbitrate)
  | .complete | .sealed | .dispatched | .cancelling | .cancelled => refusedWith .wrongState o s

/-- R20. -/
def cancelOrder (o : Order) (s : State) : Reply × State :=
  match o.state with
  | .sealed | .dispatched => refusedWith .wrongState o s
  | .cancelling | .cancelled => taken o s
  | .loaded => if o.bench = none then taken o (s.becomeCancelled o.slot) else taken o (s.enterCancelling o.slot)
  | .building | .held | .complete => taken o (s.enterCancelling o.slot)

/-- R22. -/
def retireOrder (o : Order) (s : State) : Reply × State :=
  taken o { s with book := { s.book with orders := dropKey Order.slot o.slot s.book.orders } }

def retirable (st : OrderState) : Bool := st == .dispatched || st == .cancelled

/-! ### Declare Short, Restore Line, Close Line (R137 to R139) -/

/-- R137. -/
def declareShort (n : Nat) (o : Order) (s : State) : Reply × State :=
  match o.line? n with
  | none => refusedWith .notFound o s
  | some l =>
    match l.state with
    | .opened => taken o (s.updLine o.slot n (fun l => { l with state := .short, shortMark := true }))
    | .short => taken o s
    | .filled | .closed => refusedWith .wrongState o s

/-- R138. -/
def restoreLine (n : Nat) (o : Order) (s : State) : Reply × State :=
  match o.line? n with
  | none => refusedWith .notFound o s
  | some l =>
    match l.state with
    | .short =>
      taken o (s.updLine o.slot n (fun l =>
        { l with state := .opened, shortMark := false, lastProgress := s.clock.minute }))
    | .filled =>
      if l.shortMark then
        taken o (s.updLine o.slot n (fun l => { l with shortMark := false, lastProgress := s.clock.minute }))
      else taken o s
    | .opened => taken o s
    | .closed => refusedWith .wrongState o s

/-- R139. -/
def closeLine (n : Nat) (o : Order) (s : State) : Reply × State :=
  match o.line? n with
  | none => refusedWith .notFound o s
  | some l =>
    match l.state with
    | .closed => taken o s
    | .opened | .short | .filled =>
      let s1 := s.updLine o.slot n (fun l => { l with state := .closed })
      let s2 := if l.cls == .heavy then s1.recomputeGate o.slot else s1
      taken o (s2.completionCheck o.slot)

/-! ### Get Order, List Orders (R23) -/

/-- R23. -/
def getOrder (o : Order) (s : State) : Reply × State := (okWith (.order o (s.age o)), s)

/-- R23: whether an order meets the filters. -/
def listed (states : List OrderState) (overdue late : Bool) (o : Order) : Bool :=
  (states.isEmpty || states.contains o.state) && (!overdue || o.overdue) && (!late || o.late)

/-- R23: an entry of List Orders. -/
def orderEntry (o : Order) : OrderEntry := ⟨o.slot, o.ref, o.state, o.held, o.overdue, o.late⟩

/-- R23, the orders standing in rising slot. -/
def listOrders (states : List OrderState) (overdue late : Bool) (s : State) : Reply × State :=
  (okWith (.orders ((s.book.orders.filter (listed states overdue late)).map orderEntry)), s)

end State

/-- A line number in a request (R3, log entry 16). -/
def lineNumberOk (n : Nat) : Bool := inRange 1 Config.maxLines n

/-- Every order state is one the request is looked at in. -/
def anyOrder (_ : OrderState) : Bool := true

/-! ### The commands -/

/-- LOAD_ORDER, kind 0x20 (R14, R201). -/
def execLoadOrder (tag : Byte) (body : List Byte) (s : State) : Outcome :=
  request (.loadOrder tag body) ⟨tag, true, true⟩ 0x20 (State.loadOrder body) s

/-- SET_QUANTITY, a change kind of Amend Order, kind 0x21 (R16). -/
def execSetQuantity (rq : ReqHead) (ref line required : Nat) (s : State) : Outcome :=
  request (.setQuantity rq ref line required) rq 0x21
    (orderRequest rq (rq.valueOk && lineNumberOk line && inRange 1 12 required) ref openOrder
    (State.setQuantity line required)) s

/-- ADD_LINE, a change kind of Amend Order, kind 0x21 (R17). -/
def execAddLine (rq : ReqHead) (ref sku cls required group : Nat) (s : State) : Outcome :=
  request (.addLine rq ref sku cls required group) rq 0x21
    (orderRequest rq (rq.valueOk && lineFieldsOk sku cls required group) ref openOrder
    (State.addLine sku ((classOfCode cls).getD .ambient) required group)) s

/-- REMOVE_LINE, a change kind of Amend Order, kind 0x21 (R17). -/
def execRemoveLine (rq : ReqHead) (ref line : Nat) (s : State) : Outcome :=
  request (.removeLine rq ref line) rq 0x21
    (orderRequest rq (rq.valueOk && lineNumberOk line) ref openOrder (State.removeLine line)) s

/-- SET_PRIORITY, a change kind of Amend Order, kind 0x21 (R15). -/
def execSetPriority (rq : ReqHead) (ref priority : Nat) (s : State) : Outcome :=
  request (.setPriority rq ref priority) rq 0x21
    (orderRequest rq (rq.valueOk && inRange 0 3 priority) ref openOrder (State.setPriority priority)) s

/-- SET_WAVE, a change kind of Amend Order, kind 0x21 (R15). -/
def execAmendSetWave (rq : ReqHead) (ref wave : Nat) (s : State) : Outcome :=
  request (.amendSetWave rq ref wave) rq 0x21
    (orderRequest rq (rq.valueOk && inRange 1 8 wave) ref openOrder (State.amendWave wave)) s

/-- HOLD_ORDER, kind 0x22 (R19). -/
def execHoldOrder (rq : ReqHead) (ref : Nat) (s : State) : Outcome :=
  request (.holdOrder rq ref) rq 0x22 (orderRequest rq true ref anyOrder State.holdOrder) s

/-- RESUME_ORDER, kind 0x23 (R19). -/
def execResumeOrder (rq : ReqHead) (ref : Nat) (s : State) : Outcome :=
  request (.resumeOrder rq ref) rq 0x23 (orderRequest rq true ref anyOrder State.resumeOrder) s

/-- CANCEL_ORDER, kind 0x24 (R20). -/
def execCancelOrder (rq : ReqHead) (ref : Nat) (s : State) : Outcome :=
  request (.cancelOrder rq ref) rq 0x24 (orderRequest rq true ref anyOrder State.cancelOrder) s

/-- RETIRE_ORDER, kind 0x25 (R22). -/
def execRetireOrder (rq : ReqHead) (ref : Nat) (s : State) : Outcome :=
  request (.retireOrder rq ref) rq 0x25 (orderRequest rq true ref State.retirable State.retireOrder) s

/-- DECLARE_SHORT, kind 0x26 (R137). -/
def execDeclareShort (rq : ReqHead) (ref line : Nat) (s : State) : Outcome :=
  request (.declareShort rq ref line) rq 0x26
    (orderRequest rq (lineNumberOk line) ref openOrder (State.declareShort line)) s

/-- RESTORE_LINE, kind 0x27 (R138). -/
def execRestoreLine (rq : ReqHead) (ref line : Nat) (s : State) : Outcome :=
  request (.restoreLine rq ref line) rq 0x27
    (orderRequest rq (lineNumberOk line) ref openOrder (State.restoreLine line)) s

/-- CLOSE_LINE, kind 0x28 (R139). -/
def execCloseLine (rq : ReqHead) (ref line : Nat) (s : State) : Outcome :=
  request (.closeLine rq ref line) rq 0x28
    (orderRequest rq (lineNumberOk line) ref openOrder (State.closeLine line)) s

/-- GET_ORDER, kind 0x29 (R23). -/
def execGetOrder (rq : ReqHead) (ref : Nat) (s : State) : Outcome :=
  request (.getOrder rq ref) rq 0x29 (orderRequest rq true ref anyOrder State.getOrder) s

/-- LIST_ORDERS, kind 0x2A (R23). -/
def execListOrders (rq : ReqHead) (states : List OrderState) (overdue late : Bool) (s : State) : Outcome :=
  request (.listOrders rq states overdue late) rq 0x2A
    (checked rq.lengthOk rq.valueOk (State.listOrders states overdue late)) s

end Sys2Proof.Machine
end

