-- ==== Sys2Proof/Machine/StatusRequests.lean ====
section
/-! DEFINITION. The requests that read items, benches and staging (R43, R106, R133), of the Fault Monitor (R172 to R174), and of the notices (R193). -/

namespace Sys2Proof.Machine

open Sys2Proof

/-- R69, R133: the first slot numbers of the zones of a hamper in the order BASE, MIDDLE, TOP, POCKET. -/
def Hamper.firstSlots (h : Hamper) : List Nat := [Zone.base, .middle, .top, .pocket].map h.firstSlot

/-- R127: the issue minute of an outstanding Place. -/
def Outstanding.placeMinute : Outstanding → Option Nat
  | .place m => some m
  | .none => Option.none
  | .ret _ => Option.none
  | .pull _ => Option.none

/-- R172: the action field of a severity, absent for unchanged. -/
def actionFor (a0 a1 a2 : Option FaultAction) : Nat → Option FaultAction
  | 0 => a0
  | 1 => a1
  | 2 => a2
  | _ => none

/-- R172: a kind entry applied to the map. -/
def FaultMonitor.mapped (m : FaultMonitor) (f : MapField) : FaultMonitor :=
  { m with map := m.map.map (fun e =>
    if e.kind.code == f.code then { e with enabled := f.enable, severity := f.severity } else e) }

/-- R172: the actions present applied. -/
def FaultMonitor.withActions (a0 a1 a2 : Option FaultAction) (m : FaultMonitor) : FaultMonitor :=
  { m with severities := m.severities.map (fun v =>
    { v with action := (actionFor a0 a1 a2 v.number).getD v.action }) }

/-- R172: the map as a reply carries it. -/
def FaultMonitor.mapView (m : FaultMonitor) : ReplyBody := .faultMap m.map (m.severities.map (·.action))

/-- R174: the records of a severity made empty. -/
def Severity.emptied (v : Severity) : Severity := { v with first := none, latest := none }

def Severity.view (v : Severity) : SeverityView := ⟨v.number, v.first, v.latest⟩

/-- Whether an entry's number is the one named, or none is named. -/
def namedOrAll (named : Option Nat) (n : Nat) : Bool :=
  match named with
  | none => true
  | some k => n == k

/-- R197: the eleven flags of a two-byte flag set. -/
def flagSetOf (v : BitVec 16) : NoticeSet := v.setWidth 11

/-- R193: the notices after an acknowledge of a set of flags. -/
def Notices.acknowledged (v : NoticeSet) (n : Notices) : Notices :=
  { n with pending := n.pending &&& ~~~v, mark := n.mark && !flagIn v .faultNotice }

/-- R193: what Get Notices carries. -/
def Notices.view (n : Notices) : NoticeView := ⟨n.pending, n.enables, n.mark, n.polarity, n.asserted⟩

namespace State

/-! ### Reading (R43, R106, R133) -/

/-- R43: the loop and lane summary. -/
def loopView (s : State) : LoopView :=
  ⟨s.items.length, s.occupancy, s.loop.capacity, s.loop.lapLimit, s.admission.mergeFree, s.admission.pointer, s.lanes⟩

/-- R43. -/
def getItem (rq : ReqHead) (tag : Option Nat) (s : State) : Reply × State :=
  checked rq.lengthOk (optInRange 1 65534 tag) (fun s =>
    match tag with
    | none => (okWith (.loop s.loopView), s)
    | some t =>
      match s.item? t with
      | none => (bare .notFound, s)
      | some i => (okWith (.item i), s)) s

/-- R133: one entry of a placement list. -/
def placeView (s : State) (e : PlaceEntry) : PlaceView :=
  ⟨e.tag, (s.item? e.tag).bind (fun i => i.outstanding.placeMinute), e.timedOut⟩

/-- R133: one bench. -/
def benchView (s : State) (x : Bench) : BenchView where
  bench := x
  firstSlots := match x.hamper with
    | none => []
    | some h => h.firstSlots
  places := match x.hamper with
    | none => []
    | some h => h.places.map s.placeView

/-- R133. -/
def getBench (rq : ReqHead) (b : Option Nat) (s : State) : Reply × State :=
  checked rq.lengthOk (optInRange 1 12 b) (fun s =>
    (okWith (.benches ((s.benches.filter (fun x => namedOrAll b x.number)).map s.benchView)
      (match b with
        | none => some s.templates
        | some _ => none)), s)) s

/-- R92: a staged item of bench b. -/
def stagedAt (b : Nat) (i : Item) : Bool :=
  i.location == .inBuffer && match i.alloc with
    | none => false
    | some a => a.bench == b

/-- R106: one bench. -/
def chuteView (s : State) (c : Chute) : ChuteView :=
  ⟨c, s.items.countP (stagedAt c.bench), s.items.countP (fun i => stagedAt c.bench i && i.wait == .none)⟩

/-- R106: the staging state of the benches named. -/
def stagingView (s : State) (b : Option Nat) : StagingView where
  pool := s.pool
  outbound := s.items.countP outbound
  releases := s.arbiter.releases
  pointer := s.arbiter.pointer
  heldBack := s.arbiter.heldBack.length
  chutes := (s.chutes.filter (fun c => namedOrAll b c.bench)).map s.chuteView

/-- R106. -/
def getStaging (rq : ReqHead) (b : Option Nat) (s : State) : Reply × State :=
  checked rq.lengthOk (optInRange 1 12 b) (fun s => (okWith (.staging (s.stagingView b)), s)) s

/-! ### The Fault Monitor (R172 to R174) -/

/-- R172: kind entries and actions in range. -/
def mapFieldOk (f : MapField) : Bool := inRange 1 17 f.code && inRange 0 2 f.severity

/-- R172. -/
def setFaultMap (rq : ReqHead) (count : Nat) (entries : List MapField) (a0 a1 a2 : Option FaultAction) (s : State) :
    Reply × State :=
  checked (rq.lengthOk && entries.length == count) (rq.valueOk && inRange 0 17 count && entries.all mapFieldOk)
    (fun s =>
      if !distinct (entries.map (·.code)) then (bare .duplicate, s)
      else
        let m := (entries.foldl FaultMonitor.mapped s.faults).withActions a0 a1 a2
        (okWith m.mapView, { s with faults := m })) s

/-- A counter of the monitor changed. -/
def updCounter (n : Nat) (f : Counter → Counter) (s : State) : State :=
  { s with faults := { s.faults with counters := amend Counter.number n f s.faults.counters } }

def counter? (s : State) (n : Nat) : Option Counter := look Counter.number n s.faults.counters

/-- R173, Set Counter Select. BAD_VALUE before DUPLICATE where both hold (log entry 38); the codes as a
list (log entry 40). -/
def setCounterSelect (rq : ReqHead) (n : Nat) (codes : List Nat) (s : State) : Reply × State :=
  checked rq.lengthOk (inRange 1 2 n && codes.all (inRange 1 17)) (fun s =>
    if !distinct codes then (bare .duplicate, s)
    else (match s.counter? n with
      | none => bare .ok
      | some c => okWith (.kinds c.select),
      s.updCounter n (fun c => { c with select := kindSetOf codes }))) s

/-- R174, Get Fault Records. -/
def getFaultRecords (rq : ReqHead) (sev : Option Nat) (s : State) : Reply × State :=
  checked rq.lengthOk (optInRange 0 2 sev) (fun s =>
    (okWith (.faultRecords ((s.faults.severities.filter (fun v => namedOrAll sev v.number)).map Severity.view)
      s.faults.seen), s)) s

/-- R174, Clear Fault Records. -/
def clearFaultRecords (rq : ReqHead) (sev : Option Nat) (s : State) : Reply × State :=
  checked rq.lengthOk (optInRange 0 2 sev) (fun s =>
    (bare .ok, { s with faults := { s.faults with
      severities := s.faults.severities.map (fun v => if namedOrAll sev v.number then v.emptied else v)
      seen := 0 } })) s

/-- R173, Clear Counter. -/
def clearCounter (rq : ReqHead) (n : Nat) (s : State) : Reply × State :=
  checked rq.lengthOk (inRange 1 2 n) (fun s =>
    (match s.counter? n with
      | none => bare .ok
      | some c => okWith (.counter c.value c.overflow),
      s.updCounter n (fun c => { c with value := 0, overflow := false }))) s

/-! ### The notices (R193) -/

/-- R193, Set Notice Enable. -/
def setNoticeEnable (rq : ReqHead) (flags : BitVec 16) (s : State) : Reply × State :=
  checked rq.lengthOk (flagsOk flags) (fun s =>
    (okWith (.noticeSet s.notices.enables), { s with notices := { s.notices with enables := flagSetOf flags } })) s

/-- R193, Set Attention Polarity. -/
def setPolarity (rq : ReqHead) (p : Polarity) (s : State) : Reply × State :=
  checked rq.lengthOk rq.valueOk (fun s =>
    (okWith (.polarity s.notices.polarity), { s with notices := { s.notices with polarity := p } })) s

/-- R193, Acknowledge Notices. -/
def acknowledge (rq : ReqHead) (flags : BitVec 16) (s : State) : Reply × State :=
  checked rq.lengthOk (flagsOk flags) (fun s =>
    (okWith (.noticeSet s.notices.pending), { s with notices := s.notices.acknowledged (flagSetOf flags) })) s

end State

/-! ### The commands -/

/-- GET_ITEM, kind 0x41 (R43). -/
def execGetItem (rq : ReqHead) (tag : Option Nat) (s : State) : Outcome :=
  request (.getItem rq tag) rq 0x41 (State.getItem rq tag) s

/-- GET_BENCH, kind 0x42 (R133). -/
def execGetBench (rq : ReqHead) (bench : Option Nat) (s : State) : Outcome :=
  request (.getBench rq bench) rq 0x42 (State.getBench rq bench) s

/-- GET_STAGING, kind 0x43 (R106). -/
def execGetStaging (rq : ReqHead) (bench : Option Nat) (s : State) : Outcome :=
  request (.getStaging rq bench) rq 0x43 (State.getStaging rq bench) s

/-- SET_FAULT_MAP, kind 0x50 (R172). -/
def execSetFaultMap (rq : ReqHead) (count : Nat) (entries : List MapField) (action0 action1 action2 : Option FaultAction)
    (s : State) : Outcome :=
  request (.setFaultMap rq count entries action0 action1 action2) rq 0x50
    (State.setFaultMap rq count entries action0 action1 action2) s

/-- SET_COUNTER_SELECT, kind 0x51 (R173). -/
def execSetCounterSelect (rq : ReqHead) (counter : Nat) (codes : List Nat) (s : State) : Outcome :=
  request (.setCounterSelect rq counter codes) rq 0x51 (State.setCounterSelect rq counter codes) s

/-- GET_FAULT_RECORDS, kind 0x52 (R174). -/
def execGetFaultRecords (rq : ReqHead) (severity : Option Nat) (s : State) : Outcome :=
  request (.getFaultRecords rq severity) rq 0x52 (State.getFaultRecords rq severity) s

/-- CLEAR_FAULT_RECORDS, kind 0x53 (R174). -/
def execClearFaultRecords (rq : ReqHead) (severity : Option Nat) (s : State) : Outcome :=
  request (.clearFaultRecords rq severity) rq 0x53 (State.clearFaultRecords rq severity) s

/-- GET_COUNTERS, kind 0x54 (R173). -/
def execGetCounters (rq : ReqHead) (s : State) : Outcome :=
  request (.getCounters rq) rq 0x54 (checked rq.lengthOk true (fun s => (okWith (.counters s.faults.counters), s))) s

/-- CLEAR_COUNTER, kind 0x55 (R173). -/
def execClearCounter (rq : ReqHead) (counter : Nat) (s : State) : Outcome :=
  request (.clearCounter rq counter) rq 0x55 (State.clearCounter rq counter) s

/-- SET_NOTICE_ENABLE, kind 0x58 (R193). -/
def execSetNoticeEnable (rq : ReqHead) (flags : BitVec 16) (s : State) : Outcome :=
  request (.setNoticeEnable rq flags) rq 0x58 (State.setNoticeEnable rq flags) s

/-- SET_ATTENTION_POLARITY, kind 0x59 (R193). -/
def execSetAttentionPolarity (rq : ReqHead) (polarity : Polarity) (s : State) : Outcome :=
  request (.setAttentionPolarity rq polarity) rq 0x59 (State.setPolarity rq polarity) s

/-- GET_NOTICES, kind 0x5A (R193). -/
def execGetNotices (rq : ReqHead) (s : State) : Outcome :=
  request (.getNotices rq) rq 0x5A (checked rq.lengthOk true (fun s => (okWith (.notices s.notices.view), s))) s

/-- ACKNOWLEDGE_NOTICES, kind 0x5B (R193). -/
def execAcknowledgeNotices (rq : ReqHead) (flags : BitVec 16) (s : State) : Outcome :=
  request (.acknowledgeNotices rq flags) rq 0x5B (State.acknowledge rq flags) s

end Sys2Proof.Machine
end

