-- ==== Sys2Proof/Machine/Steps.lean ====
section
/-! DEFINITION. The steps that the blocks make by themselves (R25, R53, R96, R97, R120, R128, R155). Each command runs the operation that the events of its rule run, under the same conditions (log entry 13). -/

namespace Sys2Proof.Machine

open Sys2Proof

/-- ADMIT (R51 to R53): an attempt at admission. -/
def execAdmitHead (s : State) : Outcome := event State.tryAdmit s

/-- BINDING (R25): a binding pass. -/
def execBinding (s : State) : Outcome := event State.bindPass s

/-- PLACE (R119, R120): Place issue tried for one bench. -/
def execPlaceItem (bench : Nat) (s : State) : Outcome := event (State.placeTry bench) s

/-- SEAL (R128): Seal issue tried for one bench. -/
def execSealHamper (bench : Nat) (s : State) : Outcome := event (State.sealTry bench) s

/-- BUFFER_RELEASE (R95 to R97): an arbitration. -/
def execBufferRelease (s : State) : Outcome := event State.arbitrate s

/-- HAMPER_RELEASE (R154, R155): one lane served. -/
def execHamperRelease (lane : Nat) (s : State) : Outcome := event (State.serveLane lane) s

end Sys2Proof.Machine
end

