-- ==== Sys2Proof/Machine/Dispatch.lean ====
section
/-! DEFINITION. The dispatch: one arm per command, each a direct call of the command's meaning. -/

namespace Sys2Proof.Machine

open Sys2Proof

/-- The effect of a command on the part. -/
def exec (i : Instr) (s : State) : Host.Outcome State Fault Refusal :=
  match i with
  | .powerUp => Sys2Proof.Machine.execPowerUp s
  | .minuteTick => Sys2Proof.Machine.execMinuteTick s
  | .clockLimit => Sys2Proof.Machine.execClockLimit s
  | .waveCut wave => Sys2Proof.Machine.execWaveCut wave s
  | .dwellExpired tag => Sys2Proof.Machine.execDwellExpired tag s
  | .shortagePass => Sys2Proof.Machine.execShortagePass s
  | .placeTimeout tag => Sys2Proof.Machine.execPlaceTimeout tag s
  | .restartForced => Sys2Proof.Machine.execRestartForced s
  | .boundaryRestart => Sys2Proof.Machine.execBoundaryRestart s
  | .drainComplete => Sys2Proof.Machine.execDrainComplete s
  | .linkFrame bytes => Sys2Proof.Machine.execLinkFrame bytes s
  | .linkByteGap => Sys2Proof.Machine.execLinkByteGap s
  | .cellBusFrame bytes => Sys2Proof.Machine.execCellBusFrame bytes s
  | .cellBusByteGap => Sys2Proof.Machine.execCellBusByteGap s
  | .unknownKind tag kind => Sys2Proof.Machine.execUnknownKind tag kind s
  | .busy bytes => Sys2Proof.Machine.execBusy bytes s
  | .noticeFrame => Sys2Proof.Machine.execNoticeFrame s
  | .getIdentity rq => Sys2Proof.Machine.execGetIdentity rq s
  | .getCellStatus rq => Sys2Proof.Machine.execGetCellStatus rq s
  | .commitSetup rq => Sys2Proof.Machine.execCommitSetup rq s
  | .startCell rq => Sys2Proof.Machine.execStartCell rq s
  | .pauseCell rq => Sys2Proof.Machine.execPauseCell rq s
  | .stopCell rq => Sys2Proof.Machine.execStopCell rq s
  | .clearHalt rq => Sys2Proof.Machine.execClearHalt rq s
  | .restartCellImmediate rq => Sys2Proof.Machine.execRestartCellImmediate rq s
  | .restartCellAtBoundary rq => Sys2Proof.Machine.execRestartCellAtBoundary rq s
  | .getRestartCauses rq => Sys2Proof.Machine.execGetRestartCauses rq s
  | .clearRestartCauses rq => Sys2Proof.Machine.execClearRestartCauses rq s
  | .setClock rq minute => Sys2Proof.Machine.execSetClock rq minute s
  | .setWave rq wave lane cutoff => Sys2Proof.Machine.execSetWave rq wave lane cutoff s
  | .departWave rq wave => Sys2Proof.Machine.execDepartWave rq wave s
  | .getWave rq wave => Sys2Proof.Machine.execGetWave rq wave s
  | .loadOrder tag body => Sys2Proof.Machine.execLoadOrder tag body s
  | .setQuantity rq ref line required => Sys2Proof.Machine.execSetQuantity rq ref line required s
  | .addLine rq ref sku cls required group => Sys2Proof.Machine.execAddLine rq ref sku cls required group s
  | .removeLine rq ref line => Sys2Proof.Machine.execRemoveLine rq ref line s
  | .setPriority rq ref priority => Sys2Proof.Machine.execSetPriority rq ref priority s
  | .amendSetWave rq ref wave => Sys2Proof.Machine.execAmendSetWave rq ref wave s
  | .holdOrder rq ref => Sys2Proof.Machine.execHoldOrder rq ref s
  | .resumeOrder rq ref => Sys2Proof.Machine.execResumeOrder rq ref s
  | .cancelOrder rq ref => Sys2Proof.Machine.execCancelOrder rq ref s
  | .retireOrder rq ref => Sys2Proof.Machine.execRetireOrder rq ref s
  | .declareShort rq ref line => Sys2Proof.Machine.execDeclareShort rq ref line s
  | .restoreLine rq ref line => Sys2Proof.Machine.execRestoreLine rq ref line s
  | .closeLine rq ref line => Sys2Proof.Machine.execCloseLine rq ref line s
  | .getOrder rq ref => Sys2Proof.Machine.execGetOrder rq ref s
  | .listOrders rq states overdue late => Sys2Proof.Machine.execListOrders rq states overdue late s
  | .setTemplate rq number plan => Sys2Proof.Machine.execSetTemplate rq number plan s
  | .setBenchProfile rq bench chilled heavy largest items vu => Sys2Proof.Machine.execSetBenchProfile rq bench chilled heavy largest items vu s
  | .setCommonPool rq items vu => Sys2Proof.Machine.execSetCommonPool rq items vu s
  | .setCommonCap rq bench items vu => Sys2Proof.Machine.execSetCommonCap rq bench items vu s
  | .setLaneProfile rq lane vector => Sys2Proof.Machine.execSetLaneProfile rq lane vector s
  | .setAdmissionSchedule rq entries => Sys2Proof.Machine.execSetAdmissionSchedule rq entries s
  | .setLoop rq capacity lapLimit => Sys2Proof.Machine.execSetLoop rq capacity lapLimit s
  | .setTimers rq dwell shortage placement restart => Sys2Proof.Machine.execSetTimers rq dwell shortage placement restart s
  | .setSubstitutionGroup rq group count skus => Sys2Proof.Machine.execSetSubstitutionGroup rq group count skus s
  | .setRushFloor rq floor => Sys2Proof.Machine.execSetRushFloor rq floor s
  | .setDispatchLane rq lane capacity matchCount => Sys2Proof.Machine.execSetDispatchLane rq lane capacity matchCount s
  | .setLateLane rq lane => Sys2Proof.Machine.execSetLateLane rq lane s
  | .cageSwapped rq lane => Sys2Proof.Machine.execCageSwapped rq lane s
  | .getItem rq tag => Sys2Proof.Machine.execGetItem rq tag s
  | .getBench rq bench => Sys2Proof.Machine.execGetBench rq bench s
  | .getStaging rq bench => Sys2Proof.Machine.execGetStaging rq bench s
  | .setFaultMap rq count entries action0 action1 action2 => Sys2Proof.Machine.execSetFaultMap rq count entries action0 action1 action2 s
  | .setCounterSelect rq counter codes => Sys2Proof.Machine.execSetCounterSelect rq counter codes s
  | .getFaultRecords rq severity => Sys2Proof.Machine.execGetFaultRecords rq severity s
  | .clearFaultRecords rq severity => Sys2Proof.Machine.execClearFaultRecords rq severity s
  | .getCounters rq => Sys2Proof.Machine.execGetCounters rq s
  | .clearCounter rq counter => Sys2Proof.Machine.execClearCounter rq counter s
  | .setNoticeEnable rq flags => Sys2Proof.Machine.execSetNoticeEnable rq flags s
  | .setAttentionPolarity rq polarity => Sys2Proof.Machine.execSetAttentionPolarity rq polarity s
  | .getNotices rq => Sys2Proof.Machine.execGetNotices rq s
  | .acknowledgeNotices rq flags => Sys2Proof.Machine.execAcknowledgeNotices rq flags s
  | .arrival addr body => Sys2Proof.Machine.execArrival addr body s
  | .mergeReady hd => Sys2Proof.Machine.execMergeReady hd s
  | .divertDone hd tag point => Sys2Proof.Machine.execDivertDone hd tag point s
  | .loopPass hd tag => Sys2Proof.Machine.execLoopPass hd tag s
  | .delivered hd tag point => Sys2Proof.Machine.execDelivered hd tag point s
  | .releaseFailed hd tag => Sys2Proof.Machine.execReleaseFailed hd tag s
  | .benchOpen hd => Sys2Proof.Machine.execBenchOpen hd s
  | .benchClose hd => Sys2Proof.Machine.execBenchClose hd s
  | .baseFitted hd => Sys2Proof.Machine.execBaseFitted hd s
  | .pocketFitted hd => Sys2Proof.Machine.execPocketFitted hd s
  | .placed hd tag => Sys2Proof.Machine.execPlaced hd tag s
  | .placeRefused hd tag reason => Sys2Proof.Machine.execPlaceRefused hd tag reason s
  | .returned hd tag => Sys2Proof.Machine.execReturned hd tag s
  | .pulled hd tag => Sys2Proof.Machine.execPulled hd tag s
  | .hamperSealed hd => Sys2Proof.Machine.execHamperSealed hd s
  | .hamperOut hd => Sys2Proof.Machine.execHamperOut hd s
  | .unpacked hd => Sys2Proof.Machine.execUnpacked hd s
  | .admitHead => Sys2Proof.Machine.execAdmitHead s
  | .binding => Sys2Proof.Machine.execBinding s
  | .placeItem bench => Sys2Proof.Machine.execPlaceItem bench s
  | .sealHamper bench => Sys2Proof.Machine.execSealHamper bench s
  | .bufferRelease => Sys2Proof.Machine.execBufferRelease s
  | .hamperRelease lane => Sys2Proof.Machine.execHamperRelease lane s
  | .requestQueued bytes => Sys2Proof.Machine.execRequestQueued bytes s
  | .transmitterFree => Sys2Proof.Machine.execTransmitterFree s
  | .misaddressedRecord addr kind => Sys2Proof.Machine.execMisaddressedRecord addr kind s

end Sys2Proof.Machine
end

