-- ==== Sys2Proof/Machine/Bodies.lean ====
section
/-! DEFINITION. The bodies that the part sends, field by field (R197): replies and records out, and the frames that carry them (R190, R195, R198, R199). What the spec says of a field is exact: its bytes least significant first, all ones where it is absent, the codes of class and zone, the sets of 2 and 3 bytes, and a width that chapter 11.7 gives it. The order of the fields, the other widths, the other codes and what stands before the entries of a list stand free (log entries 7, 39). -/

namespace Sys2Proof.Machine

open Sys2Proof

/-- The bodies, and the parts of bodies, that the part sends: a key for what the spec leaves free of each. -/
inductive Layout where
  | identity | cellStatus | setup | cellState | causes | clock | waveState | unsealed | waves | wave | order | line | orders
  | orderEntry | timers | group | rushFloor | lateLane | cageCount | dispatchLane | holding | item | loop | lane | queue
  | benches | bench | hamper | zone | slots | places | templates | template | staging | releases | chute | mapEntry | actions
  | counter | polarity | notices | reject | route | bufferRelease | release
  deriving DecidableEq, Repr

end Sys2Proof.Machine

/-- FREE VALUE (log entry 7): the bytes that field `k` of a layout has beyond those its range needs, where the spec gives
no width. -/
opaque Sys2Proof.Config.fieldExtra (l : Sys2Proof.Machine.Layout) (k : Nat) : Nat

/-- FREE VALUE (log entry 7): the number that stands for a value of field `k` of a layout, where the spec gives no code. -/
opaque Sys2Proof.Config.fieldCode {α : Type} (l : Sys2Proof.Machine.Layout) (k : Nat) (x : α) : Nat

/-- FREE VALUE (log entry 7): the order of the fields of a layout. -/
opaque Sys2Proof.Config.fieldOrder (l : Sys2Proof.Machine.Layout) (k : Nat) : Nat

/-- FREE VALUE (log entry 7): what stands before the entries of a list of `n`. -/
opaque Sys2Proof.Config.listHead (l : Sys2Proof.Machine.Layout) (n : Nat) : List Sys2Proof.Byte

namespace Sys2Proof.Machine

open Sys2Proof

/-! ### Fields (R197) -/

/-- The members of a list in an order that `pick` decides. -/
def arrange {α : Type} (pick : Nat → Nat) : List α → List α
  | [] => []
  | x :: xs => (arrange pick xs).insertIdx (pick xs.length % (xs.length + 1)) x

namespace Layout

/-- R197: a number whose width the spec does not give, least significant byte first, in the `least` bytes that its range
needs or more, and all ones where it is absent. -/
def numOpt (l : Layout) (k : Nat) (v : Option Nat) (least : Nat := 1) : List Byte :=
  leBytesOpt (least + Config.fieldExtra l k) v

def num (l : Layout) (k n : Nat) (least : Nat := 1) : List Byte := l.numOpt k (some n) least

/-- R197: a field that holds one of the values of a type for which the spec gives no codes. -/
def codedOpt {α : Type} (l : Layout) (k : Nat) (x : Option α) : List Byte := l.numOpt k (x.map (Config.fieldCode l k))

def coded {α : Type} (l : Layout) (k : Nat) (x : α) : List Byte := l.codedOpt k (some x)

/-- R197: the fields of a layout, one after another. -/
def fields (l : Layout) (fs : List (List Byte)) : List Byte := (arrange (Config.fieldOrder l) fs).flatten

/-- The entries of a list, in their order. -/
def list {α : Type} (l : Layout) (f : α → List Byte) (xs : List α) : List Byte :=
  Config.listHead l xs.length ++ xs.flatMap f

end Layout

/-- R197, with the widths that R200 to R203 give (log entry 39): a tag, a SKU, a minute, an order reference; a field of
one byte (an order slot, a bench, a lane, a wave, a template, a priority, a required count, a group, a hamper slot). -/
def tagBytes (n : Nat) : List Byte := leBytes 2 n
def skuBytes (n : Nat) : List Byte := leBytes 3 n
def minuteBytes (n : Nat) : List Byte := leBytes 2 n
def minuteBytesOpt (n : Option Nat) : List Byte := leBytesOpt 2 n
def refBytes (n : Nat) : List Byte := leBytes 4 n
def smallBytes (n : Nat) : List Byte := leBytes 1 n
def smallBytesOpt (n : Option Nat) : List Byte := leBytesOpt 1 n

/-- R197, R200: a class in one byte. -/
def classBytes (c : ItemClass) : List Byte := leBytes 1 (classCode c)

/-- R197, R202: a zone in one byte, all ones where it is absent. -/
def zoneBytesOpt (z : Option Zone) : List Byte := leBytesOpt 1 (z.map Zone.code)

/-! ### The parts of a reply -/

/-- R40: a credit hold and an instruction without what stands beside it, and that beside it. -/
def Hold.kind : Hold → Hold
  | .none => .none
  | .chute _ => .chute 0
  | .common _ => .common 0
  | .both _ => .both 0

def Hold.bench? : Hold → Option Nat
  | .none => Option.none
  | .chute b | .common b | .both b => some b

def Outstanding.kind : Outstanding → Outstanding
  | .none => .none
  | .place _ => .place 0
  | .ret _ => .ret 0
  | .pull _ => .pull 0

def Outstanding.issued : Outstanding → Option Nat
  | .none => Option.none
  | .place m | .ret m | .pull m => some m

/-- R187. -/
def CellView.bytes (v : CellView) : List Byte :=
  let l : Layout := .cellStatus
  l.fields [l.coded 0 v.state, l.coded 1 v.committed, l.codedOpt 2 v.mode, minuteBytesOpt v.deadline, minuteBytes v.minute,
    l.coded 3 v.clockSet, l.coded 4 v.quiet, l.num 5 v.occupancy, l.num 6 v.releases, l.num 7 v.outstanding 2,
    l.num 8 v.templates, l.num 9 v.waves]

/-- R36: one entry of Get Wave; the lane and the cutoff of an UNUSED wave are absent. -/
def WaveView.bytes (v : WaveView) : List Byte :=
  let l : Layout := .wave
  l.fields [smallBytes v.wave.number, l.coded 0 v.wave.state, l.numOpt 1 v.wave.lane, minuteBytesOpt v.wave.cutoff,
    l.num 2 v.refs, l.num 3 v.unsealed]

/-- R3: a line record with its number. -/
def Line.bytes (number : Nat) (x : Line) : List Byte :=
  let l : Layout := .line
  l.fields [l.num 0 number, skuBytes x.sku, classBytes x.cls, smallBytes x.required, l.num 1 x.committed, l.num 2 x.placed,
    l.num 3 x.substituted, smallBytes x.group, l.coded 4 x.state, l.coded 5 x.shortMark, minuteBytes x.lastProgress]

/-- R2, R4, R23: an order record with its age, and its line records in line order. -/
def Order.bytes (age : Nat) (o : Order) : List Byte :=
  let l : Layout := .order
  l.fields [smallBytes o.slot, refBytes o.ref, l.num 0 o.loadSeq 2, l.num 1 age 2, smallBytes o.priority, smallBytes o.wave,
    smallBytes o.template, l.coded 2 o.state, l.coded 3 o.held, smallBytesOpt o.bench, l.coded 4 (o.overdue, o.late),
    l.codedOpt 5 o.topGate, l.coded 6 o.fragileBegun, l.num 7 o.withdrawals, minuteBytesOpt o.sealMinute,
    l.numOpt 8 o.dispatchLane] ++
    Layout.line.list (fun x => Line.bytes x.1 x.2) (o.lines.mapIdx (fun k x => (k + 1, x)))

/-- R23: one entry of List Orders. -/
def OrderEntry.bytes (e : OrderEntry) : List Byte :=
  let l : Layout := .orderEntry
  l.fields [smallBytes e.slot, refBytes e.ref, l.coded 0 e.state, l.coded 1 e.held, l.coded 2 (e.overdue, e.late)]

/-- R160: a dispatch lane record; each entry of its holding list gives a bench and its order slot. -/
def DispatchLane.bytes (d : DispatchLane) : List Byte :=
  let l : Layout := .dispatchLane
  l.fields [l.num 0 d.capacity, l.num 1 d.count, l.num 2 d.inFlight, l.num 3 d.matchCount, l.coded 4 d.full,
    Layout.holding.list (fun e => Layout.holding.fields [smallBytes e.1, smallBytes e.2]) d.holding]

/-- R40, R43: an item record; every field of an absent allocation is absent. -/
def Item.bytes (i : Item) : List Byte :=
  let l : Layout := .item
  l.fields [tagBytes i.tag, skuBytes i.sku, classBytes i.cls, leBytes 2 i.mass, l.num 0 i.vu 2, smallBytes i.lane,
    minuteBytesOpt i.chillExit, minuteBytesOpt i.deadline, l.coded 1 i.expired, l.coded 2 i.location,
    smallBytesOpt i.locBench, smallBytesOpt i.withdrawal, l.num 3 i.laps, l.codedOpt 4 i.dest,
    smallBytesOpt (i.alloc.map (·.slot)), l.numOpt 5 (i.alloc.map (·.line)), smallBytesOpt (i.alloc.map (·.bench)),
    l.numOpt 6 (i.alloc.map (·.rank)), zoneBytesOpt (i.alloc.map (·.zone)), smallBytesOpt (i.alloc.map (·.slotNo)),
    l.coded 7 i.wait, l.coded 8 i.hold.kind, smallBytesOpt i.hold.bench?, l.coded 9 i.outstanding.kind,
    minuteBytesOpt i.outstanding.issued, l.num 10 i.entrySeq 4]

/-- R43: the signal, the bench vector and the queue of one lane. -/
def Lane.bytes (x : Lane) : List Byte :=
  let l : Layout := .lane
  l.fields [l.coded 0 x.signal, l.coded 1 x.vector, Layout.queue.list tagBytes x.queue]

/-- R43: the loop and lane summary. -/
def LoopView.bytes (v : LoopView) : List Byte :=
  let l : Layout := .loop
  l.fields [l.num 0 v.items 2, l.num 1 v.occupancy, l.num 2 v.capacity, l.num 3 v.lapLimit, l.coded 4 v.mergeFree,
    l.num 5 v.pointer] ++ v.lanes.flatMap Lane.bytes

/-- R133: one zone of a hamper with its first slot number. -/
def ZoneRec.bytes (first : Nat) (z : ZoneRec) : List Byte :=
  let l : Layout := .zone
  l.fields [smallBytes first, l.num 0 z.slots.length, l.num 1 z.templateCapacity 2, l.num 2 z.capacity 2, l.coded 3 z.clamped,
    l.num 4 z.committed 2, Layout.slots.list (fun x => Layout.slots.coded 0 x) z.slots]

/-- R133: one entry of a placement list. -/
def PlaceView.bytes (p : PlaceView) : List Byte :=
  Layout.places.fields [tagBytes p.tag, minuteBytesOpt p.issued, Layout.places.coded 0 p.timedOut]

/-- R133: the hamper of a bench: its zones in the order BASE, MIDDLE, TOP, POCKET, and its placement list. -/
def Hamper.bytes (firsts : List Nat) (places : List PlaceView) (h : Hamper) : List Byte :=
  let l : Layout := .hamper
  l.fields [smallBytes h.template, l.num 0 h.massLimit 2, l.num 1 h.mass 2,
    (firsts.zip [h.base, h.middle, h.top, h.pocketZone]).flatMap (fun e => ZoneRec.bytes e.1 e.2),
    l.coded 2 h.baseClosed, l.coded 3 h.pocket, Layout.places.list PlaceView.bytes places]

/-- R108, R133: one bench, with its hamper where it has one. -/
def BenchView.bytes (v : BenchView) : List Byte :=
  let l : Layout := .bench
  l.fields [smallBytes v.bench.number, l.coded 0 v.bench.state, l.coded 1 v.bench.staffed, l.coded 2 v.bench.stalled,
    l.coded 3 v.bench.chilledCapable, l.coded 4 v.bench.heavyCapable, l.num 5 v.bench.largestSize,
    smallBytesOpt v.bench.orderSlot, l.coded 6 v.bench.unpacked,
    Layout.hamper.list (Hamper.bytes v.firstSlots v.places) v.bench.hamper.toList]

/-- R112, R133: whether a template is defined, and its fields if it is. -/
def Template.bytes (t : Template) : List Byte :=
  let l : Layout := .template
  l.coded 0 t.plan.isSome ++
    t.plan.toList.flatMap (fun p => l.fields [l.num 1 p.sizeClass, l.num 2 p.massLimit 2, l.num 3 p.base.slots,
      l.num 4 p.base.capacity 2, l.num 5 p.middle.slots, l.num 6 p.middle.capacity 2, l.num 7 p.top.slots,
      l.num 8 p.top.capacity 2, l.num 9 p.pocket.slots, l.num 10 p.pocket.capacity 2])

/-- R106: one bench of Get Staging. -/
def ChuteView.bytes (v : ChuteView) : List Byte :=
  let l : Layout := .chute
  l.fields [l.num 0 v.chute.reserveItems, l.num 1 v.chute.reserveVu 2, l.num 2 v.chute.freeItems, l.num 3 v.chute.freeVu 2,
    l.num 4 v.chute.capItems, l.num 5 v.chute.capVu 2, l.num 6 v.chute.heldItems, l.num 7 v.chute.heldVu 2, l.num 8 v.staged,
    l.num 9 v.stagedReady]

/-- R106. -/
def StagingView.bytes (v : StagingView) : List Byte :=
  let l : Layout := .staging
  l.fields [l.num 0 v.pool.items, l.num 1 v.pool.vu 2, l.num 2 v.pool.freeItems, l.num 3 v.pool.freeVu 2, l.num 4 v.outbound 2,
    Layout.releases.list (fun e => Layout.releases.fields [tagBytes e.1, Layout.releases.coded 0 e.2]) v.releases,
    smallBytes v.pointer, l.num 5 v.heldBack 2] ++ v.chutes.flatMap ChuteView.bytes

/-- R172: one kind of the fault map. -/
def MapEntry.bytes (e : MapEntry) : List Byte :=
  Layout.mapEntry.fields [Layout.mapEntry.coded 0 e.enabled, Layout.mapEntry.num 1 e.severity]

/-- R174, R203: the two record places of a severity, as Get Fault Records carries them. -/
def SeverityView.bytes (v : SeverityView) : List Byte := faultRecordBytes v.first ++ faultRecordBytes v.latest

/-- R173: one counter, its select set in 3 bytes. -/
def Counter.bytes (c : Counter) : List Byte :=
  let l : Layout := .counter
  l.fields [l.num 0 c.value, l.coded 1 c.overflow, kindSetBytes c.select]

/-- R193: the pending set and the enables in 2 bytes each, the mark, the polarity and whether the line is asserted. -/
def NoticeView.bytes (v : NoticeView) : List Byte :=
  let l : Layout := .notices
  l.fields [noticeSetBytes v.pending, noticeSetBytes v.enables, l.coded 0 v.mark, l.coded 1 v.polarity, l.coded 2 v.asserted]

/-! ### Replies -/

/-- R197: the fields of a reply after its status, those that the rule of its request names. -/
def ReplyBody.bytes : ReplyBody → List Byte
  | .none => []
  | .slot n => smallBytes n
  | .identity vendor part revision =>
    Layout.identity.fields [Layout.identity.num 0 vendor 2, Layout.identity.num 1 part 2, Layout.identity.num 2 revision]
  | .cellStatus v => v.bytes
  | .setup clockSet templateCount waveCount =>
    Layout.setup.fields [Layout.setup.coded 0 clockSet, Layout.setup.num 1 templateCount, Layout.setup.num 2 waveCount]
  | .cellState c => Layout.cellState.coded 0 c
  | .deadline minute => minuteBytes minute
  | .causes c => Layout.causes.coded 0 c
  | .clock minute isSet => Layout.clock.fields [minuteBytes minute, Layout.clock.coded 0 isSet]
  | .waveState w => Layout.waveState.coded 0 w
  | .unsealed n => Layout.unsealed.num 0 n
  | .waves minute isSet entries =>
    Layout.waves.fields [minuteBytes minute, Layout.waves.coded 0 isSet] ++ Layout.waves.list WaveView.bytes entries
  | .order o age => o.bytes age
  | .orders entries => Layout.orders.list OrderEntry.bytes entries
  | .timers t =>
    Layout.timers.fields [Layout.timers.num 0 t.dwellBudget, Layout.timers.num 1 t.shortageLimit,
      Layout.timers.num 2 t.placementLimit, Layout.timers.num 3 t.restartWait]
  | .group skus => Layout.group.list skuBytes skus
  | .rushFloor n => Layout.rushFloor.num 0 n
  | .lateLane n => Layout.lateLane.num 0 n
  | .cageCount n => Layout.cageCount.num 0 n
  | .dispatchLane d => d.bytes
  | .item i => i.bytes
  | .loop v => v.bytes
  | .benches bs templates =>
    Layout.benches.list BenchView.bytes bs ++ templates.toList.flatMap (Layout.templates.list Template.bytes)
  | .staging v => v.bytes
  | .faultMap entries actions =>
    entries.flatMap MapEntry.bytes ++ actions.flatMap (fun a => Layout.actions.coded 0 a)
  | .kinds v => kindSetBytes v
  | .faultRecords rs seen => rs.flatMap SeverityView.bytes ++ kindSetBytes seen
  | .counters cs => cs.flatMap Counter.bytes
  | .counter value overflow => Layout.counter.fields [Layout.counter.num 2 value, Layout.counter.coded 3 overflow]
  | .noticeSet v => noticeSetBytes v
  | .polarity p => Layout.polarity.coded 0 p
  | .notices v => v.bytes

/-- R197: a reply body begins with the status code in one byte. -/
def Reply.bytes (r : Reply) : List Byte := leBytes 1 r.status.code ++ r.body.bytes

/-- R198: the bytes of a frame that the host link sends. -/
def HostFrame.bytes : HostFrame → List Byte
  | .reply tag kind r => hostFrameBytes tag kind r.bytes
  | .notice pending minute => noticeFrameBytes pending minute

/-- R198: the bytes of the host link's transmit pair so far, the frame being sent last. -/
def Link.line (l : Link) : List Byte := l.sent.flatMap HostFrame.bytes

/-! ### Records out (R190, R195, R199) -/

/-- R195, R197, R202: the body of a record that the part sends. One that carries nothing has an empty body. -/
def OutRecord.body : OutRecord → List Byte
  | .place tag zone slot => placeBody tag zone slot
  | .admitTag tag | .ret tag | .pull tag => tagBytes tag
  | .laneReject tag reason => Layout.reject.fields [tagBytes tag, Layout.reject.coded 0 reason]
  | .route tag point => Layout.route.fields [tagBytes tag, Layout.route.coded 0 point]
  | .bufferRelease tag point => Layout.bufferRelease.fields [tagBytes tag, Layout.bufferRelease.coded 0 point]
  | .fitBase template => smallBytes template
  | .release lane => Layout.release.num 0 lane
  | .laneHold | .laneGo | .fitPocket | .sealHamper | .unpack | .cellRestart => []

/-- R190, R195, R199: the frame of a record that the part sends: the address of the unit it is sent to, tag 0, the kind
code of the record and its body. -/
def outFrameBytes (u : FieldUnit) (r : OutRecord) : List Byte :=
  busFrameBytes u.address 0 (BitVec.ofNat 8 r.code) r.body

/-- R190: the bytes of the part's own pair so far: the frame of each record, in the order the records were made. -/
def Bus.line (b : Bus) : List Byte := b.sent.flatMap (fun e => outFrameBytes e.1 e.2)

end Sys2Proof.Machine
end

