-- ==== Sys2Proof/Safety.lean ====
section
/-! DEFINITION. What the claims are stated in: the settings of the part, the commands that change them, and the invariant that every step keeps. -/

namespace Sys2Proof.Machine

open Sys2Proof

/-! ### Settings (R185, the column of what a warm restart keeps) -/

/-- What the host sets: every setting of every block. -/
structure Settings where
  clockSet : Bool
  waves : List (Nat × Option Nat × Option Nat)
  vectors : List (Nat × BenchSet)
  schedule : List Nat
  loop : LoopSettings
  rushFloor : Nat
  staging : List (Nat × Nat × Nat × Nat × Nat)
  pool : Nat × Nat
  capabilities : List (Nat × Bool × Bool × Nat)
  templates : List Template
  timers : Timers
  groups : List Group
  cages : List (Nat × Nat × Nat)
  lateLane : Nat
  faultMap : List MapEntry
  actions : List (Nat × FaultAction)
  selects : List (Nat × KindSet)
  enables : NoticeSet
  polarity : Polarity
  committed : Bool
  deriving DecidableEq, Repr

/-- The settings of a state. -/
def State.settings (s : State) : Settings where
  clockSet := s.clock.isSet
  waves := s.waves.map (fun w => (w.number, w.lane, w.cutoff))
  vectors := s.lanes.map (fun l => (l.number, l.vector))
  schedule := s.admission.schedule
  loop := s.loop
  rushFloor := s.rushFloor
  staging := s.chutes.map (fun c => (c.bench, c.reserveItems, c.reserveVu, c.capItems, c.capVu))
  pool := (s.pool.items, s.pool.vu)
  capabilities := s.benches.map (fun x => (x.number, x.chilledCapable, x.heavyCapable, x.largestSize))
  templates := s.templates
  timers := s.timers
  groups := s.groups
  cages := s.dispatch.map (fun d => (d.number, d.capacity, d.matchCount))
  lateLane := s.lateLane
  faultMap := s.faults.map
  actions := s.faults.severities.map (fun v => (v.number, v.action))
  selects := s.faults.counters.map (fun c => (c.number, c.select))
  enables := s.notices.enables
  polarity := s.notices.polarity
  committed := s.cell.committed

/-- The commands that change a setting: power-up and the requests that set one. -/
def configures : Instr → Bool
  | .powerUp | .commitSetup _ | .setClock _ _ | .setWave _ _ _ _ | .setTemplate _ _ _
  | .setBenchProfile _ _ _ _ _ _ _ | .setCommonPool _ _ _ | .setCommonCap _ _ _ _ | .setLaneProfile _ _ _
  | .setAdmissionSchedule _ _ | .setLoop _ _ _ | .setTimers _ _ _ _ _ | .setSubstitutionGroup _ _ _ _
  | .setRushFloor _ _ | .setDispatchLane _ _ _ _ | .setLateLane _ _ | .setFaultMap _ _ _ _ _ _
  | .setCounterSelect _ _ _ | .setNoticeEnable _ _ | .setAttentionPolarity _ _ => true
  | .minuteTick | .clockLimit | .waveCut _ | .dwellExpired _ | .shortagePass | .placeTimeout _ | .restartForced
  | .boundaryRestart | .drainComplete | .linkFrame _ | .linkByteGap | .cellBusFrame _ | .cellBusByteGap
  | .unknownKind _ _ | .busy _ | .noticeFrame | .getIdentity _ | .getCellStatus _ | .startCell _ | .pauseCell _
  | .stopCell _ | .clearHalt _ | .restartCellImmediate _ | .restartCellAtBoundary _ | .getRestartCauses _
  | .clearRestartCauses _ | .departWave _ _ | .getWave _ _ | .loadOrder _ _ | .setQuantity _ _ _ _
  | .addLine _ _ _ _ _ _ | .removeLine _ _ _ | .setPriority _ _ _ | .amendSetWave _ _ _ | .holdOrder _ _
  | .resumeOrder _ _ | .cancelOrder _ _ | .retireOrder _ _ | .declareShort _ _ _ | .restoreLine _ _ _
  | .closeLine _ _ _ | .getOrder _ _ | .listOrders _ _ _ _ | .cageSwapped _ _ | .getItem _ _ | .getBench _ _
  | .getStaging _ _ | .getFaultRecords _ _ | .clearFaultRecords _ _ | .getCounters _ | .clearCounter _ _
  | .getNotices _ | .acknowledgeNotices _ _ | .arrival _ _ | .mergeReady _ | .divertDone _ _ _ | .loopPass _ _
  | .delivered _ _ _ | .releaseFailed _ _ | .benchOpen _ | .benchClose _ | .baseFitted _ | .pocketFitted _
  | .placed _ _ | .placeRefused _ _ _ | .returned _ _ | .pulled _ _ | .hamperSealed _ | .hamperOut _ | .unpacked _
  | .admitHead | .binding | .placeItem _ | .sealHamper _ | .bufferRelease | .hamperRelease _ | .requestQueued _
  | .transmitterFree | .misaddressedRecord _ _ => false

/-! ### The invariant -/

/-- What holds of the part at power-up and is kept by every step: the tables hold one entry per number in their order,
every queue and list stays within its room, every counter within its range. -/
structure State.Inv (s : State) : Prop where
  /-- R28. -/
  waveKeys : s.waves.map Wave.number = upTo 8
  /-- R28: lane and cutoff are absent while UNUSED. -/
  waveFields : ∀ w ∈ s.waves, (w.state = .unused ↔ w.lane = none) ∧ (w.state = .unused ↔ w.cutoff = none)
  /-- R44. -/
  laneKeys : s.lanes.map Lane.number = upTo 6
  /-- R44: a lane queue holds at most 4 tags. -/
  queues : ∀ l ∈ s.lanes, l.queue.length ≤ 4
  /-- R85. -/
  chuteKeys : s.chutes.map Chute.bench = upTo 12
  /-- R108. -/
  benchKeys : s.benches.map Bench.number = upTo 12
  /-- R120: a placement list holds at most 4 tags. -/
  places : ∀ x ∈ s.benches, ∀ h, x.hamper = some h → h.places.length ≤ 4
  /-- R112. -/
  templateKeys : s.templates.map Template.number = upTo 8
  /-- R141. -/
  groupKeys : s.groups.map Group.number = upTo 31
  /-- R152. -/
  dispatchKeys : s.dispatch.map DispatchLane.number = upTo 4
  /-- R165. -/
  mapKeys : s.faults.map.map MapEntry.kind = FaultKind.all
  /-- R166. -/
  severityKeys : s.faults.severities.map Severity.number = [0, 1, 2]
  /-- R169. -/
  counterKeys : s.faults.counters.map Counter.number = [1, 2]
  /-- R169: a counter holds at 127. -/
  counters : ∀ c ∈ s.faults.counters, c.value ≤ 127
  /-- R1: one order per slot, in rising slot. -/
  slots : s.book.orders.Pairwise (fun o p => o.slot < p.slot)
  /-- R1: 64 slots. -/
  slotRange : ∀ o ∈ s.book.orders, o.slot < 64
  /-- R4. -/
  loadSeq : s.book.loadSeq < 65536
  /-- R39: one record per tag, in rising tag. -/
  tags : s.items.Pairwise (fun i j => i.tag < j.tag)
  /-- R39: 320 records. -/
  tableRoom : s.items.length ≤ 320
  /-- R41. -/
  entries : s.entryCounter < 4294967296
  /-- R52. -/
  schedule : s.admission.schedule.length = 32
  /-- R52. -/
  pointer : s.admission.pointer < 32
  /-- R93: the release list holds at most 2 entries. -/
  releases : s.arbiter.releases.length ≤ 2
  /-- R93: the held-back set holds no tag twice. -/
  heldBack : s.arbiter.heldBack.Pairwise (· < ·)
  /-- R95. -/
  benchPointer : 1 ≤ s.arbiter.pointer ∧ s.arbiter.pointer ≤ 12
  /-- R27. -/
  minute : s.clock.minute ≤ 65535
  /-- R176: the restart mode and deadline are present while RESTARTING and absent in every other state. -/
  restart : (s.cell.mode.isSome ↔ s.cell.state = .restarting) ∧ (s.cell.deadline.isSome ↔ s.cell.state = .restarting)
  /-- R192: the attention mark belongs to a pending FAULT_NOTICE. -/
  mark : s.notices.mark = true → flagIn s.notices.pending .faultNotice = true
  /-- R189: the receive queue holds up to 4 requests. -/
  requests : s.link.queue.length ≤ 4
  /-- R189: up to 4 BUSY replies wait. -/
  busyReplies : s.link.busyHold.length ≤ 4

/-! ### What lasts for the life of an order and of an item -/

/-- The table of chapter 1.3: the states an order may go to from each state. -/
def orderMoves : OrderState → List OrderState
  | .loaded => [.building, .held, .cancelled, .cancelling]
  | .building => [.held, .complete, .cancelling]
  | .held => [.building, .cancelling]
  | .complete => [.sealed, .cancelling]
  | .sealed => [.dispatched]
  | .cancelling => [.cancelled]
  | .dispatched | .cancelled => []

/-- One order state reached from another along the table of chapter 1.3, in any number of moves. -/
def OrderReaches (a b : OrderState) : Prop := Relation.ReflTransGen (fun x y => y ∈ orderMoves x) a b

/-- What the host gives a line: its SKU, class, required count and group (R3). -/
def Line.host (l : Line) : Nat × ItemClass × Nat × Nat := (l.sku, l.cls, l.required, l.group)

/-- What is the same of an order at a later time: what the host gave it, its slot and its load sequence; its marks and
its fragile begun field, which stay once set (R2, R12); its state, which has gone along the table (chapter 1.3). -/
structure OrderKept (o p : Order) : Prop where
  slot : p.slot = o.slot
  ref : p.ref = o.ref
  loadSeq : p.loadSeq = o.loadSeq
  priority : p.priority = o.priority
  wave : p.wave = o.wave
  template : p.template = o.template
  lines : p.lines.map Line.host = o.lines.map Line.host
  overdue : o.overdue = true → p.overdue = true
  late : o.late = true → p.late = true
  fragile : o.fragileBegun = true → p.fragileBegun = true
  state : OrderReaches o.state p.state

/-- What is the same of a tracked item at a later time: what its Arrival gave it (R46), and its expired flag, which
stays once set (R142). -/
structure ItemKept (i j : Item) : Prop where
  tag : j.tag = i.tag
  sku : j.sku = i.sku
  cls : j.cls = i.cls
  mass : j.mass = i.mass
  vu : j.vu = i.vu
  lane : j.lane = i.lane
  chillExit : j.chillExit = i.chillExit
  deadline : j.deadline = i.deadline
  expired : i.expired = true → j.expired = true

/-! ### The cell states (chapter 10) -/

/-- The moves of the cell that a halt request makes at any command (R182). -/
def commonCellMoves : List (CellState × CellState) :=
  [(.ready, .halted), (.running, .halted), (.paused, .halted), (.draining, .halted)]

/-- The moves of the cell on the quiet condition (R181, R184): a DRAINING cell becomes READY, and a RESTARTING cell makes
its warm restart, after which a fault of the same command may halt it. -/
def quietCellMoves : List (CellState × CellState) :=
  [(.draining, .ready), (.restarting, .ready), (.restarting, .setup), (.restarting, .halted)]

/-! ### What the claims call a thing -/

/-- R188, R190: what the frames that end in a run of bytes end as, the first of them begun as `a` has it. -/
def framesIn (low high : Nat) : Assembly → List Byte → List FrameEnd
  | _, [] => []
  | a, b :: bs =>
    let r := rxByte low high a b
    r.2.toList ++ framesIn low high r.1 bs

/-- R164 to R169: the Fault Monitor after one report of a kind with its context and detail. -/
def State.reported (s : State) (k : FaultKind) (c : FaultCtx) (d : Nat) : FaultMonitor :=
  match s.faults.entry? k with
  | none => s.faults
  | some e => if e.enabled then s.faults.logged ⟨k, s.clock.minute, c, d⟩ e.severity else s.faults

/-- R189, R194: the head of a host request and the kind code it is carried under. -/
def requestOf : Instr → Option (ReqHead × Byte)
  | .getIdentity rq => some (rq, 0x01)
  | .getCellStatus rq => some (rq, 0x02)
  | .commitSetup rq => some (rq, 0x03)
  | .startCell rq => some (rq, 0x04)
  | .pauseCell rq => some (rq, 0x05)
  | .stopCell rq => some (rq, 0x06)
  | .clearHalt rq => some (rq, 0x07)
  | .restartCellImmediate rq | .restartCellAtBoundary rq => some (rq, 0x08)
  | .getRestartCauses rq => some (rq, 0x09)
  | .clearRestartCauses rq => some (rq, 0x0A)
  | .setClock rq _ => some (rq, 0x10)
  | .setWave rq _ _ _ => some (rq, 0x11)
  | .departWave rq _ => some (rq, 0x12)
  | .getWave rq _ => some (rq, 0x13)
  | .loadOrder tag body => some (⟨tag, loadLengthOk body, true⟩, 0x20)
  | .setQuantity rq _ _ _ | .addLine rq _ _ _ _ _ | .removeLine rq _ _ | .setPriority rq _ _
  | .amendSetWave rq _ _ => some (rq, 0x21)
  | .holdOrder rq _ => some (rq, 0x22)
  | .resumeOrder rq _ => some (rq, 0x23)
  | .cancelOrder rq _ => some (rq, 0x24)
  | .retireOrder rq _ => some (rq, 0x25)
  | .declareShort rq _ _ => some (rq, 0x26)
  | .restoreLine rq _ _ => some (rq, 0x27)
  | .closeLine rq _ _ => some (rq, 0x28)
  | .getOrder rq _ => some (rq, 0x29)
  | .listOrders rq _ _ _ => some (rq, 0x2A)
  | .setTemplate rq _ _ => some (rq, 0x30)
  | .setBenchProfile rq _ _ _ _ _ _ => some (rq, 0x31)
  | .setCommonPool rq _ _ => some (rq, 0x32)
  | .setCommonCap rq _ _ _ => some (rq, 0x33)
  | .setLaneProfile rq _ _ => some (rq, 0x34)
  | .setAdmissionSchedule rq _ => some (rq, 0x35)
  | .setLoop rq _ _ => some (rq, 0x36)
  | .setTimers rq _ _ _ _ => some (rq, 0x37)
  | .setSubstitutionGroup rq _ _ _ => some (rq, 0x38)
  | .setRushFloor rq _ => some (rq, 0x39)
  | .setDispatchLane rq _ _ _ => some (rq, 0x3A)
  | .setLateLane rq _ => some (rq, 0x3B)
  | .cageSwapped rq _ => some (rq, 0x40)
  | .getItem rq _ => some (rq, 0x41)
  | .getBench rq _ => some (rq, 0x42)
  | .getStaging rq _ => some (rq, 0x43)
  | .setFaultMap rq _ _ _ _ _ => some (rq, 0x50)
  | .setCounterSelect rq _ _ => some (rq, 0x51)
  | .getFaultRecords rq _ => some (rq, 0x52)
  | .clearFaultRecords rq _ => some (rq, 0x53)
  | .getCounters rq => some (rq, 0x54)
  | .clearCounter rq _ => some (rq, 0x55)
  | .setNoticeEnable rq _ => some (rq, 0x58)
  | .setAttentionPolarity rq _ => some (rq, 0x59)
  | .getNotices rq => some (rq, 0x5A)
  | .acknowledgeNotices rq _ => some (rq, 0x5B)
  | .powerUp | .minuteTick | .clockLimit | .waveCut _ | .dwellExpired _ | .shortagePass | .placeTimeout _
  | .restartForced | .boundaryRestart | .drainComplete | .linkFrame _ | .linkByteGap | .cellBusFrame _
  | .cellBusByteGap | .unknownKind _ _ | .busy _ | .noticeFrame | .arrival _ _ | .mergeReady _ | .divertDone _ _ _
  | .loopPass _ _ | .delivered _ _ _ | .releaseFailed _ _ | .benchOpen _ | .benchClose _ | .baseFitted _
  | .pocketFitted _ | .placed _ _ | .placeRefused _ _ _ | .returned _ _ | .pulled _ _ | .hamperSealed _
  | .hamperOut _ | .unpacked _ | .admitHead | .binding | .placeItem _ | .sealHamper _ | .bufferRelease
  | .hamperRelease _ | .requestQueued _ | .transmitterFree | .misaddressedRecord _ _ => none

/-- R189: a request that is handed to its owner, with a body of the right length. -/
def State.Takes (s : State) (c : Instr) : Prop :=
  match requestOf c with
  | some (rq, kind) => s.inTurn rq.tag kind c = true ∧ rq.lengthOk = true
  | none => False

/-- R13: a request that names an order in the book by its reference. -/
def State.Names (s : State) (c : Instr) (ref : Nat) (o : Order) : Prop :=
  s.Takes c ∧ 1 ≤ ref ∧ ref ≤ 4294967294 ∧ s.orderOf? ref = some o

/-- R13: an order request: whether its fields are in their ranges, the reference it names, and the order states in which
it is allowed. -/
def orderRequestOf : Instr → Option (Bool × Nat × (OrderState → Bool))
  | .setQuantity rq r n q => some (rq.valueOk && lineNumberOk n && inRange 1 12 q, r, openOrder)
  | .addLine rq r k c q g => some (rq.valueOk && lineFieldsOk k c q g, r, openOrder)
  | .removeLine rq r n => some (rq.valueOk && lineNumberOk n, r, openOrder)
  | .setPriority rq r p => some (rq.valueOk && inRange 0 3 p, r, openOrder)
  | .amendSetWave rq r w => some (rq.valueOk && inRange 1 8 w, r, openOrder)
  | .holdOrder _ r | .resumeOrder _ r => some (true, r, openOrder)
  | .cancelOrder _ r => some (true, r, fun st => !(st == .sealed || st == .dispatched))
  | .retireOrder _ r => some (true, r, fun st => st == .dispatched || st == .cancelled)
  | .declareShort _ r n | .restoreLine _ r n | .closeLine _ r n => some (lineNumberOk n, r, openOrder)
  | .getOrder _ r => some (true, r, fun _ => true)
  | _ => none

/-- The book with the order in o's slot replaced by o. -/
def State.withOrder (s : State) (o : Order) : State :=
  { s with book := { s.book with orders := s.book.orders.map (fun p => if p.slot = o.slot then o else p) } }

/-- The order with line n replaced. -/
def Order.withLine (o : Order) (n : Nat) (l : Line) : Order := { o with lines := o.lines.set (n - 1) l }

/-- The part with one more record sent on the cell bus. -/
def State.withSent (s : State) (u : FieldUnit) (r : OutRecord) : State :=
  { s with bus := { s.bus with sent := s.bus.sent ++ [(u, r)] } }

/-- R57 to R60, R90: the bench of the chute credits that a hold names, and that of its common credits. -/
def Hold.chuteAt : Hold → Option Nat
  | .chute b | .both b => some b
  | .none | .common _ => Option.none

def Hold.commonAt : Hold → Option Nat
  | .common b | .both b => some b
  | .none | .chute _ => Option.none

/-- R85, R86, R91: 1 item and `vu` returned to the chute of one bench, and to the pool from the holding of another. -/
def State.credited (s : State) (vu : Nat) (chute common : Option Nat) : State :=
  { s with
    pool := if common = none then s.pool else
      { s.pool with freeItems := s.pool.freeItems + 1, freeVu := s.pool.freeVu + vu }
    chutes := s.chutes.map (fun c =>
      { c with
        freeItems := if chute = some c.bench then c.freeItems + 1 else c.freeItems
        freeVu := if chute = some c.bench then c.freeVu + vu else c.freeVu
        heldItems := if common = some c.bench then c.heldItems - 1 else c.heldItems
        heldVu := if common = some c.bench then c.heldVu - vu else c.heldVu }) }

/-- R195: the address and the kind code of a field record. -/
def recordOf : Instr → Option (Byte × Nat)
  | .arrival addr _ => some (addr, 0x01)
  | .mergeReady hd => some (hd.addr, 0x10)
  | .divertDone hd _ _ => some (hd.addr, 0x11)
  | .loopPass hd _ => some (hd.addr, 0x12)
  | .delivered hd _ _ => some (hd.addr, 0x18)
  | .releaseFailed hd _ => some (hd.addr, 0x19)
  | .benchOpen hd => some (hd.addr, 0x20)
  | .benchClose hd => some (hd.addr, 0x21)
  | .baseFitted hd => some (hd.addr, 0x22)
  | .pocketFitted hd => some (hd.addr, 0x23)
  | .placed hd _ => some (hd.addr, 0x24)
  | .placeRefused hd _ _ => some (hd.addr, 0x25)
  | .returned hd _ => some (hd.addr, 0x26)
  | .pulled hd _ => some (hd.addr, 0x27)
  | .hamperSealed hd => some (hd.addr, 0x28)
  | .hamperOut hd => some (hd.addr, 0x29)
  | .unpacked hd => some (hd.addr, 0x2A)
  | _ => none

/-- R190: a record of a kind from a unit that sends it, with a body of the right length. -/
def RecFits (hd : RecHead) (kind : Nat) (u : FieldUnit) : Prop :=
  unitOf hd.addr = some u ∧ u.sends kind = true ∧ hd.lengthOk = true

/-- R181, R189: what a request answers whose owner has taken s to u: the quiet condition is judged, and the reply takes
its place. -/
def State.replies (s u : State) (rq : ReqHead) (kind : Byte) (st : Status) (b : ReplyBody) : Outcome :=
  .next ((State.judgeQuiet s u).answer rq.tag kind ⟨st, b⟩)

/-- R181: what an event answers whose handling has taken s to u: the quiet condition is judged. -/
def State.ends (s u : State) : Outcome := .next (State.judgeQuiet s u)

end Sys2Proof.Machine
end

