-- ==== Sys2Proof/Certificates/Slice0/Obligations.lean ====
section
/-! DEFINITION. The statements for the provers. Each says which rules of the spec it formalises; one that rests on a choice of the model names the log entry. -/

section

open Sys2Proof Sys2Proof.Machine

/-! ### The queue of commands, and the whole machine -/

/-- A step runs the command at the front of the queue on the state with the queue's rest; with no command waiting it
changes nothing (the model's choice, log entry 12). -/
def Obligations.StepRunsFrontCommand : Prop :=
  (∀ (s : State) (c : Instr) (cs : List Instr), s.pending = c :: cs → step s = exec c (s.withPending cs)) ∧
    ∀ s : State, s.pending = [] → step s = .next s

/-- Every command answers a next state, and leaves the queue of commands to the step. -/
def Obligations.EveryCommandAnswersNext : Prop :=
  ∀ (c : Instr) (s : State), ∃ t, exec c s = .next t ∧ t.pending = s.pending

/-- Every step keeps the invariant `State.Inv`. -/
def Obligations.EveryStepKeepsInvariant : Prop := ∀ s t : State, s.Inv → step s = .next t → t.Inv

/-- The part right after power-up meets the invariant. -/
def Obligations.PowerUpMeetsInvariant : Prop := State.reset.Inv

/-- No setting of the part is changed but by power-up and by the requests that set one: not by a tick, a record, an
order request, a fault or a warm restart (R185, what a warm restart keeps). -/
def Obligations.SettingsChangeOnlyByTheirRequests : Prop :=
  ∀ (c : Instr) (s t : State), configures c = false → exec c s = .next t → t.settings = s.settings

/-- Chapter 1.3: over any command but Load Order, every order in the book was there before, under the same slot,
reference, template and load sequence, its state reached along the table of moves, and its marks and fragile begun kept
once set (R2, R12). Over any command but an Amend Order besides, all that the host gave it is the same. -/
def Obligations.OrdersLastAndMoveAlongTheTable : Prop :=
  ∀ (c : Instr) (s t : State), s.Inv → exec c s = .next t → (∀ tag body, c ≠ .loadOrder tag body) →
    ∀ p ∈ t.book.orders, ∃ o ∈ s.book.orders,
      p.slot = o.slot ∧ p.ref = o.ref ∧ p.template = o.template ∧ p.loadSeq = o.loadSeq ∧
        OrderReaches o.state p.state ∧ (o.overdue = true → p.overdue = true) ∧ (o.late = true → p.late = true) ∧
        (o.fragileBegun = true → p.fragileBegun = true) ∧
        ((∀ rq r l n, c ≠ .setQuantity rq r l n) → (∀ rq r k l n g, c ≠ .addLine rq r k l n g) →
          (∀ rq r l, c ≠ .removeLine rq r l) → (∀ rq r p, c ≠ .setPriority rq r p) →
          (∀ rq r w, c ≠ .amendSetWave rq r w) → OrderKept o p)

/-- R40, R46, R142: over any command but an Arrival, and a run of cell bus bytes in which the frame of one ends, every
tracked item was tracked before, with the tag, SKU, class,
mass, VU, lane of origin, chill exit minute and dwell deadline its Arrival gave it, and expired once it was. -/
def Obligations.TrackedItemsKeepWhatArrivalGave : Prop :=
  ∀ (c : Instr) (s t : State), exec c s = .next t → (∀ a b, c ≠ .arrival a b) →
    (∀ bs, c = .cellBusFrame bs → ∀ addr tag body,
      FrameEnd.good (addr :: tag :: 0x01 :: body) ∉ framesIn 3 1027 s.bus.rx bs) →
    ∀ j ∈ t.items, ∃ i ∈ s.items, ItemKept i j

/-- R178: each change of the cell state leaves CELL_STATE pending, power-up aside. -/
def Obligations.CellStateChangeIsNotified : Prop :=
  ∀ (c : Instr) (s t : State), c ≠ .powerUp → exec c s = .next t → t.cell.state ≠ s.cell.state →
    flagIn t.notices.pending .cellState = true

/-- Chapter 10: the moves of the cell state, by the state it moves from and by the command. A halt request takes READY,
RUNNING, PAUSED and DRAINING to HALTED at any command (R182). The quiet condition takes DRAINING to READY, the cell being
quiet then, and RESTARTING to its warm restart, which empties the book and leaves READY or SETUP by the committed flag
(R181, R184); only a forced restart whose report halts the cell, and cell bus frames that follow the restart within one
run of bytes, can then find it HALTED. The other moves are those of the command's own table (R176, R179, R180, R183):
from SETUP an AT_BOUNDARY restart is made at once, and in RESTARTING it is refused. -/
def Obligations.CellMovesOnlyByTheTables : Prop :=
  ∀ (c : Instr) (s t : State), exec c s = .next t →
    let a := s.cell.state
    let b := t.cell.state
    let restarted : CellState := if s.cell.committed then .ready else .setup
    let framed : Prop := ∃ bs, c = .cellBusFrame bs
    b = a ∨ (b = .halted ∧ (a = .ready ∨ a = .running ∨ a = .paused ∨ a = .draining)) ∨
      (a = .draining ∧ b = .ready ∧ (framed ∨ t.quiet = true)) ∨
      (a = .restarting ∧ (∀ rq, c ≠ .restartCellAtBoundary rq) ∧ t.book = ⟨[], 0⟩ ∧ t.cell.mode = none ∧
        (t.cell.causes.boundary = true ∨ t.cell.causes.forced = true) ∧
        (b = restarted ∨ (b = .halted ∧ restarted = .ready ∧ (framed ∨ c = .minuteTick ∨ c = .restartForced)))) ∨
      match c with
      | .powerUp => b = .setup
      | .commitSetup _ => a = .setup ∧ b = .ready
      | .startCell _ => (a = .ready ∨ a = .paused) ∧ b = .running
      | .pauseCell _ => a = .running ∧ b = .paused
      | .stopCell _ => (a = .running ∨ a = .paused) ∧ (b = .draining ∨ (b = .ready ∧ t.quiet = true))
      | .clearHalt _ => a = .halted ∧ b = .paused
      | .restartCellImmediate _ => b = restarted ∧ t.book = ⟨[], 0⟩ ∧ t.items = []
      | .restartCellAtBoundary _ => a ≠ .restarting ∧
        ((a ≠ .setup ∧ b = .restarting) ∨ (b = restarted ∧ t.book = ⟨[], 0⟩ ∧ t.items = [] ∧ (a = .setup ∨ s.quiet = true)))
      | _ => False

/-- What changes by its own events alone: the hall minute and the clock-set flag by the minute tick, Set Clock and
power-up (R27); the load sequence counter by Load Order, but for power-up and a warm restart, which empty the book and
set it to 0 (R4, R26); a kind in the seen set leaves it by Clear Fault Records or power-up alone (R168). -/
def Obligations.ClockLoadCounterAndSeenSetChangeByTheirEvents : Prop :=
  ∀ (c : Instr) (s t : State), exec c s = .next t →
    (c ≠ .powerUp → c ≠ .minuteTick → (∀ rq m, c ≠ .setClock rq m) → t.clock = s.clock) ∧
    ((∀ tag body, c ≠ .loadOrder tag body) → t.book.loadSeq = s.book.loadSeq ∨ t.book = ⟨[], 0⟩) ∧
    (c ≠ .powerUp → (∀ rq v, c ≠ .clearFaultRecords rq v) → ∀ k : FaultKind,
      kindIn s.faults.seen k = true → kindIn t.faults.seen k = true)

/-! ### Power-up, restarts and the cell -/

/-- POWER_UP: the values that each chapter gives for power-up (R26, R27, R28, R61, R83, R107, R112, R134, R135, R141,
R162, R175, R176, R204). The values of the transmitter and the held BUSY replies are the model's choice (log entry
10). -/
def Obligations.PowerUpSetsInitialValues : Prop :=
  ∀ s : State, ∃ t, exec .powerUp s = .next t ∧ t.pending = s.pending ∧ t.clock = ⟨0, false⟩ ∧
    t.waves = (upTo 8).map (fun n => ⟨n, .unused, none, none⟩) ∧ t.book = ⟨[], 0⟩ ∧ t.items = [] ∧ t.entryCounter = 0 ∧
    t.lanes = (upTo 6).map (fun n => ⟨n, [], .go, BitVec.allOnes 12⟩) ∧
    t.admission.pointer = 0 ∧ t.admission.mergeFree = false ∧ t.admission.schedule.length = 32 ∧
    (∀ k < 30, t.admission.schedule[k]? = some (k % 6 + 1)) ∧ t.admission.schedule[30]? = some 0 ∧
    t.admission.schedule[31]? = some 0 ∧ t.loop = ⟨24, 4⟩ ∧ t.rushFloor = 0 ∧
    t.chutes = (upTo 12).map (fun n => ⟨n, 6, 300, 6, 300, 8, 400, 0, 0⟩) ∧ t.pool = ⟨32, 1600, 32, 1600⟩ ∧
    t.arbiter = ⟨[], [], 12⟩ ∧
    t.benches = (upTo 12).map (fun n => ⟨n, .closed, false, false, true, true, 4, none, false, none⟩) ∧
    t.templates = (upTo 8).map (fun n => ⟨n, none⟩) ∧ t.timers = ⟨40, 30, 5, 10⟩ ∧
    t.groups = (upTo 31).map (fun n => ⟨n, []⟩) ∧ t.dispatch = (upTo 4).map (fun n => ⟨n, 20, 0, 0, 0, false, []⟩) ∧
    t.lateLane = 4 ∧ t.faults.map = FaultKind.all.map (fun k => ⟨k, true, k.defaultSeverity⟩) ∧
    t.faults.severities =
      [⟨0, .logOnly, none, none⟩, ⟨1, .noticeAndAttention, none, none⟩, ⟨2, .halt, none, none⟩] ∧
    t.faults.seen = 0 ∧ t.faults.counters = [⟨1, 0, false, 0⟩, ⟨2, 0, false, 0⟩] ∧
    t.cell = ⟨.setup, false, none, none, ⟨true, false, false, false⟩⟩ ∧
    t.notices = ⟨0, BitVec.allOnes 11, false, false, .activeLow⟩ ∧ t.notices.asserted = false ∧
    t.notices.lineHigh = true ∧ t.link.queue = [] ∧ t.link.rx = none ∧ t.bus.rx = none ∧ t.link.tx = none ∧
    t.link.busyHold = []

/-- R185, with R26, R39, R61, R107, R134, R162, R186, R191, R204: what a warm restart of a cause leaves. Every setting and
the fault history stand; the volatile state is cleared; CELL_STATE alone is pending, and a Notice frame is due where one
was or where CELL_STATE is enabled; Cell Restart goes to the twenty units, and then Lane Go to each lane whose signal was
HOLD, so that every signal is GO. That the frame being sent and the BUSY replies that wait stand is the model's choice (log
entry 10), and so is that the commands waiting do (log entry 12). -/
def Obligations.WarmRestartClearsAndKeeps : Prop :=
  ∀ (s : State) (cause : Causes) (u : State), u = s.warmRestart cause →
    u.book = ⟨[], 0⟩ ∧ u.items = [] ∧ u.entryCounter = 0 ∧
    u.lanes = s.lanes.map (fun l => { l with queue := [], signal := .go }) ∧
    u.admission = { s.admission with pointer := 0, mergeFree := false } ∧
    u.chutes = s.chutes.map (fun c =>
      { c with freeItems := c.reserveItems, freeVu := c.reserveVu, heldItems := 0, heldVu := 0 }) ∧
    u.pool = ⟨s.pool.items, s.pool.vu, s.pool.items, s.pool.vu⟩ ∧ u.arbiter = ⟨[], [], 12⟩ ∧
    u.benches = s.benches.map (fun x =>
      ⟨x.number, .closed, false, false, x.chilledCapable, x.heavyCapable, x.largestSize, none, false, none⟩) ∧
    u.dispatch = s.dispatch.map (fun d =>
      { d with inFlight := 0, holding := [], full := decide (d.capacity ≤ d.count) }) ∧
    u.cell = ⟨if s.cell.committed then .ready else .setup, s.cell.committed, none, none, s.cell.causes.union cause⟩ ∧
    u.notices =
      { s.notices with
        pending := NoticeFlag.cellState.bit
        mark := false
        due := s.notices.due || flagIn s.notices.enables .cellState } ∧
    u.bus.sent = s.bus.sent ++ allUnits.map (·, .cellRestart) ++
      (s.lanes.filter (fun l => decide (l.signal = .hold))).map (fun l => (FieldUnit.lane l.number, OutRecord.laneGo)) ∧
    allUnits.length = 20 ∧ u.settings = s.settings ∧ u.faults = s.faults ∧ u.clock = s.clock ∧ u.waves = s.waves ∧
    u.link = s.link ∧ u.bus.rx = s.bus.rx ∧ u.pending = s.pending ∧ u.freeCount = s.freeCount

/-- RESTART_CELL, BOUNDARY_RESTART, RESTART_FORCED and DRAIN_COMPLETE (R181, R183, R184): the warm restart of each
cause, and the quiet drain that ends in READY. With mode AT_BOUNDARY, from READY, RUNNING, PAUSED, DRAINING and HALTED
the cell becomes RESTARTING with its mode and deadline, CELL_STATE is raised, every lane signal is HOLD and each lane
whose signal was GO is told, and the quiet condition is judged; in SETUP a warm restart is made at once; in RESTARTING the
request is refused and changes nothing. Another mode is refused with BAD_VALUE. The last clauses say what the judgment at
the end of every event does (`ends`, `replies`): where occupancy, release list length, outstanding instructions and cell
state are all as the event found them it does nothing (the model's reading, log entry 28); else a quiet DRAINING cell
becomes READY and a quiet RESTARTING cell restarts. R181: what is quiet, and which benches have an instruction
outstanding. -/
def Obligations.RestartsAndDrainCompleteTakeEffect : Prop :=
  (∀ (s : State) (rq : ReqHead), s.Takes (.restartCellImmediate rq) → rq.valueOk = true →
    exec (.restartCellImmediate rq) s = .next ((s.warmRestart .ofImmediate).answer rq.tag 0x08
      ⟨.ok, .cellState (if s.cell.committed then .ready else .setup)⟩)) ∧
  (∀ (s : State) (rq : ReqHead) (c : Instr), c = .restartCellImmediate rq ∨ c = .restartCellAtBoundary rq → s.Takes c →
    rq.valueOk = false → exec c s = .next (s.answer rq.tag 0x08 ⟨.badValue, .none⟩)) ∧
  (∀ s : State, s.cell.state = .restarting → s.quiet = true →
    exec .boundaryRestart s = .next (s.warmRestart .ofBoundary)) ∧
  (∀ (s : State) (d : Nat), s.clock.isSet = true → s.cell.state = .restarting → s.cell.deadline = some d →
    d ≤ s.clock.minute → s.quiet = false →
    exec .restartForced s = .next ((s.warmRestart .ofForced).raiseFault .restartForced FaultCtx.empty
      (min 255 (s.occupancy + s.arbiter.releases.length + s.outstandingCount)))) ∧
  (∀ s : State, s.cell.state = .draining → s.quiet = true →
    exec .drainComplete s = .next
      { s with cell := { s.cell with state := .ready }, notices := s.notices.raised .cellState }) ∧
  (∀ (s : State) (rq : ReqHead), s.Takes (.restartCellAtBoundary rq) → rq.valueOk = true →
    (s.cell.state ≠ .setup → s.cell.state ≠ .restarting →
      let deadline := min 65535 (s.clock.minute + s.timers.restartWait)
      let holds : List (FieldUnit × OutRecord) :=
        (s.lanes.filter (fun l => decide (l.signal = .go))).map (fun l => (.lane l.number, .laneHold))
      let u : State := { s with
        cell := { s.cell with state := .restarting, mode := some .atBoundary, deadline := some deadline }
        notices := s.notices.raised .cellState
        lanes := s.lanes.map (fun l : Lane => { l with signal := .hold })
        bus := { s.bus with sent := s.bus.sent ++ holds } }
      exec (.restartCellAtBoundary rq) s = s.replies u rq 0x08 .ok (.deadline deadline)) ∧
    (s.cell.state = .setup →
      exec (.restartCellAtBoundary rq) s = .next ((s.warmRestart .ofBoundary).answer rq.tag 0x08
        ⟨.ok, .cellState (if s.cell.committed then .ready else .setup)⟩)) ∧
    (s.cell.state = .restarting →
      exec (.restartCellAtBoundary rq) s = .next (s.answer rq.tag 0x08 ⟨.wrongState, .none⟩))) ∧
  let out (x : Bench) : Prop := x.state = .fitting ∨ x.state = .sealing ∨ x.state = .releasing ∨
    (x.state = .building ∧ ∃ h, x.hamper = some h ∧ h.pocket = .requested) ∨
    (x.state = .unpacking ∧ x.unpacked = false)
  (∀ x : Bench, x.instructionOut = true ↔ out x) ∧
  (∀ s : State, s.occupancy = s.items.countP (fun i => decide (i.location = .onLoop)) ∧
    s.outstandingCount =
      s.items.countP (fun i => decide (i.outstanding ≠ .none)) + s.benches.countP Bench.instructionOut) ∧
  (∀ s : State,
    (s.quiet = true → s.cell.state = .draining →
      s.actQuiet = { s with cell := { s.cell with state := .ready }, notices := s.notices.raised .cellState }) ∧
    (s.quiet = true → s.cell.state = .restarting → s.actQuiet = s.warmRestart .ofBoundary) ∧
    (s.quiet = false ∨ (s.cell.state ≠ .draining ∧ s.cell.state ≠ .restarting) → s.actQuiet = s)) ∧
  ∀ s t : State,
    let changed : Prop := s.occupancy ≠ t.occupancy ∨ s.arbiter.releases.length ≠ t.arbiter.releases.length ∨
      s.outstandingCount ≠ t.outstandingCount ∨ s.cell.state ≠ t.cell.state
    let quiet : Prop := (∀ i ∈ t.items, i.location ≠ .onLoop) ∧ t.arbiter.releases = [] ∧
      (∀ i ∈ t.items, i.outstanding = .none) ∧ ∀ x ∈ t.benches, ¬out x
    (quiet ↔ t.quiet = true) ∧
    (¬changed ∨ ¬quiet ∨ (t.cell.state ≠ .draining ∧ t.cell.state ≠ .restarting) → State.judgeQuiet s t = t) ∧
    (changed → quiet → t.cell.state = .draining → State.judgeQuiet s t =
      { t with cell := { t.cell with state := .ready }, notices := t.notices.raised .cellState }) ∧
    (changed → quiet → t.cell.state = .restarting → State.judgeQuiet s t = t.warmRestart .ofBoundary)

/-- COMMIT_SETUP (R179): in SETUP with the clock set, a template and a wave defined, the setup is committed, the cell
becomes READY and CELL_STATE is raised; with one of the three missing the request is INCOMPLETE, outside SETUP it is
WRONG_STATE, and then nothing changes. START_CELL, PAUSE_CELL, STOP_CELL and CLEAR_HALT by the table of R180, with the
work of the state entered (R178) and a reply that carries the cell state after the request. The state entered is the one
of the table, unless a fault whose action is HALT comes about in that work; while no severity has that action it is
always the one of the table. The last clauses say what that work is: CELL_STATE raised; at RUNNING admission and the
release arbitration in either order, and the binding pass; at PAUSED the arbitration and the binding pass; at DRAINING
the arbitration; at each, Place issue and Seal issue at every bench and the service of every dispatch lane. Their order is
the model's (log entry 2); each is the operation of its own command. -/
def Obligations.CellCommandsFollowTheTable : Prop :=
  (∀ (s : State) (rq : ReqHead), s.Takes (.commitSetup rq) →
    let v : ReplyBody := .setup s.clock.isSet (s.templates.countP (·.plan.isSome))
      (s.waves.countP (fun w => w.state != .unused))
    (s.cell.state = .setup → s.clock.isSet = true → (∃ x ∈ s.templates, x.plan ≠ none) →
      (∃ w ∈ s.waves, w.state ≠ .unused) →
      exec (.commitSetup rq) s = .next
        ({ s with cell := { s.cell with state := .ready, committed := true },
                  notices := s.notices.raised .cellState }.answer rq.tag 0x03 ⟨.ok, v⟩)) ∧
    (s.cell.state = .setup → (s.clock.isSet = false ∨ (∀ x ∈ s.templates, x.plan = none) ∨
        ∀ w ∈ s.waves, w.state = .unused) →
      exec (.commitSetup rq) s = .next (s.answer rq.tag 0x03 ⟨.incomplete, v⟩)) ∧
    (s.cell.state ≠ .setup → exec (.commitSetup rq) s = .next (s.answer rq.tag 0x03 ⟨.wrongState, v⟩))) ∧
  (∀ (s : State) (rq : ReqHead),
    (s.Takes (.startCell rq) → s.clock.isSet = true → s.cell.state = .ready ∨ s.cell.state = .paused →
      (s.enterRunning.cell.state = .running ∨ s.enterRunning.cell.state = .halted) ∧
      ((∀ v ∈ s.faults.severities, v.action ≠ .halt) → s.enterRunning.cell.state = .running) ∧
      exec (.startCell rq) s =
        .next (s.enterRunning.answer rq.tag 0x04 ⟨.ok, .cellState s.enterRunning.cell.state⟩)) ∧
    (s.Takes (.pauseCell rq) → s.cell.state = .running →
      (s.enterPaused.cell.state = .paused ∨ s.enterPaused.cell.state = .halted) ∧
      ((∀ v ∈ s.faults.severities, v.action ≠ .halt) → s.enterPaused.cell.state = .paused) ∧
      exec (.pauseCell rq) s = .next (s.enterPaused.answer rq.tag 0x05 ⟨.ok, .cellState s.enterPaused.cell.state⟩)) ∧
    (s.Takes (.stopCell rq) → s.cell.state = .running ∨ s.cell.state = .paused →
      (s.enterDraining.cell.state = .draining ∨ s.enterDraining.cell.state = .halted) ∧
      ((∀ v ∈ s.faults.severities, v.action ≠ .halt) → s.enterDraining.cell.state = .draining) ∧
      exec (.stopCell rq) s = .next (s.enterDraining.actQuiet.answer rq.tag 0x06
        ⟨.ok, .cellState s.enterDraining.actQuiet.cell.state⟩)) ∧
    (s.Takes (.clearHalt rq) → s.cell.state = .halted →
      (s.enterPaused.cell.state = .paused ∨ s.enterPaused.cell.state = .halted) ∧
      ((∀ v ∈ s.faults.severities, v.action ≠ .halt) → s.enterPaused.cell.state = .paused) ∧
      exec (.clearHalt rq) s = .next (s.enterPaused.judgeLanes.answer rq.tag 0x07
        ⟨.ok, .cellState s.enterPaused.cell.state⟩)) ∧
    (s.Takes (.startCell rq) → s.clock.isSet = true → s.cell.state = .running →
      exec (.startCell rq) s = .next (s.answer rq.tag 0x04 ⟨.ok, .cellState .running⟩)) ∧
    (s.Takes (.pauseCell rq) → s.cell.state = .paused →
      exec (.pauseCell rq) s = .next (s.answer rq.tag 0x05 ⟨.ok, .cellState .paused⟩)) ∧
    (s.Takes (.stopCell rq) → s.cell.state = .ready ∨ s.cell.state = .draining →
      exec (.stopCell rq) s = .next (s.answer rq.tag 0x06 ⟨.ok, .cellState s.cell.state⟩)) ∧
    (s.Takes (.clearHalt rq) → s.cell.state ≠ .halted →
      exec (.clearHalt rq) s = .next (s.answer rq.tag 0x07 ⟨.ok, .cellState s.cell.state⟩)) ∧
    (s.Takes (.startCell rq) → s.clock.isSet = false ∨ s.cell.state = .setup ∨ s.cell.state = .draining ∨
        s.cell.state = .halted ∨ s.cell.state = .restarting →
      exec (.startCell rq) s = .next (s.answer rq.tag 0x04 ⟨.wrongState, .cellState s.cell.state⟩)) ∧
    (s.Takes (.pauseCell rq) → s.cell.state ≠ .running → s.cell.state ≠ .paused →
      exec (.pauseCell rq) s = .next (s.answer rq.tag 0x05 ⟨.wrongState, .cellState s.cell.state⟩)) ∧
    (s.Takes (.stopCell rq) → s.cell.state = .setup ∨ s.cell.state = .halted ∨ s.cell.state = .restarting →
      exec (.stopCell rq) s = .next (s.answer rq.tag 0x06 ⟨.wrongState, .cellState s.cell.state⟩))) ∧
  ∀ s : State,
    let told (c : CellState) : State :=
      { s with cell := { s.cell with state := c }, notices := s.notices.raised .cellState }
    let benches : List Nat := [1, 2, 3, 4, 5, 6, 7, 8, 9, 10, 11, 12]
    let resume (t : State) : State := [1, 2, 3, 4].foldl (fun u n => u.serveLane n)
      (benches.foldl (fun u b => u.sealTry b) (benches.foldl (fun u b => u.placeTry b) t))
    (∃ v : State, s.enterRunning = resume v.bindPass ∧
      ({ v with freeCount := 0 } = { ((told .running).tryAdmit.arbitrate : State) with freeCount := 0 } ∨
        { v with freeCount := 0 } = { ((told .running).arbitrate.tryAdmit : State) with freeCount := 0 })) ∧
    s.enterPaused = resume (told .paused).arbitrate.bindPass ∧ s.enterDraining = resume (told .draining).arbitrate ∧
    exec .admitHead s = s.ends s.tryAdmit ∧ exec .bufferRelease s = s.ends s.arbitrate ∧
    exec .binding s = s.ends s.bindPass ∧ (∀ b, exec (.placeItem b) s = s.ends (s.placeTry b)) ∧
    (∀ b, exec (.sealHamper b) s = s.ends (s.sealTry b)) ∧ ∀ n, exec (.hamperRelease n) s = s.ends (s.serveLane n)

/-! ### Time -/

/-- MINUTE_TICK and CLOCK_LIMIT (R29, R30, R93, R127, R136, R143, R184): while the clock-set flag is clear the tick has no
effect. Otherwise, in the order of log entry 4 (DEDUCED): the minute rises by 1, or is held at 65,535 and CLOCK_LIMIT is
reported; every PLANNED wave whose cutoff is reached is CUT, with OVERDUE marks, WAVE_CUT, and ORDER_OVERDUE where an
order is newly marked, and every CUT wave whose cutoff is not reached is PLANNED again; then the dwell pass, the shortage
pass and placement timing, and in either order with them the emptying of the held-back set and its arbitration; then the
quiet condition and the restart deadline are judged. The dwell pass is DWELL_EXPIRED of each item due, and placement
timing PLACE_TIMEOUT of each Place due, in an order that the spec leaves open (log entry 5). No tracked CHILLED item whose
dwell deadline is reached is left without its expired flag. CLOCK_LIMIT, the step of a tick that finds the minute at
65,535, reports and does nothing else. -/
def Obligations.MinuteTickRunsItsChecks : Prop :=
  (∀ s : State, (s.clock.isSet = false → exec .minuteTick s = .next s) ∧
    (s.clock.isSet = true → s.Inv →
      let moved : State := if s.clock.minute < 65535 then
          { s with clock := { s.clock with minute := s.clock.minute + 1 } }
        else s.raiseFault .clockLimit FaultCtx.empty 0
      let m := moved.clock.minute
      let cut (n : Nat) : Prop := ∃ w ∈ s.waves, w.number = n ∧ w.state = .planned ∧ w.cutoff.getD 0 ≤ m
      let marks (o : Order) : Prop := cut o.wave ∧
        (o.state = .loaded ∨ o.state = .building ∨ o.state = .held ∨ o.state = .complete)
      ∃ v t u : State, exec .minuteTick s = .next t ∧ m = min 65535 (s.clock.minute + 1) ∧
        t.clock = ⟨min 65535 (s.clock.minute + 1), true⟩ ∧
        v.waves = s.waves.map (fun w => { w with state :=
          if w.state = .planned ∨ w.state = .cut then if w.cutoff.getD 0 ≤ m then .cut else .planned else w.state }) ∧
        t.waves = v.waves ∧ v.book.loadSeq = s.book.loadSeq ∧
        List.Forall₂ (fun o p : Order => { p with overdue := o.overdue } = o ∧
          (p.overdue = true ↔ o.overdue = true ∨ marks o)) s.book.orders v.book.orders ∧
        ((∀ n, ¬cut n) → v.notices = moved.notices) ∧
        ((∃ n, cut n) → (∃ o ∈ s.book.orders, marks o ∧ o.overdue = false) →
          v.notices = (moved.notices.raised .waveCut).raised .orderOverdue) ∧
        ((∃ n, cut n) → (∀ o ∈ s.book.orders, marks o → o.overdue = true) →
          v.notices = moved.notices.raised .waveCut) ∧
        { v with waves := s.waves, book := s.book, notices := moved.notices } = moved ∧
        ({ u with freeCount := 0 } = { (v.runTimers.clearHeldBack : State) with freeCount := 0 } ∨
          { u with freeCount := 0 } = { (v.clearHeldBack.runTimers : State) with freeCount := 0 }) ∧
        t = (State.judgeQuiet s u).judgeDeadline ∧ t.arbiter.heldBack = [] ∧
        ∀ i ∈ t.items, i.cls = .chilled → ∀ d, i.deadline = some d → d ≤ t.clock.minute → i.expired = true)) ∧
  (∀ s : State, (s.clock.isSet = true → s.clock.minute = 65535 →
      exec .clockLimit s = .next (s.raiseFault .clockLimit FaultCtx.empty 0)) ∧
    (s.clock.isSet = false ∨ s.clock.minute ≠ 65535 → exec .clockLimit s = .next s)) ∧
  ∀ s : State,
    s.runTimers = s.dwellPass.shortagePass.timePlaces ∧
    s.clearHeldBack = ({ s with arbiter := { s.arbiter with heldBack := [] } } : State).arbitrate ∧
    (∃ (tags : List Nat) (k : Nat), tags.Perm ((s.items.filter (fun i => decide (i.cls = .chilled) && !i.expired &&
        i.deadline.any (fun d => decide (d ≤ s.clock.minute)))).map (·.tag)) ∧
      s.dwellPass = tags.foldl (fun t tag => t.expireItem tag) { s with freeCount := k }) ∧
    (∃ (tags : List Nat) (k : Nat), tags.Perm (s.benches.flatMap (fun x => match x.hamper with
        | none => []
        | some h => (h.places.filter (fun e => !e.timedOut &&
            ((s.item? e.tag).bind (fun i => i.outstanding.placeMinute)).any
              (fun m => decide (s.timers.placementLimit ≤ s.clock.minute - m)))).map (·.tag))) ∧
      s.timePlaces = tags.foldl (fun t tag => t.timeOutPlace tag) { s with freeCount := k }) ∧
    (s.clock.isSet = true → exec .shortagePass s = .next s.shortagePass ∧
      (∀ tag, exec (.dwellExpired tag) s = s.ends (s.expireItem tag)) ∧
      ∀ tag, exec (.placeTimeout tag) s = s.ends (s.timeOutPlace tag)) ∧
    (∀ d, s.cell.state = .restarting → s.cell.deadline = some d → d ≤ s.clock.minute → s.quiet = false →
      s.judgeDeadline = (s.warmRestart .ofForced).raiseFault .restartForced FaultCtx.empty
        (min 255 (s.occupancy + s.arbiter.releases.length + s.outstandingCount))) ∧
    (s.cell.state ≠ .restarting ∨ (∀ d, s.cell.deadline = some d → s.clock.minute < d) ∨ s.quiet = true →
      s.judgeDeadline = s)

/-- The work that the meanings share, each piece said once. R5, R7: the state of a line after a change of its counts, and
when it is complete. R114,
R116: a unit leaves a slot of a hamper. R80: an allocation released. R12: the gate set, which clears the TOP_GATE waits of the order's items
where it opens, and recomputed, which then runs the arbitration. R9, R10: the completion
check. R21: a pending withdrawal answered. R127: a stall judged. R124, R147: Return and Pull sent. R42, R89 to R91:
chute credits and common credits returned, and an item record freed; a credit returned to chute b raises its free items
and free VU by 1 and the item's VU, and one returned to the pool raises the pool's and lowers what that bench holds by the
same (R85, R86). What each does not name stands. Two pieces of work that the spec lets be done in either order are done
in one of the two, up to the counter of free values (log entry 3). -/
def Obligations.SharedWorkFollowsItsRules : Prop :=
  let lineDone (l : Line) : Prop :=
    (l.state = .filled ∧ l.placed = l.required) ∨ (l.state = .closed ∧ l.placed = l.committed)
  let mine (i : Item) (slot : Nat) : Prop := ∃ a, i.alloc = some a ∧ a.slot = slot
  (∀ (f g : State → State) (s : State), ∃ k,
    eitherOrder f g s = { g (f s) with freeCount := k } ∨ eitherOrder f g s = { f (g s) with freeCount := k }) ∧
  (∀ l : Line,
    (l.complete = true ↔ lineDone l) ∧
    (l.state = .opened ∨ l.state = .short →
      l.settled = if l.required ≤ l.committed then { l with state := .filled } else l) ∧
    (l.state = .filled → l.settled =
      if l.committed < l.required then { l with state := if l.shortMark then .short else .opened } else l) ∧
    (l.state = .closed → l.settled = l)) ∧
  (∀ (h : Hamper) (z : Zone) (n mass vu : Nat),
    let g := h.vacate z n mass vu
    g.mass = h.mass - mass ∧ (∀ y, y ≠ z → g.zone y = h.zone y) ∧
    g.zone z =
      { h.zone z with
        committed := (h.zone z).committed - vu
        capacity := if (h.zone z).clamped then (h.zone z).capacity - vu else (h.zone z).capacity
        slots := (h.zone z).slots.set (n - h.firstSlot z) .free } ∧
    { g with mass := h.mass, base := h.base, middle := h.middle, top := h.top, pocketZone := h.pocketZone } = h) ∧
  (∀ (s : State) (slot n : Nat), s.lineHeavy slot n = true ↔
    ∃ o l, s.order? slot = some o ∧ 1 ≤ n ∧ o.lines[n - 1]? = some l ∧ l.cls = .heavy) ∧
  (∀ (s : State) (slot : Nat),
    let done (o : Order) : Prop := ∀ l ∈ o.lines, l.cls = .heavy → lineDone l
    let opens : Prop := ∃ o, s.order? slot = some o ∧ o.bench ≠ none ∧ o.topGate = some .shut ∧ done o
    let judged : State := { s with book := { s.book with orders := s.book.orders.map (fun o : Order =>
      if o.slot = slot ∧ o.bench ≠ none ∧ o.topGate ≠ none then { o with
        topGate := some (if ∀ l ∈ o.lines, l.cls = .heavy → l.complete = true then .opened else .shut) } else o) } }
    (¬opens → s.setGate slot = judged ∧ s.recomputeGate slot = judged) ∧
    (opens →
      let waited : State := { judged with items := s.items.map (fun i : Item =>
        if i.wait = .topGate ∧ (∃ a, i.alloc = some a ∧ a.slot = slot) then { i with wait := .none } else i) }
      s.setGate slot = waited ∧ s.recomputeGate slot = waited.arbitrate)) ∧
  (∀ (s : State) (o : Order), s.Inv → s.order? o.slot = some o →
    let done : Prop := ∀ l ∈ o.lines, l.cls = .heavy → lineDone l
    let gated (g : Gate) : State := s.withOrder { o with topGate := some g }
    (o.bench = none ∨ o.topGate = none → s.recomputeGate o.slot = s) ∧
    (o.bench ≠ none → o.topGate = some .opened → done → s.recomputeGate o.slot = s) ∧
    (o.bench ≠ none → o.topGate ≠ none → ¬done → s.recomputeGate o.slot = gated .shut) ∧
    (o.bench ≠ none → o.topGate = some .shut → done → s.recomputeGate o.slot =
      ({ gated .opened with items := s.items.map (fun i : Item =>
        if i.wait = .topGate ∧ (∃ a, i.alloc = some a ∧ a.slot = o.slot) then { i with wait := .none } else i) } :
          State).arbitrate)) ∧
  (∀ (s : State) (o : Order) (b : Nat) (x : Bench), s.Inv → s.order? o.slot = some o → o.bench = some b →
    s.bench? b = some x →
    let complete : Prop := o.state = .building ∧ (∀ l ∈ o.lines, lineDone l) ∧
      (∀ i ∈ s.items, mine i o.slot → i.location = .inHamper ∧ (∀ m, i.outstanding ≠ .ret m) ∧
        ∀ m, i.outstanding ≠ .pull m) ∧ ∀ h, x.hamper = some h → h.places = []
    (¬complete → s.completionCheck o.slot = s) ∧
    (complete → 1 ≤ (o.lines.map (·.placed)).sum → s.completionCheck o.slot =
      ({ s.withOrder { o with state := .complete } with notices := s.notices.raised .orderComplete } :
        State).sealTry b) ∧
    (complete → (o.lines.map (·.placed)).sum = 0 → s.completionCheck o.slot = s.enterCancelling o.slot)) ∧
  (∀ (s : State) (b : Nat) (x : Bench), s.bench? b = some x →
    let marked : Prop := ∃ h, x.hamper = some h ∧ ∃ e ∈ h.places, e.timedOut = true
    (x.stalled = false ∨ marked → s.judgeStall b = s) ∧
    (x.stalled = true → ¬marked → s.judgeStall b = ({ s with benches := s.benches.map (fun y : Bench =>
      if y.number = b then { y with stalled := false } else y) } : State).placeTry b)) ∧
  (∀ (s : State) (vu b : Nat),
    s.credited vu (some b) none = { s with chutes := s.chutes.map (fun c : Chute => if c.bench = b then
      { c with freeItems := c.freeItems + 1, freeVu := c.freeVu + vu } else c) } ∧
    s.credited vu none (some b) = { s with
      pool := { s.pool with freeItems := s.pool.freeItems + 1, freeVu := s.pool.freeVu + vu }
      chutes := s.chutes.map (fun c : Chute => if c.bench = b then
        { c with heldItems := c.heldItems - 1, heldVu := c.heldVu - vu } else c) } ∧
    (∀ d, s.credited vu (some b) (some d) = (s.credited vu (some b) none).credited vu none (some d)) ∧
    s.credited vu none none = s ∧
    Hold.chuteAt .none = none ∧ Hold.chuteAt (.common b) = none ∧ Hold.chuteAt (.chute b) = some b ∧
    Hold.chuteAt (.both b) = some b ∧ Hold.commonAt .none = none ∧ Hold.commonAt (.common b) = some b ∧
    Hold.commonAt (.chute b) = none ∧ Hold.commonAt (.both b) = some b) ∧
  ∀ (s : State) (i : Item), s.item? i.tag = some i →
    let item (t : State) (f : Item → Item) : State :=
      { t with items := t.items.map (fun j : Item => if j.tag = i.tag then f j else j) }
    let held (h : Hold) : State := item s (fun j => { j with hold := h })
    (i.alloc = none → s.releaseAlloc i.tag = s) ∧
    (∀ a, i.alloc = some a →
      let v := item { s with
        book := { s.book with orders := s.book.orders.map (fun o : Order => if o.slot = a.slot then
          { o with lines := o.lines.modify (a.line - 1) (fun l : Line => { l with
            committed := l.committed - 1
            substituted := l.substituted - (if a.rank = 0 then 0 else 1) }.settled) } else o) }
        benches := s.benches.map (fun y : Bench => if y.number = a.bench then
          { y with hamper := y.hamper.map (Hamper.vacate a.zone a.slotNo i.mass i.vu) } else y) }
        (fun j => { j with alloc := none, wait := .none })
      s.releaseAlloc i.tag =
        (if s.lineHeavy a.slot a.line then v.recomputeGate a.slot else v).completionCheck a.slot) ∧
    (i.withdrawal = none → s.answerWithdrawal i.tag = s) ∧
    (∀ slot o, i.withdrawal = some slot → s.order? slot = some o →
      let order (t : State) (f : Order → Order) : State := { t with book := { t.book with
        orders := t.book.orders.map (fun p : Order => if p.slot = slot then f p else p) } }
      let v := order (item s (fun j => { j with withdrawal := none }))
        (fun p => { p with withdrawals := p.withdrawals - 1 })
      (o.state ≠ .cancelling ∨ 1 < o.withdrawals ∨ (∀ b x, o.bench = some b → s.bench? b = some x → x.unpacked = false) →
        s.answerWithdrawal i.tag = v) ∧
      ∀ b x, o.state = .cancelling → o.withdrawals ≤ 1 → o.bench = some b → s.bench? b = some x → x.unpacked = true →
        let w : State := { order v (fun p => { p with state := .cancelled, bench := none }) with
          notices := s.notices.raised .orderCancelled
          benches := s.benches.map (fun y : Bench => if y.number = b then
            { y with
              orderSlot := none, hamper := none, unpacked := false, stalled := false
              state := if y.staffed then .idle else .closed } else y) }
        s.answerWithdrawal i.tag = if x.staffed then w.bindPass else w) ∧
    (∀ b,
      let ordered (t : State) (r : OutRecord) (out : Outstanding) : State :=
        (item t (fun j => { j with outstanding := out })).withSent (.bench b) r
      let unlisted : State := { s with benches := s.benches.map (fun y : Bench => if y.number = b then
        { y with hamper := y.hamper.map (fun h : Hamper =>
          { h with places := h.places.filter (fun e => decide (e.tag ≠ i.tag)) }) } else y) }
      ((∃ m, i.outstanding = .ret m) → s.sendReturn b i.tag = s) ∧
      ((∃ m, i.outstanding = .place m) → s.sendReturn b i.tag =
        ((ordered unlisted (.ret i.tag) (.ret s.clock.minute)).judgeStall b).placeTry b) ∧
      (i.outstanding = .none ∨ (∃ m, i.outstanding = .pull m) →
        s.sendReturn b i.tag = ordered s (.ret i.tag) (.ret s.clock.minute)) ∧
      s.sendPull b i.tag = ordered s (.pull i.tag) (.pull s.clock.minute)) ∧
    (i.hold.chuteAt = none → s.returnChute i.tag = s) ∧ (i.hold.commonAt = none → s.returnCommon i.tag = s) ∧
    ((∀ b, i.hold = .chute b → s.returnChute i.tag = ((held .none).credited i.vu (some b) none).arbitrate) ∧
      (∀ b, i.hold = .common b → s.returnCommon i.tag = (held .none).credited i.vu none (some b)) ∧
      ∀ b, i.hold = .both b → s.returnChute i.tag = ((held (.common b)).credited i.vu (some b) none).arbitrate ∧
        s.returnCommon i.tag = (held (.chute b)).credited i.vu none (some b)) ∧
    s.freeItem i.tag = ({ s.credited i.vu i.hold.chuteAt i.hold.commonAt with
      items := s.items.filter (fun j => decide (j.tag ≠ i.tag))
      arbiter := { s.arbiter with heldBack := s.arbiter.heldBack.filter (fun k => decide (k ≠ i.tag)) } } :
        State).judgeLanes.arbitrate

/-- DWELL_EXPIRED (R143 to R147): a tracked CHILLED item, not yet expired, whose deadline is reached is marked and, before
anything else, reported with its context and the detail of its location; then its withdrawal is begun by where it stands.
AT_LANE nothing more; ON_LOOP, unless it is on its way to EXCEPTION, its allocation is released and Route EXCEPTION sent;
IN_BUFFER with an allocation, that is released and the arbitration runs; BUFFER_TO_CHUTE its allocation is released;
IN_CHUTE it is returned; IN_HAMPER of a BUILDING or HELD order, with no Pull outstanding, it is pulled. Any other item is
left alone. That detail 7 is given where no Pull is sent and no order is found is the model's choice (log entry 27). -/
def Obligations.DwellExpiryWithdrawsItem : Prop :=
  (∀ (s : State) (tag : Nat), s.clock.isSet = false ∨ (∀ i, s.item? tag = some i →
      i.cls ≠ .chilled ∨ i.expired = true ∨ ∀ d, i.deadline = some d → s.clock.minute < d) →
    exec (.dwellExpired tag) s = .next s) ∧
  ∀ (s : State) (tag : Nat) (i : Item) (d : Nat), s.clock.isSet = true → s.item? tag = some i → i.cls = .chilled →
    i.expired = false → i.deadline = some d → d ≤ s.clock.minute →
    let pulls : Prop := (∀ m, i.outstanding ≠ .pull m) ∧
      ∃ a o, i.alloc = some a ∧ s.order? a.slot = some o ∧ (o.state = .building ∨ o.state = .held)
    let reported (detail : Nat) : State := { s with items := s.items.map (fun j : Item =>
      if j.tag = tag then { j with expired := true } else j) : State }.raiseFault .dwellExpired
        ⟨some tag, i.alloc.map (·.slot), i.alloc.map (·.bench), some i.lane, some i.sku⟩ detail
    let c : Instr := .dwellExpired tag
    (i.location = .atLane → exec c s = s.ends (reported 1)) ∧
    (i.location = .onLoop → i.dest = some .exception → exec c s = s.ends (reported 2)) ∧
    (i.location = .onLoop → i.dest ≠ some .exception →
      let v := (reported 2).releaseAlloc tag
      exec c s = s.ends (({ v with items := v.items.map (fun j : Item =>
        if j.tag = tag then { j with dest := some .exception } else j) } : State).withSent .sorter
          (.route tag (some .exception)))) ∧
    (i.location = .inBuffer → i.alloc = none → exec c s = s.ends (reported 3)) ∧
    (i.location = .inBuffer → i.alloc ≠ none → exec c s = s.ends ((reported 3).releaseAlloc tag).arbitrate) ∧
    (i.location = .bufferToChute → exec c s = s.ends ((reported 4).releaseAlloc tag)) ∧
    (i.location = .inChute → exec c s = s.ends ((reported 5).sendReturn (i.locBench.getD 0) tag)) ∧
    (i.location = .inHamper →
      (pulls → exec c s = s.ends ((reported 6).sendPull (i.locBench.getD 0) tag)) ∧
      ((∃ m, i.outstanding = .pull m) → exec c s = s.ends (reported 6)) ∧
      (¬pulls → (∀ m, i.outstanding ≠ .pull m) → exec c s = s.ends (reported 7)))

/-- SHORTAGE_PASS (R136) and PLACE_TIMEOUT (R127). While the cell is RUNNING, PAUSED or DRAINING every OPEN line of a
BUILDING order without progress for the shortage limit becomes SHORT with its short mark, LINE_SHORT is raised if there
is one, and nothing else changes; in SETUP, READY, HALTED and RESTARTING, and while the clock is not set, the pass is not
made. A Place outstanding for the placement limit, its mark clear, is marked timed out and reported, its bench is stalled,
and BENCH_STALLED is raised; one below the limit, or whose mark is set, is left alone, so that each Place raises
PLACE_TIMEOUT once. -/
def Obligations.ShortagePassAndPlaceTimeout : Prop :=
  (∀ s : State, s.clock.isSet = true → s.working = true →
    let short (l : Line) : Prop := l.state = .opened ∧ s.timers.shortageLimit ≤ s.clock.minute - l.lastProgress
    ((∃ o ∈ s.book.orders, o.state = .building ∧ ∃ l ∈ o.lines, short l) →
      exec .shortagePass s = .next { s with
        book := { s.book with orders := s.book.orders.map (fun o : Order =>
          if o.state = .building then
            { o with lines := o.lines.map (fun l : Line =>
              if l.state = .opened ∧ s.timers.shortageLimit ≤ s.clock.minute - l.lastProgress then
                { l with state := .short, shortMark := true } else l) }
          else o) }
        notices := s.notices.raised .lineShort }) ∧
    ((∀ o ∈ s.book.orders, o.state = .building → ∀ l ∈ o.lines, ¬short l) → exec .shortagePass s = .next s)) ∧
  (∀ s : State, s.clock.isSet = false ∨ s.cell.state = .setup ∨ s.cell.state = .ready ∨ s.cell.state = .halted ∨
      s.cell.state = .restarting → exec .shortagePass s = .next s) ∧
  (∀ s : State, s.working = true ↔ s.cell.state = .running ∨ s.cell.state = .paused ∨ s.cell.state = .draining) ∧
  (∀ (s : State) (tag : Nat), s.clock.isSet = false ∨
      (∀ i m, s.item? tag = some i → i.outstanding = .place m → s.clock.minute - m < s.timers.placementLimit) ∨
      (∀ x ∈ s.benches, ∀ h, x.hamper = some h → ∀ e ∈ h.places, e.tag = tag → e.timedOut = true) →
    exec (.placeTimeout tag) s = .next s) ∧
  (∀ (s : State) (i : Item) (m : Nat), s.item? i.tag = some i → i.outstanding = .place m →
    s.timers.placementLimit ≤ s.clock.minute - m →
    let listed (x : Bench) : Prop := x ∈ s.benches ∧
      ∃ h, x.hamper = some h ∧ ∃ e ∈ h.places, e.tag = i.tag ∧ e.timedOut = false
    (∀ x, s.placeDueAt? i.tag = some x → listed x) ∧ ((∃ x, listed x) → ∃ x, s.placeDueAt? i.tag = some x)) ∧
  (∀ (s : State) (i : Item) (x : Bench) (h : Hamper) (m : Nat), s.Inv → s.clock.isSet = true →
    s.item? i.tag = some i → i.outstanding = .place m → s.timers.placementLimit ≤ s.clock.minute - m →
    s.placeDueAt? i.tag = some x → x.hamper = some h →
    let marked : State := { s with benches := s.benches.map (fun y : Bench => if y.number = x.number then
      { y with hamper := y.hamper.map (fun g : Hamper => { g with places := g.places.map (fun e : PlaceEntry =>
        if e.tag = i.tag then { e with timedOut := true } else e) }) } else y) }
    let v := marked.raiseFault .placeTimeout
      ⟨some i.tag, i.alloc.map (·.slot), some x.number, some i.lane, some i.sku⟩ s.timers.placementLimit
    let t : State := { v with
      benches := v.benches.map (fun y : Bench => if y.number = x.number then { y with stalled := true } else y)
      notices := v.notices.raised .benchStalled }
    exec (.placeTimeout i.tag) s = .next t ∧
      t.faults = s.reported .placeTimeout
        ⟨some i.tag, i.alloc.map (·.slot), some x.number, some i.lane, some i.sku⟩ s.timers.placementLimit ∧
      t.bench? x.number = some { x with
        stalled := true
        hamper := some { h with places := h.places.map (fun e =>
          if e.tag = i.tag then { e with timedOut := true } else e) } } ∧
      (∀ b, b ≠ x.number → t.bench? b = s.bench? b) ∧ flagIn t.notices.pending .benchStalled = true ∧
      t.items = s.items ∧ t.book = s.book)

/-! ### Faults, notices, lane signals -/

/-- R164 to R170: a report whose kind is disabled leaves no trace. One whose kind is enabled is logged, and the action of
its severity is applied: LOG_ONLY does no more; NOTICE raises FAULT_NOTICE without attention and NOTICE_AND_ATTENTION
with it; HALT raises it with attention and takes a READY, RUNNING, PAUSED or DRAINING cell to HALTED, no other. Nothing
else changes, but for the lane signals and the records that tell the lanes at a halt. -/
def Obligations.FaultReportIsLoggedAndActedOn : Prop :=
  ∀ (s : State) (k : FaultKind) (c : FaultCtx) (d : Nat) (e : MapEntry), s.faults.entry? k = some e →
    let t := s.raiseFault k c d
    let quietly : Notices := s.notices.raised .faultNotice
    let loudly : Notices := { quietly with mark := true }
    (e.enabled = false → t = s) ∧
    (e.enabled = true →
      t.faults = s.faults.logged ⟨k, s.clock.minute, c, d⟩ e.severity ∧
      { t with faults := s.faults, notices := s.notices, cell := s.cell, lanes := s.lanes, bus := s.bus } = s ∧
      (s.faults.actionOf e.severity = .logOnly → t.notices = s.notices) ∧
      (s.faults.actionOf e.severity = .notice → t.notices = quietly) ∧
      (s.faults.actionOf e.severity = .noticeAndAttention → t.notices = loudly) ∧
      (s.faults.actionOf e.severity = .halt →
        (s.cell.state = .ready ∨ s.cell.state = .running ∨ s.cell.state = .paused ∨ s.cell.state = .draining →
          t.cell = { s.cell with state := .halted } ∧ t.notices = loudly.raised .cellState ∧
          t.lanes = s.lanes.map (fun l => { l with signal := .hold }) ∧
          t.bus = { s.bus with sent := s.bus.sent ++ ((s.lanes.filter (fun l => decide (l.signal = .go))).map
            (fun l => ((.lane l.number, .laneHold) : FieldUnit × OutRecord))) }) ∧
        (s.cell.state = .setup ∨ s.cell.state = .halted ∨ s.cell.state = .restarting →
          t.cell = s.cell ∧ t.notices = loudly ∧ t.lanes = s.lanes ∧ t.bus = s.bus)) ∧
      (s.faults.actionOf e.severity ≠ .halt → t.cell = s.cell ∧ t.lanes = s.lanes ∧ t.bus = s.bus))

/-- R167, R168, R169: the monitor after one logged report. The first record of its severity takes it while empty, else
the latest; no other severity's records change. Its kind joins the seen set. Each counter that selects its kind rises by
1, and one at 127 holds and has its overflow flag set; no other counter changes. Map, actions and select sets stand. -/
def Obligations.LoggedReportIsRecordedSeenAndCounted : Prop :=
  ∀ (m : FaultMonitor) (r : FaultRecord) (n : Nat),
    (∀ v, look Severity.number n m.severities = some v → v.first = none →
      look Severity.number n (m.logged r n).severities = some { v with first := some r }) ∧
    (∀ v, look Severity.number n m.severities = some v → v.first ≠ none →
      look Severity.number n (m.logged r n).severities = some { v with latest := some r }) ∧
    (∀ j, j ≠ n → look Severity.number j (m.logged r n).severities = look Severity.number j m.severities) ∧
    (∀ k, kindIn (m.logged r n).seen k = (kindIn m.seen k || k == r.kind)) ∧
    (m.logged r n).counters = m.counters.map (fun c =>
      if kindIn c.select r.kind = true then
        if c.value < 127 then { c with value := c.value + 1 } else { c with overflow := true }
      else c) ∧
    (m.logged r n).map = m.map

/-- R191, R192: raising a flag leaves it pending and no other flag changed, and makes a Notice frame due exactly when the
flag was clear and is enabled. The line is asserted while an enabled flag other than FAULT_NOTICE is pending, or
FAULT_NOTICE is pending and enabled with the attention mark; ACTIVE_LOW drives it low then, ACTIVE_HIGH high. -/
def Obligations.NoticeFlagsDriveTheAttentionLine : Prop :=
  (∀ (n : Notices) (f g : NoticeFlag), flagIn (n.raised f).pending g = (flagIn n.pending g || g == f) ∧
    (n.raised f).due = (n.due || (!flagIn n.pending f && flagIn n.enables f)) ∧
    { n.raised f with pending := n.pending, due := n.due } = n) ∧
  (∀ n : Notices, n.asserted = true ↔
    (∃ f, f ≠ NoticeFlag.faultNotice ∧ flagIn n.pending f = true ∧ flagIn n.enables f = true) ∨
      (flagIn n.pending .faultNotice = true ∧ flagIn n.enables .faultNotice = true ∧ n.mark = true)) ∧
  ∀ n : Notices, n.lineHigh = if n.polarity = .activeLow then !n.asserted else n.asserted

/-- R47: at a judgment every lane's signal becomes HOLD where its queue holds 4 tags, the item table is full, or the cell
is HALTED or RESTARTING, and GO elsewhere; Lane Hold or Lane Go goes to exactly the lanes whose signal changes. -/
def Obligations.LaneSignalsAreJudged : Prop :=
  ∀ s : State,
    let wanted (l : Lane) : Prop := 4 ≤ l.queue.length ∨ 320 ≤ s.items.length ∨ s.cell.state = .halted ∨
      s.cell.state = .restarting
    (∀ l ∈ s.lanes, ∃ k ∈ s.judgeLanes.lanes, k.number = l.number ∧ k.queue = l.queue ∧ k.vector = l.vector ∧
      (wanted l → k.signal = .hold) ∧ (¬wanted l → k.signal = .go)) ∧
    s.judgeLanes.lanes.map Lane.number = s.lanes.map Lane.number ∧
    (∃ rs, s.judgeLanes.bus.sent = s.bus.sent ++ rs ∧
      ∀ u r, (u, r) ∈ rs ↔ ∃ l ∈ s.lanes, u = .lane l.number ∧
        ((l.signal = .go ∧ wanted l ∧ r = .laneHold) ∨ (l.signal = .hold ∧ ¬wanted l ∧ r = .laneGo))) ∧
    { s.judgeLanes with lanes := s.lanes, bus := s.bus } = s

/-! ### The host link -/

/-- R188, R189, R198: the bytes of a host frame whose body is at most 1,024 bytes, arriving outside a frame, are a
request. It joins the tail of the receive queue while fewer than 4 are queued; else it is answered BUSY, ahead of the
replies not begun, or dropped where 4 BUSY replies wait. Nothing else changes. The request queued is the one that the
frame spells: a listed kind is a request of that kind and tag, and a kind not listed is unknown. Load Order carries its
body; where the spec gives an empty body every other has the wrong length; the body of Set Clock, Set Notice Enable,
Acknowledge Notices and a Get Item that names a tag has 2 bytes (DEDUCED, log entry 37); the fields of the other bodies
stand at free places (log entry 7), each number least significant byte first and absent where it is all ones (R197), as
Set Wave, Set Bench Profile and Set Fault Map show. The kind of a BUSY reply echoes the request's,
in one of the two ways the words allow (log entry 8). -/
def Obligations.HostFrameIsQueuedOrAnsweredBusy : Prop :=
  ∀ (s : State) (tag kind : Byte) (body : List Byte), body.length ≤ 1024 → s.link.rx = none →
    (s.link.queue.length < 4 →
      exec (.requestQueued (hostFrameBytes tag kind body)) s = .next { s with link :=
        { s.link with queue := s.link.queue ++ [⟨tag, kind, .waiting (requestOfFrame tag kind body)⟩] } }) ∧
    (kindListed kind.toNat = true →
      ∃ rq, requestOf (requestOfFrame tag kind body) = some (rq, kind) ∧ rq.tag = tag) ∧
    requestOfFrame tag 0x20 body = .loadOrder tag body ∧
    (kind ∈ [(0x01 : Byte), 0x02, 0x03, 0x04, 0x05, 0x06, 0x07, 0x09, 0x0A, 0x54, 0x5A] →
      requestOf (requestOfFrame tag kind body) = some (⟨tag, decide (body = []), true⟩, kind)) ∧
    (∀ n, n = leNat (body.take 2) →
      let pair : ReqHead := ⟨tag, decide (body.length = 2), true⟩
      requestOfFrame tag 0x10 body = .setClock pair (BitVec.ofNat 16 n) ∧
      requestOfFrame tag 0x58 body = .setNoticeEnable pair (BitVec.ofNat 16 n) ∧
      requestOfFrame tag 0x5B body = .acknowledgeNotices pair (BitVec.ofNat 16 n) ∧
      (body ≠ [] → requestOfFrame tag 0x41 body = .getItem pair (some n))) ∧
    (∃ (ok : Bool) (n l c : Nat), requestOfFrame tag 0x11 body = .setWave ⟨tag, ok, true⟩ (fieldAt body n 1)
      (fieldAt body l 1) (BitVec.ofNat 16 (fieldAt body c 2))) ∧
    (let absentAt {α : Type} (x : Option α) (place width : Nat) : Prop :=
        1 ≤ width ∧ (x = none ↔ fieldAt body place width = 256 ^ width - 1);
      (∃ (rq : ReqHead) (b lg it vu : Nat) (ch hv : Option Bool) (lg' it' vu' : Option Nat) (c h w x : Nat),
        requestOfFrame tag 0x31 body = .setBenchProfile rq (fieldAt body b 1) ch hv lg' it' vu' ∧
        absentAt ch c w ∧ absentAt hv h x ∧ absentAt lg' lg 1 ∧ absentAt it' it 1 ∧ absentAt vu' vu 2 ∧
        lg'.getD 255 = fieldAt body lg 1 ∧ it'.getD 255 = fieldAt body it 1 ∧ vu'.getD 65535 = fieldAt body vu 2) ∧
      ∃ (rq : ReqHead) (count : Nat) (es : List MapField) (a b c : Option FaultAction) (k l m x y z : Nat),
        requestOfFrame tag 0x50 body = .setFaultMap rq (fieldAt body count 1) es a b c ∧
        absentAt a k x ∧ absentAt b l y ∧ absentAt c m z) ∧
    requestOfFrame tag 0x41 [] = .getItem ⟨tag, true, true⟩ none ∧
    requestOfFrame tag 0x42 [] = .getBench ⟨tag, true, true⟩ none ∧
    requestOfFrame tag 0x43 [] = .getStaging ⟨tag, true, true⟩ none ∧
    (kindListed kind.toNat = false → requestOfFrame tag kind body = .unknownKind tag kind) ∧
    (4 ≤ s.link.queue.length → s.link.busyHold.length < 4 → s.link.tx ≠ none →
      exec (.busy (hostFrameBytes tag kind body)) s = .next { s with link :=
        { s.link with busyHold := s.link.busyHold ++ [(tag, kind)] } }) ∧
    (4 ≤ s.link.queue.length → s.link.busyHold.length < 4 → s.link.tx = none →
      ∀ e es, s.link.busyHold ++ [(tag, kind)] = e :: es →
        let f : HostFrame := .reply e.1 (busyKind e.2) ⟨.busy, .none⟩
        exec (.busy (hostFrameBytes tag kind body)) s = .next { s with link :=
          { s.link with busyHold := es, tx := some f, sent := s.link.sent ++ [f] } }) ∧
    (4 ≤ s.link.queue.length → 4 ≤ s.link.busyHold.length →
      exec (.busy (hostFrameBytes tag kind body)) s = .next s) ∧
    (busyKind kind = kind ∨ busyKind kind = replyKind kind)

/-- R188: a length below 2 or above 1,026, a CRC that is not the one over length, tag, kind and body, and a gap inside a
frame each discard the frame and report LINK_FRAME with detail 1, 2 and 3. A byte outside a frame that is not the start
byte, and a gap outside a frame, have no effect. -/
def Obligations.BadHostFramesAreReported : Prop :=
  ∀ s : State,
    (s.link.rx = none → ∀ n, n < 2 ∨ 1026 < n ∧ n < 65536 →
      exec (.linkFrame (0xA5 :: leBytes 2 n)) s = .next (s.raiseFault .linkFrame FaultCtx.empty 1)) ∧
    (s.link.rx = none → ∀ (tag kind : Byte) (body crc : List Byte), body.length ≤ 1024 → crc.length = 2 →
      crc ≠ crcBytes (leBytes 2 (body.length + 2) ++ tag :: kind :: body) →
      exec (.linkFrame (0xA5 :: (leBytes 2 (body.length + 2) ++ tag :: kind :: body) ++ crc)) s =
        .next (s.raiseFault .linkFrame FaultCtx.empty 2)) ∧
    (∀ got, s.link.rx = some got →
      exec .linkByteGap s =
        .next ({ s with link := { s.link with rx := none } }.raiseFault .linkFrame FaultCtx.empty 3)) ∧
    (s.link.rx = none → exec .linkByteGap s = .next s) ∧
    (s.link.rx = none → ∀ bs : List Byte, (0xA5 : Byte) ∉ bs → exec (.linkFrame bs) s = .next s)

/-- R189: the oldest request of the queue alone is handed to its owner, with its tag, its kind and its fields; its reply
takes its place and begins when the transmitter is free, and its request then leaves the queue. A request that is handed
over as it arrives finds the queue empty (log entry 6), and a reply that finds the transmitter free begins in the same
event, also while a Notice frame is due (the model's choice, log entry 9). A request in its turn whose kind is 0x80 or
above, or is not listed, is answered UNKNOWN_KIND and changes nothing else; the kind of its reply is 0xFF or its own plus
0x80. -/
def Obligations.RepliesLeaveInRequestOrder : Prop :=
  (∀ (s : State) (tag kind : Byte) (r : Reply) (c : Instr) (after : List QueuedRequest),
    let f : HostFrame := .reply tag (replyKind kind) r
    let oldest : Prop := s.link.queue = ⟨tag, kind, .waiting c⟩ :: after
    { s.answer tag kind r with link := s.link } = s ∧
    (s.inTurn tag kind c = true ↔ s.link.queue = [] ∨ ∃ es, s.link.queue = ⟨tag, kind, .waiting c⟩ :: es) ∧
    (oldest → s.link.tx ≠ none →
      s.answer tag kind r = { s with link := { s.link with queue := ⟨tag, kind, .answered r⟩ :: after } }) ∧
    (oldest → s.link.tx = none → s.link.busyHold = [] →
      s.answer tag kind r = { s with link :=
        { s.link with queue := after, tx := some f, sent := s.link.sent ++ [f] } }) ∧
    (s.link.queue = [] → s.link.tx ≠ none →
      s.answer tag kind r = { s with link := { s.link with queue := [⟨tag, kind, .answered r⟩] } }) ∧
    (s.link.queue = [] → s.link.tx = none → s.link.busyHold = [] →
      s.answer tag kind r = { s with link := { s.link with tx := some f, sent := s.link.sent ++ [f] } })) ∧
  ∀ (s : State) (tag kind : Byte), kindListed kind.toNat = false → s.inTurn tag kind (.unknownKind tag kind) = true →
    exec (.unknownKind tag kind) s = .next (s.answer tag kind ⟨.unknownKind, .none⟩) ∧
    { s.answer tag kind ⟨.unknownKind, .none⟩ with link := s.link } = s ∧
    replyKind kind = if 0x80 ≤ kind.toNat then 0xFF else kind + 0x80

/-- TRANSMITTER_FREE and NOTICE_FRAME (R189, R191): when the transmitter is free the next frame begins, and nothing but
the frame and its place changes: a BUSY reply before anything else, of several the oldest (log entry 34); else the reply
of the oldest request if it is made, or a Notice frame that is due, which carries the pending set and the minute as they
stand and is then no longer due. Between a due Notice frame and a made reply the spec gives no order, and either may begin
(log entry 9). -/
def Obligations.TransmitterSendsTheNextFrame : Prop :=
  ∀ s : State,
    let begun (f : HostFrame) (l : Link) : Link := { l with tx := some f, sent := s.link.sent ++ [f] }
    let notice : HostFrame := .notice s.notices.pending s.clock.minute
    let told : Notices := { s.notices with due := false }
    (∀ e es, s.link.busyHold = e :: es →
      exec .transmitterFree s = .next { s with link :=
        (begun (.reply e.1 (busyKind e.2) ⟨.busy, .none⟩) { s.link with busyHold := es }) }) ∧
    (s.link.busyHold = [] →
      (∀ e es r, s.link.queue = e :: es → e.stage = .answered r →
        let replied : Link := begun (.reply e.tag (replyKind e.kind) r) { s.link with queue := es }
        (s.notices.due = false → exec .transmitterFree s = .next { s with link := replied }) ∧
        (s.notices.due = true → ∃ t, exec .transmitterFree s = .next t ∧
          (t = { s with link := begun notice s.link, notices := told, freeCount := s.freeCount + 1 } ∨
            t = { s with link := replied, freeCount := s.freeCount + 1 }))) ∧
      ((∀ e r, s.link.queue.head? = some e → e.stage ≠ .answered r) →
        (s.notices.due = false → exec .transmitterFree s = .next { s with link := { s.link with tx := none } }) ∧
        (s.notices.due = true →
          exec .transmitterFree s = .next { s with link := begun notice s.link, notices := told }))) ∧
    (s.notices.due = true → s.link.tx = none → s.link.busyHold = [] →
      exec .noticeFrame s = .next { s with link := begun notice s.link, notices := told }) ∧
    (s.notices.due = false ∨ s.link.tx ≠ none ∨ s.link.busyHold ≠ [] → exec .noticeFrame s = .next s)

/-! ### The cell bus and the record layouts -/

/-- R190, R195, R199, R200: the bytes of a cell bus frame whose tag byte is 0 and whose body is at most 1,024 bytes,
arriving outside a frame, are the record they carry: what the frame does is what the record of its kind does, with the
address, whether the body has the length of its kind, and the fields of the body. An Arrival's body has 12 bytes and the
fields of R200; the lengths of the other bodies, the places of their tags (2 bytes, least significant first) and the codes
of their points and reasons are not in the spec and stand free (log entry 14). A kind that no unit sends is reported. -/
def Obligations.CellBusFrameIsItsRecord : Prop :=
  ∀ (s : State) (addr kind : Byte) (body : List Byte), body.length ≤ 1024 → s.bus.rx = none →
    let k := kind.toNat
    let hd : RecHead := ⟨addr, decide (body.length = Config.recordLength k)⟩
    let tag : Nat := fieldAt body (Config.recordTagPlace k body) 2
    exec (.cellBusFrame (busFrameBytes addr 0 kind body)) s = exec (match k with
      | 0x01 => .arrival addr body
      | 0x10 => .mergeReady hd
      | 0x11 => .divertDone hd tag (Config.recordPoint k body)
      | 0x12 => .loopPass hd tag
      | 0x18 => .delivered hd tag (Config.recordPoint k body)
      | 0x19 => .releaseFailed hd tag
      | 0x20 => .benchOpen hd
      | 0x21 => .benchClose hd
      | 0x22 => .baseFitted hd
      | 0x23 => .pocketFitted hd
      | 0x24 => .placed hd tag
      | 0x25 => .placeRefused hd tag (Config.recordReason body)
      | 0x26 => .returned hd tag
      | 0x27 => .pulled hd tag
      | 0x28 => .hamperSealed hd
      | 0x29 => .hamperOut hd
      | 0x2A => .unpacked hd
      | _ => .misaddressedRecord addr kind) s

/-- R190: a length below 3 or above 1,027, a CRC that does not match, a gap inside a frame and a tag byte other than 0
each discard the frame and report CELL_BUS_FRAME with detail 1, 2, 3 and 4, a bad CRC before a nonzero tag (log entry
35); bytes and gaps outside a frame have no effect. R190, R195: a record from an address that names no unit is reported as
FIELD_MISMATCH with no context and detail 10, one of a kind its unit does not send with the lane or bench of the address
and detail 11, whatever the length of its body (the kind before the length: the model's choice, log entry 36), and one
whose body length does not fit with detail 12. Nothing else changes. -/
def Obligations.BadFramesAndMisaddressedRecordsAreReported : Prop :=
  (∀ s : State,
    (s.bus.rx = none → ∀ n, n < 3 ∨ 1027 < n ∧ n < 65536 →
      exec (.cellBusFrame (0xA5 :: leBytes 2 n)) s = .next (s.raiseFault .cellBusFrame FaultCtx.empty 1)) ∧
    (s.bus.rx = none → ∀ (addr tag kind : Byte) (body crc : List Byte), body.length ≤ 1024 → crc.length = 2 →
      crc ≠ crcBytes (leBytes 2 (body.length + 3) ++ addr :: tag :: kind :: body) →
      exec (.cellBusFrame (0xA5 :: (leBytes 2 (body.length + 3) ++ addr :: tag :: kind :: body) ++ crc)) s =
        .next (s.raiseFault .cellBusFrame FaultCtx.empty 2)) ∧
    (s.bus.rx = none → ∀ (addr tag kind : Byte) (body : List Byte), body.length ≤ 1024 → tag ≠ 0 →
      exec (.cellBusFrame (busFrameBytes addr tag kind body)) s =
        .next (s.raiseFault .cellBusFrame FaultCtx.empty 4)) ∧
    (∀ got, s.bus.rx = some got →
      exec .cellBusByteGap s =
        .next ({ s with bus := { s.bus with rx := none } }.raiseFault .cellBusFrame FaultCtx.empty 3)) ∧
    (s.bus.rx = none → exec .cellBusByteGap s = .next s) ∧
    (s.bus.rx = none → ∀ bs : List Byte, (0xA5 : Byte) ∉ bs → exec (.cellBusFrame bs) s = .next s)) ∧
  (∀ (addr : Byte) (u : FieldUnit), unitOf addr = some u ↔
    match u with
    | .lane n => addr.toNat = n ∧ 1 ≤ n ∧ n ≤ 6
    | .sorter => addr = 0x10
    | .buffer => addr = 0x11
    | .bench n => addr.toNat = 0x20 + n ∧ 1 ≤ n ∧ n ≤ 12) ∧
  (∀ (u : FieldUnit) (k : Nat), u.sends k = true ↔
    match u with
    | .lane _ => k = 0x01
    | .sorter => k = 0x10 ∨ k = 0x11 ∨ k = 0x12
    | .buffer => k = 0x18 ∨ k = 0x19
    | .bench _ => 0x20 ≤ k ∧ k ≤ 0x2A) ∧
  (∀ n, (FieldUnit.lane n).ctx = { FaultCtx.empty with lane := some n } ∧
    (FieldUnit.bench n).ctx = { FaultCtx.empty with bench := some n } ∧ FieldUnit.sorter.ctx = FaultCtx.empty ∧
    FieldUnit.buffer.ctx = FaultCtx.empty) ∧
  (∀ (s : State) (c : Instr) (addr : Byte) (kind : Nat), recordOf c = some (addr, kind) →
    (unitOf addr = none → exec c s = .next (s.raiseFault .fieldMismatch FaultCtx.empty 10)) ∧
    ∀ u, unitOf addr = some u → u.sends kind = false → exec c s = .next (s.raiseFault .fieldMismatch u.ctx 11)) ∧
  (∀ (s : State) (addr kind : Byte), unitOf addr = none →
    exec (.misaddressedRecord addr kind) s = .next (s.raiseFault .fieldMismatch FaultCtx.empty 10)) ∧
  (∀ (s : State) (addr kind : Byte) (u : FieldUnit), unitOf addr = some u → u.sends kind.toNat = false →
    exec (.misaddressedRecord addr kind) s = .next (s.raiseFault .fieldMismatch u.ctx 11)) ∧
  (∀ (s : State) (hd : RecHead) (u : FieldUnit) (tag : Nat) (p : Point) (r : RefuseReason), unitOf hd.addr = some u →
    hd.lengthOk = false →
    (∀ c : Instr, u = .sorter → c = .mergeReady hd ∨ c = .divertDone hd tag p ∨ c = .loopPass hd tag →
      exec c s = .next (s.raiseFault .fieldMismatch u.ctx 12)) ∧
    (∀ c : Instr, u = .buffer → c = .delivered hd tag p ∨ c = .releaseFailed hd tag →
      exec c s = .next (s.raiseFault .fieldMismatch u.ctx 12)) ∧
    (∀ (c : Instr) (b : Nat), u = .bench b → c = .benchOpen hd ∨ c = .benchClose hd ∨ c = .baseFitted hd ∨
        c = .pocketFitted hd ∨ c = .placed hd tag ∨ c = .placeRefused hd tag r ∨ c = .returned hd tag ∨
        c = .pulled hd tag ∨ c = .hamperSealed hd ∨ c = .hamperOut hd ∨ c = .unpacked hd →
      exec c s = .next (s.raiseFault .fieldMismatch { FaultCtx.empty with bench := some b } 12)))

/-- R200, R201: an Arrival body and a Load Order body read back as the fields they were written from, at every value that
the widths of their fields carry. -/
def Obligations.RecordBodiesReadBack : Prop :=
  (∀ a : ArrivalFields, a.tag < 65536 → a.sku < 16777216 → a.cls < 256 → a.mass < 65536 → a.volume < 65536 →
    (∀ m, a.chillExit = some m → m < 65535) →
    ArrivalFields.read a.bytes = a ∧ a.bytes.length = 12) ∧
  (∀ f : LoadFields, f.ref < 4294967296 → f.priority < 256 → f.wave < 256 → f.template < 256 → f.lines.length < 256 →
    (∀ l ∈ f.lines, l.sku < 16777216 ∧ l.cls < 256 ∧ l.required < 256 ∧ l.group < 256) →
    LoadFields.read f.bytes = f ∧ f.bytes.length = 8 + 6 * f.lines.length)

/-- R197, R202, R203: the body of a Place, a fault record as Get Fault Records carries it, an empty record place, and the
body of a Notice frame, field by field; a set of notice flags in 2 bytes with bits 11 to 15 zero, a set of fault kinds in
3 bytes with kind code k in bit k - 1, and a reply's frame, whose body begins with the status code in one byte. R190,
R195, R199: the frame of a record that the part sends: the address of its unit, which names that unit, tag 0, the kind
code of the record and its body, the frames one after another in the order made. R197, R173, R193: the sets of Get
Notices in 2 bytes each, the select sets of Get Counters in 3; in the replies of Get Item and Get Order and in the records
sent, class and zone by their codes, absent fields all ones, every number least significant byte first. The order of the
fields and the widths and codes that the spec does not give are free (log entry 7); that a tag, a SKU, a minute, a
reference and a field of one byte have everywhere the width of R200 to R203 is DEDUCED (log entry 39). -/
def Obligations.OutgoingBodiesFollowTheirLayouts : Prop :=
  (∀ (tag slot : Nat) (z : Zone), tag < 65536 → slot < 256 →
    (placeBody tag z slot).length = 4 ∧ fieldAt (placeBody tag z slot) 0 2 = tag ∧
    fieldAt (placeBody tag z slot) 2 1 = z.code ∧ fieldAt (placeBody tag z slot) 3 1 = slot) ∧
  (∀ r : FaultRecord, r.minute < 65536 → r.detail < 256 → (∀ n, r.ctx.tag = some n → n < 65535) →
    (∀ n, r.ctx.slot = some n → n < 255) → (∀ n, r.ctx.bench = some n → n < 255) →
    (∀ n, r.ctx.lane = some n → n < 255) → (∀ n, r.ctx.sku = some n → n < 16777215) →
    let b := faultRecordBytes (some r)
    b.length = 12 ∧ fieldAt b 0 1 = r.kind.code ∧ fieldAt b 1 2 = r.minute ∧ fieldAt b 3 2 = r.ctx.tag.getD 65535 ∧
    fieldAt b 5 1 = r.ctx.slot.getD 255 ∧ fieldAt b 6 1 = r.ctx.bench.getD 255 ∧
    fieldAt b 7 1 = r.ctx.lane.getD 255 ∧ fieldAt b 8 3 = r.ctx.sku.getD 16777215 ∧ fieldAt b 11 1 = r.detail) ∧
  faultRecordBytes none = 0 :: List.replicate 11 0xFF ∧
  (∀ (p : NoticeSet) (m : Nat), m < 65536 →
    (noticeBody p m).length = 4 ∧ fieldAt (noticeBody p m) 0 2 = p.toNat ∧ fieldAt (noticeBody p m) 2 2 = m ∧
    noticeFrameBytes p m = hostFrameBytes 0 0x60 (noticeBody p m)) ∧
  (∀ v : NoticeSet, (noticeSetBytes v).length = 2 ∧
    (∀ f : NoticeFlag, (fieldAt (noticeSetBytes v) 0 2).testBit f.number = flagIn v f) ∧
    ∀ n, 11 ≤ n → (fieldAt (noticeSetBytes v) 0 2).testBit n = false) ∧
  (∀ v : KindSet, (kindSetBytes v).length = 3 ∧
    (∀ k : FaultKind, (fieldAt (kindSetBytes v) 0 3).testBit (k.code - 1) = kindIn v k) ∧
    ∀ n, 17 ≤ n → (fieldAt (kindSetBytes v) 0 3).testBit n = false) ∧
  (∀ (tag kind : Byte) (r : Reply),
    HostFrame.bytes (.reply tag kind r) = hostFrameBytes tag kind r.bytes ∧
    r.bytes = BitVec.ofNat 8 r.status.code :: r.body.bytes) ∧
  (∀ st : Status, st.code = match st with
    | .ok => 0 | .unknownKind => 1 | .badLength => 2 | .badValue => 3 | .wrongState => 4 | .noRoom => 5
    | .notFound => 6 | .duplicate => 7 | .inUse => 8 | .incomplete => 9 | .busy => 10) ∧
  (ReplyBody.bytes .none = [] ∧ (∀ v, ReplyBody.bytes (.kinds v) = kindSetBytes v) ∧
    (∀ v, ReplyBody.bytes (.noticeSet v) = noticeSetBytes v) ∧
    ∀ rs seen, ReplyBody.bytes (.faultRecords rs seen) =
      rs.flatMap (fun v => faultRecordBytes v.first ++ faultRecordBytes v.latest) ++ kindSetBytes seen) ∧
  (let holds (bs : List Byte) (fs : List (List Byte)) : Prop := ∃ gs : List (List Byte), gs.Perm fs ∧ bs = gs.flatten;
    (∀ (l : Layout) (k w : Nat),
      l.numOpt k none w = List.replicate (w + Config.fieldExtra l k) 0xFF ∧
      ∀ n, l.num k n w = leBytes (w + Config.fieldExtra l k) n ∧ l.numOpt k (some n) w = l.num k n w) ∧
    (∀ w n, (leBytes w n).length = w ∧ fieldAt (leBytes w n) 0 w = n % 256 ^ w) ∧
    (∀ c : ItemClass, classBytes c = match c with
      | .ambient => [0] | .heavy => [1] | .fragile => [2] | .chilled => [3]) ∧
    (∀ z : Option Zone, zoneBytesOpt z = match z with
      | some .base => [0] | some .middle => [1] | some .top => [2] | some .pocket => [3] | none => [0xFF]) ∧
    (∀ v : NoticeView, holds (ReplyBody.bytes (.notices v)) [leBytes 2 v.pending.toNat, leBytes 2 v.enables.toNat,
      Layout.notices.coded 0 v.mark, Layout.notices.coded 1 v.polarity, Layout.notices.coded 2 v.asserted]) ∧
    (∀ cs, ReplyBody.bytes (.counters cs) = cs.flatMap Counter.bytes) ∧
    (∀ c : Counter, holds c.bytes
      [Layout.counter.num 0 c.value, Layout.counter.coded 1 c.overflow, leBytes 3 c.select.toNat]) ∧
    (∀ i : Item, holds (ReplyBody.bytes (.item i)) [leBytes 2 i.tag, leBytes 3 i.sku, classBytes i.cls, leBytes 2 i.mass,
      Layout.item.num 0 i.vu 2, leBytes 1 i.lane, leBytesOpt 2 i.chillExit, leBytesOpt 2 i.deadline,
      Layout.item.coded 1 i.expired, Layout.item.coded 2 i.location, leBytesOpt 1 i.locBench, leBytesOpt 1 i.withdrawal,
      Layout.item.num 3 i.laps, Layout.item.codedOpt 4 i.dest, leBytesOpt 1 (i.alloc.map Alloc.slot),
      Layout.item.numOpt 5 (i.alloc.map Alloc.line), leBytesOpt 1 (i.alloc.map Alloc.bench),
      Layout.item.numOpt 6 (i.alloc.map Alloc.rank), zoneBytesOpt (i.alloc.map Alloc.zone),
      leBytesOpt 1 (i.alloc.map Alloc.slotNo), Layout.item.coded 7 i.wait, Layout.item.coded 8 i.hold.kind,
      leBytesOpt 1 i.hold.bench?, Layout.item.coded 9 i.outstanding.kind, leBytesOpt 2 i.outstanding.issued,
      Layout.item.num 10 i.entrySeq 4]) ∧
    (∀ (o : Order) (age : Nat), ∃ own : List Byte,
      ReplyBody.bytes (.order o age) = own ++ Config.listHead .line o.lines.length ++
        ((o.lines.mapIdx (fun k x => Line.bytes (k + 1) x)).flatten) ∧
      holds own [leBytes 1 o.slot, leBytes 4 o.ref, Layout.order.num 0 o.loadSeq 2, Layout.order.num 1 age 2,
        leBytes 1 o.priority, leBytes 1 o.wave, leBytes 1 o.template, Layout.order.coded 2 o.state,
        Layout.order.coded 3 o.held, leBytesOpt 1 o.bench, Layout.order.coded 4 (o.overdue, o.late),
        Layout.order.codedOpt 5 o.topGate, Layout.order.coded 6 o.fragileBegun, Layout.order.num 7 o.withdrawals,
        leBytesOpt 2 o.sealMinute, Layout.order.numOpt 8 o.dispatchLane]) ∧
    (∀ (number : Nat) (x : Line), holds (Line.bytes number x) [Layout.line.num 0 number, leBytes 3 x.sku, classBytes x.cls,
      leBytes 1 x.required, Layout.line.num 1 x.committed, Layout.line.num 2 x.placed, Layout.line.num 3 x.substituted,
      leBytes 1 x.group, Layout.line.coded 4 x.state, Layout.line.coded 5 x.shortMark, leBytes 2 x.lastProgress]) ∧
    (∀ n, ReplyBody.bytes (.slot n) = leBytes 1 n ∧ ReplyBody.bytes (.deadline n) = leBytes 2 n) ∧
    (∀ skus, ReplyBody.bytes (.group skus) = Config.listHead .group skus.length ++ skus.flatMap (leBytes 3)) ∧
    (∀ tag, OutRecord.body (.admitTag tag) = leBytes 2 tag ∧ OutRecord.body (.ret tag) = leBytes 2 tag ∧
      OutRecord.body (.pull tag) = leBytes 2 tag) ∧
    (∀ tag reason, holds (OutRecord.body (.laneReject tag reason)) [leBytes 2 tag, Layout.reject.coded 0 reason]) ∧
    (∀ tag point, holds (OutRecord.body (.route tag point)) [leBytes 2 tag, Layout.route.coded 0 point]) ∧
    (∀ tag point, holds (OutRecord.body (.bufferRelease tag point)) [leBytes 2 tag, Layout.bufferRelease.coded 0 point]) ∧
    ∀ n, OutRecord.body (.fitBase n) = leBytes 1 n ∧ OutRecord.body (.release n) = Layout.release.num 0 n) ∧
  (∀ (p : NoticeSet) (m : Nat), HostFrame.bytes (.notice p m) = noticeFrameBytes p m) ∧
  (∀ u ∈ allUnits, unitOf u.address = some u) ∧
  (∀ (u : FieldUnit) (r : OutRecord),
    let covered : List Byte := leBytes 2 (r.body.length + 3) ++ u.address :: 0 :: BitVec.ofNat 8 r.code :: r.body
    outFrameBytes u r = 0xA5 :: covered ++ crcBytes covered) ∧
  (∀ (tag slot : Nat) (z : Zone), OutRecord.body (.place tag z slot) = placeBody tag z slot) ∧
  (∀ r : OutRecord, r.code = match r with
    | .admitTag _ => 0x81 | .laneReject _ _ => 0x82 | .laneHold => 0x83 | .laneGo => 0x84 | .route _ _ => 0x90
    | .bufferRelease _ _ => 0x98 | .fitBase _ => 0xA0 | .fitPocket => 0xA1 | .place _ _ _ => 0xA2 | .ret _ => 0xA3
    | .pull _ => 0xA4 | .sealHamper => 0xA5 | .release _ => 0xA6 | .unpack => 0xA7 | .cellRestart => 0xF0) ∧
  ∀ (s : State) (u : FieldUnit) (r : OutRecord),
    s.send u r = s.withSent u r ∧ (s.withSent u r).bus.line = s.bus.line ++ outFrameBytes u r

/-! ### Requests that read, and requests that set -/

/-- R189: every host request that is handed to its owner with a body of the wrong length is answered BAD_LENGTH and
changes nothing; the reply carries no field, but for those that R179 and R180 give every reply of Commit Setup and of the
cell commands. One that is not in its turn is not acted on: it joins the tail of the queue, or, where 4 requests are
queued, it is answered BUSY, or dropped; that a request's command is its arrival or its hand-over is the model's choice
(log entry 6). R13: one that names an order is refused, in this order, for a field out of its range, for a reference that
no order has, and in a state in which it is not allowed, with the order's slot. A line number outside 1 to 24 counts as
out of range (DEDUCED, log entry 16). That BAD_LENGTH goes first also where the rule of a request states no order is the
model's choice (log entry 38). -/
def Obligations.RequestsAreCheckedInOrder : Prop :=
  ∀ (c : Instr) (rq : ReqHead) (kind : Byte) (s : State), requestOf c = some (rq, kind) →
    (s.inTurn rq.tag kind c = true → rq.lengthOk = false →
      exec c s = .next (s.answer rq.tag kind ⟨.badLength, match c with
        | .commitSetup _ => .setup s.clock.isSet (s.templates.countP (·.plan.isSome))
            (s.waves.countP (fun w => w.state != .unused))
        | .startCell _ | .pauseCell _ | .stopCell _ | .clearHalt _ => .cellState s.cell.state
        | _ => .none⟩)) ∧
    (s.inTurn rq.tag kind c = false → 4 ≤ s.link.queue.length → exec c s = .next (s.answerBusy rq.tag kind)) ∧
    (s.inTurn rq.tag kind c = false → s.link.queue.length < 4 → exec c s = .next { s with link :=
      { s.link with queue := s.link.queue ++ [⟨rq.tag, kind, .waiting c⟩] } }) ∧
    { s.answerBusy rq.tag kind with link := s.link } = s ∧
    ∀ (inRanges : Bool) (ref : Nat) (allowed : OrderState → Bool), orderRequestOf c = some (inRanges, ref, allowed) →
      s.Takes c →
      (inRanges = false ∨ ref = 0 ∨ 4294967294 < ref → exec c s = .next (s.answer rq.tag kind ⟨.badValue, .none⟩)) ∧
      (inRanges = true → 1 ≤ ref → ref ≤ 4294967294 → (∀ o ∈ s.book.orders, o.ref ≠ ref) →
        exec c s = .next (s.answer rq.tag kind ⟨.notFound, .none⟩)) ∧
      (inRanges = true → 1 ≤ ref → ref ≤ 4294967294 → ∀ o, s.orderOf? ref = some o → allowed o.state = false →
        exec c s = .next (s.answer rq.tag kind ⟨.wrongState, .slot o.slot⟩))

/-- GET_IDENTITY, GET_CELL_STATUS, GET_RESTART_CAUSES, GET_WAVE, GET_ORDER and LIST_ORDERS (R4, R23, R36, R181, R186,
R187): the reply of each, and nothing else changes. List Orders that names a state outside the eight is refused with
BAD_VALUE. -/
def Obligations.CellAndOrderReadingsAnswer : Prop :=
  ∀ (s : State) (rq : ReqHead),
    let out (x : Bench) : Prop := x.state = .fitting ∨ x.state = .sealing ∨ x.state = .releasing ∨
      (x.state = .building ∧ x.hamper.map (·.pocket) = some .requested) ∨
      (x.state = .unpacking ∧ x.unpacked = false)
    (s.Takes (.getIdentity rq) → exec (.getIdentity rq) s =
      .next (s.answer rq.tag 0x01 ⟨.ok, .identity 0x0D5B 0x0C12 3⟩)) ∧
    (s.Takes (.getCellStatus rq) → exec (.getCellStatus rq) s = .next (s.answer rq.tag 0x02 ⟨.ok, .cellStatus
      { state := s.cell.state
        committed := s.cell.committed
        mode := s.cell.mode
        deadline := s.cell.deadline
        minute := s.clock.minute
        clockSet := s.clock.isSet
        quiet := decide ((∀ i ∈ s.items, i.location ≠ .onLoop) ∧ s.arbiter.releases = [] ∧
          (∀ i ∈ s.items, i.outstanding = .none) ∧ ∀ x ∈ s.benches, ¬out x)
        occupancy := s.items.countP (fun i => i.location == .onLoop)
        releases := s.arbiter.releases.length
        outstanding := s.items.countP (fun i => i.outstanding != .none) + s.benches.countP (fun x => decide (out x))
        templates := s.templates.countP (fun t => t.plan.isSome)
        waves := s.waves.countP (fun w => w.state != .unused) }⟩)) ∧
    (s.Takes (.getRestartCauses rq) →
      exec (.getRestartCauses rq) s = .next (s.answer rq.tag 0x09 ⟨.ok, .causes s.cell.causes⟩)) ∧
    ((s.Takes (.getWave rq none) → exec (.getWave rq none) s = .next (s.answer rq.tag 0x13
        ⟨.ok, .waves s.clock.minute s.clock.isSet (s.waves.map s.waveView)⟩)) ∧
      (∀ n w, s.Takes (.getWave rq (some n)) → 1 ≤ n → n ≤ 8 → s.waves.filter (fun x => x.number == n) = [w] →
        exec (.getWave rq (some n)) s = .next (s.answer rq.tag 0x13
          ⟨.ok, .waves s.clock.minute s.clock.isSet [if w.state = .unused then ⟨w, 0, 0⟩ else
            ⟨w, s.book.orders.countP (fun o => decide (o.wave = w.number ∧ o.state ≠ .dispatched ∧
                o.state ≠ .cancelled)),
              s.book.orders.countP (fun o => decide (o.wave = w.number ∧ (o.state = .loaded ∨ o.state = .building ∨
                o.state = .held ∨ o.state = .complete)))⟩]⟩)) ∧
      (∀ n, s.Takes (.getWave rq (some n)) → n = 0 ∨ 8 < n →
        exec (.getWave rq (some n)) s = .next (s.answer rq.tag 0x13 ⟨.badValue, .none⟩))) ∧
    (∀ ref o, s.Names (.getOrder rq ref) ref o → exec (.getOrder rq ref) s = .next (s.answer rq.tag 0x29
      ⟨.ok, .order o ((s.book.loadSeq + 65536 - o.loadSeq) % 65536)⟩)) ∧
    (∀ states overdue late, s.Takes (.listOrders rq states overdue late) → rq.valueOk = true →
      exec (.listOrders rq states overdue late) s = .next (s.answer rq.tag 0x2A ⟨.ok, .orders
        ((s.book.orders.filter (fun o => decide ((states = [] ∨ o.state ∈ states) ∧
          (overdue = true → o.overdue = true) ∧ (late = true → o.late = true)))).map
          (fun o => ⟨o.slot, o.ref, o.state, o.held, o.overdue, o.late⟩))⟩)) ∧
    (∀ states overdue late, s.Takes (.listOrders rq states overdue late) → rq.valueOk = false →
      exec (.listOrders rq states overdue late) s = .next (s.answer rq.tag 0x2A ⟨.badValue, .none⟩))

/-- GET_ITEM (R43), whole: a tracked tag gets its item record, no tag the loop and lane summary, a tag not in the table
NOT_FOUND, a tag of 0 or 65,535 BAD_VALUE, a body of another length BAD_LENGTH; the request changes nothing, in every
cell state. -/
def Obligations.GetItemAnswersRecordOrSummary : Prop :=
  ∀ (s : State) (rq : ReqHead),
    (rq.lengthOk = false → ∀ t, s.inTurn rq.tag 0x41 (.getItem rq t) = true →
      exec (.getItem rq t) s = .next (s.answer rq.tag 0x41 ⟨.badLength, .none⟩)) ∧
    ((∀ t, s.Takes (.getItem rq (some t)) → t = 0 ∨ t = 65535 →
        exec (.getItem rq (some t)) s = .next (s.answer rq.tag 0x41 ⟨.badValue, .none⟩)) ∧
      (∀ t, s.Takes (.getItem rq (some t)) → 1 ≤ t → t ≤ 65534 → s.item? t = none →
        exec (.getItem rq (some t)) s = .next (s.answer rq.tag 0x41 ⟨.notFound, .none⟩)) ∧
      (∀ t i, s.Takes (.getItem rq (some t)) → 1 ≤ t → t ≤ 65534 → s.item? t = some i →
        exec (.getItem rq (some t)) s = .next (s.answer rq.tag 0x41 ⟨.ok, .item i⟩)) ∧
      (s.Takes (.getItem rq none) → exec (.getItem rq none) s = .next (s.answer rq.tag 0x41 ⟨.ok, .loop
        ⟨s.items.length, s.items.countP (fun i => i.location == .onLoop), s.loop.capacity, s.loop.lapLimit,
          s.admission.mergeFree, s.admission.pointer, s.lanes⟩⟩))) ∧
    ∀ r, { s.answer rq.tag 0x41 r with link := s.link } = s

/-- GET_BENCH, GET_STAGING, GET_FAULT_RECORDS, GET_COUNTERS and GET_NOTICES (R106, R133, R173, R174, R193): the reply of
each, and nothing else changes. -/
def Obligations.StatusReadingsAnswer : Prop :=
  ∀ (s : State) (rq : ReqHead),
    ((s.Takes (.getBench rq none) → exec (.getBench rq none) s = .next (s.answer rq.tag 0x42
        ⟨.ok, .benches (s.benches.map s.benchView) (some s.templates)⟩)) ∧
      (∀ b x, s.Takes (.getBench rq (some b)) → 1 ≤ b → b ≤ 12 → s.benches.filter (fun x => x.number == b) = [x] →
        exec (.getBench rq (some b)) s = .next (s.answer rq.tag 0x42 ⟨.ok, .benches
          [match x.hamper with
            | none => ⟨x, [], []⟩
            | some h => ⟨x,
                [1, 1 + h.base.slots.length, 1 + h.base.slots.length + h.middle.slots.length,
                  1 + h.base.slots.length + h.middle.slots.length + h.top.slots.length],
                h.places.map (fun e =>
                  ⟨e.tag, (s.item? e.tag).bind (fun i => i.outstanding.placeMinute), e.timedOut⟩)⟩] none⟩)) ∧
      (∀ b, s.Takes (.getBench rq (some b)) → b = 0 ∨ 12 < b →
        exec (.getBench rq (some b)) s = .next (s.answer rq.tag 0x42 ⟨.badValue, .none⟩))) ∧
    ((∀ b, s.Takes (.getStaging rq b) → (b = none ∨ ∃ n, b = some n ∧ 1 ≤ n ∧ n ≤ 12) →
        exec (.getStaging rq b) s = .next (s.answer rq.tag 0x43 ⟨.ok, .staging
          { pool := s.pool
            outbound := s.items.countP (fun i => i.location == .inBuffer && i.alloc == none)
            releases := s.arbiter.releases
            pointer := s.arbiter.pointer
            heldBack := s.arbiter.heldBack.length
            chutes := (s.chutes.filter (fun c => decide (b = none ∨ b = some c.bench))).map (fun c =>
              ⟨c, s.items.countP (State.stagedAt c.bench),
                s.items.countP (fun i => State.stagedAt c.bench i && i.wait == .none)⟩) }⟩)) ∧
      (∀ b, s.Takes (.getStaging rq (some b)) → b = 0 ∨ 12 < b →
        exec (.getStaging rq (some b)) s = .next (s.answer rq.tag 0x43 ⟨.badValue, .none⟩))) ∧
    ((∀ n, s.Takes (.getFaultRecords rq n) → (n = none ∨ ∃ k, n = some k ∧ k ≤ 2) →
        exec (.getFaultRecords rq n) s = .next (s.answer rq.tag 0x52 ⟨.ok, .faultRecords
          ((s.faults.severities.filter (fun v => decide (n = none ∨ n = some v.number))).map
            (fun v => ⟨v.number, v.first, v.latest⟩)) s.faults.seen⟩)) ∧
      (∀ k, s.Takes (.getFaultRecords rq (some k)) → 2 < k →
        exec (.getFaultRecords rq (some k)) s = .next (s.answer rq.tag 0x52 ⟨.badValue, .none⟩))) ∧
    (s.Takes (.getCounters rq) →
      exec (.getCounters rq) s = .next (s.answer rq.tag 0x54 ⟨.ok, .counters s.faults.counters⟩)) ∧
    (s.Takes (.getNotices rq) → exec (.getNotices rq) s = .next (s.answer rq.tag 0x5A ⟨.ok, .notices
      ⟨s.notices.pending, s.notices.enables, s.notices.mark, s.notices.polarity, s.notices.asserted⟩⟩))

/-- SET_COMMON_POOL, SET_COMMON_CAP, SET_LANE_PROFILE, SET_TIMERS, SET_SUBSTITUTION_GROUP and CLEAR_RESTART_CAUSES
(R49, R104, R105, R135, R141, R186): what each sets, its reply, and when it is refused; nothing else changes. That Set
Common Pool gives BAD_VALUE before IN_USE is the model's choice (log entry 38). -/
def Obligations.PlainSettingsAreReplaced : Prop :=
  ∀ (s : State) (rq : ReqHead),
    (∀ items vu, s.Takes (.setCommonPool rq items vu) →
      (items ≤ 64 → vu ≤ 3200 → items = s.pool.items → vu = s.pool.vu →
        exec (.setCommonPool rq items vu) s = .next (s.answer rq.tag 0x32 ⟨.ok, .none⟩)) ∧
      (items ≤ 64 → vu ≤ 3200 → items ≠ s.pool.items ∨ vu ≠ s.pool.vu →
        (∀ c ∈ s.chutes, c.heldItems = 0 ∧ c.heldVu = 0) →
        exec (.setCommonPool rq items vu) s =
          .next ({ s with pool := ⟨items, vu, items, vu⟩ }.answer rq.tag 0x32 ⟨.ok, .none⟩)) ∧
      (items ≤ 64 → vu ≤ 3200 → items ≠ s.pool.items ∨ vu ≠ s.pool.vu →
        (∃ c ∈ s.chutes, c.heldItems ≠ 0 ∨ c.heldVu ≠ 0) →
        exec (.setCommonPool rq items vu) s = .next (s.answer rq.tag 0x32 ⟨.inUse, .none⟩)) ∧
      (64 < items ∨ 3200 < vu →
        exec (.setCommonPool rq items vu) s = .next (s.answer rq.tag 0x32 ⟨.badValue, .none⟩))) ∧
    (∀ b items vu, s.Takes (.setCommonCap rq b items vu) →
      ((b = none ∨ ∃ n, b = some n ∧ 1 ≤ n ∧ n ≤ 12) → items ≤ 64 → vu ≤ 3200 →
        exec (.setCommonCap rq b items vu) s =
          .next ({ s with chutes := s.chutes.map (fun c : Chute =>
            if b = none ∨ b = some c.bench then { c with capItems := items, capVu := vu } else c) }.answer rq.tag 0x33
              ⟨.ok, .none⟩)) ∧
      ((∃ n, b = some n ∧ (n = 0 ∨ 12 < n)) ∨ 64 < items ∨ 3200 < vu →
        exec (.setCommonCap rq b items vu) s = .next (s.answer rq.tag 0x33 ⟨.badValue, .none⟩))) ∧
    (∀ lane v, s.Takes (.setLaneProfile rq lane v) →
      (1 ≤ lane → lane ≤ 6 → (∀ b ∈ v, 1 ≤ b ∧ b ≤ 12) →
        exec (.setLaneProfile rq lane v) s =
          .next ({ s with lanes := s.lanes.map (fun l : Lane =>
            if l.number = lane then { l with vector := benchSetOf v } else l) }.answer rq.tag 0x34 ⟨.ok, .none⟩) ∧
        ∀ b, benchIn (benchSetOf v) b = decide (b ∈ v)) ∧
      (lane = 0 ∨ 6 < lane ∨ (∃ b ∈ v, b = 0 ∨ 12 < b) →
        exec (.setLaneProfile rq lane v) s = .next (s.answer rq.tag 0x34 ⟨.badValue, .none⟩))) ∧
    (∀ d m p r : Option Nat, s.Takes (.setTimers rq d m p r) →
      ((∀ n, d = some n → 10 ≤ n ∧ n ≤ 120) → (∀ n, m = some n → 5 ≤ n ∧ n ≤ 240) →
        (∀ n, p = some n → 1 ≤ n ∧ n ≤ 30) → (∀ n, r = some n → 1 ≤ n ∧ n ≤ 30) →
        let t : Timers := ⟨d.getD s.timers.dwellBudget, m.getD s.timers.shortageLimit, p.getD s.timers.placementLimit,
          r.getD s.timers.restartWait⟩
        exec (.setTimers rq d m p r) s = .next ({ s with timers := t }.answer rq.tag 0x37 ⟨.ok, .timers t⟩)) ∧
      ((∃ n, d = some n ∧ (n < 10 ∨ 120 < n)) ∨ (∃ n, m = some n ∧ (n < 5 ∨ 240 < n)) ∨
        (∃ n, p = some n ∧ (n < 1 ∨ 30 < n)) ∨ (∃ n, r = some n ∧ (n < 1 ∨ 30 < n)) →
        exec (.setTimers rq d m p r) s = .next (s.answer rq.tag 0x37 ⟨.badValue, .none⟩))) ∧
    (∀ g n skus, s.Takes (.setSubstitutionGroup rq g n skus) →
      (n = skus.length → 1 ≤ g → g ≤ 31 → skus.length ≤ 6 → (∀ k ∈ skus, 1 ≤ k ∧ k ≤ 16777214) → skus.Nodup →
        exec (.setSubstitutionGroup rq g n skus) s =
          .next ({ s with groups := s.groups.map (fun x : Group =>
            if x.number = g then { x with skus := skus } else x) }.answer rq.tag 0x38 ⟨.ok, .group (s.alternates g)⟩)) ∧
      (n = skus.length → 1 ≤ g → g ≤ 31 → skus.length ≤ 6 → (∀ k ∈ skus, 1 ≤ k ∧ k ≤ 16777214) → ¬skus.Nodup →
        exec (.setSubstitutionGroup rq g n skus) s = .next (s.answer rq.tag 0x38 ⟨.duplicate, .none⟩)) ∧
      (n = skus.length → g = 0 ∨ 31 < g ∨ 6 < skus.length ∨ (∃ k ∈ skus, k = 0 ∨ 16777214 < k) →
        exec (.setSubstitutionGroup rq g n skus) s = .next (s.answer rq.tag 0x38 ⟨.badValue, .none⟩)) ∧
      (n ≠ skus.length →
        exec (.setSubstitutionGroup rq g n skus) s = .next (s.answer rq.tag 0x38 ⟨.badLength, .none⟩))) ∧
    (s.Takes (.clearRestartCauses rq) → exec (.clearRestartCauses rq) s =
      .next ({ s with cell := { s.cell with causes := ⟨false, false, false, false⟩ } }.answer rq.tag 0x0A
        ⟨.ok, .causes s.cell.causes⟩))

/-- SET_FAULT_MAP, SET_COUNTER_SELECT, CLEAR_FAULT_RECORDS and CLEAR_COUNTER (R172, R173, R174): what each sets, its
reply, and when it is refused; nothing else changes, the cell state included. That Set Counter Select judges the ranges
before a code named twice is the model's choice (log entry 38); that it carries its codes as a list is DEDUCED (log entry
40). -/
def Obligations.MonitorRequestsTakeEffect : Prop :=
  ∀ (s : State) (rq : ReqHead),
    (∀ (es : List MapField) (a0 a1 a2 : Option FaultAction), s.Takes (.setFaultMap rq es.length es a0 a1 a2) →
      rq.valueOk = true → es.length ≤ 17 →
      (∀ f ∈ es, 1 ≤ f.code ∧ f.code ≤ 17 ∧ f.severity ≤ 2) →
      ((es.map (·.code)).Nodup →
        let act (k : Nat) : Option FaultAction :=
          if k = 0 then a0 else if k = 1 then a1 else if k = 2 then a2 else none
        let m : FaultMonitor := { s.faults with
          map := s.faults.map.map (fun e : MapEntry =>
            ((es.find? (fun f => f.code == e.kind.code)).map
              (fun f => { e with enabled := f.enable, severity := f.severity })).getD e)
          severities := s.faults.severities.map (fun v : Severity => { v with action := (act v.number).getD v.action }) }
        exec (.setFaultMap rq es.length es a0 a1 a2) s = .next ({ s with faults := m }.answer rq.tag 0x50
          ⟨.ok, .faultMap m.map (m.severities.map Severity.action)⟩)) ∧
      (¬(es.map (·.code)).Nodup →
        exec (.setFaultMap rq es.length es a0 a1 a2) s = .next (s.answer rq.tag 0x50 ⟨.duplicate, .none⟩))) ∧
    (∀ (n : Nat) (es : List MapField) (a0 a1 a2 : Option FaultAction), s.Takes (.setFaultMap rq n es a0 a1 a2) →
      (n ≠ es.length →
        exec (.setFaultMap rq n es a0 a1 a2) s = .next (s.answer rq.tag 0x50 ⟨.badLength, .none⟩)) ∧
      (n = es.length → rq.valueOk = false ∨ 17 < n ∨ (∃ f ∈ es, f.code = 0 ∨ 17 < f.code ∨ 2 < f.severity) →
        exec (.setFaultMap rq n es a0 a1 a2) s = .next (s.answer rq.tag 0x50 ⟨.badValue, .none⟩))) ∧
    (∀ n codes, s.Takes (.setCounterSelect rq n codes) →
      (∀ c, s.counter? n = some c → 1 ≤ n → n ≤ 2 → (∀ k ∈ codes, 1 ≤ k ∧ k ≤ 17) → codes.Nodup →
        exec (.setCounterSelect rq n codes) s = .next ({ s with faults := { s.faults with
          counters := s.faults.counters.map (fun c : Counter =>
            if c.number = n then { c with select := kindSetOf codes } else c) } }.answer rq.tag 0x51
              ⟨.ok, .kinds c.select⟩) ∧
        ∀ k : FaultKind, kindIn (kindSetOf codes) k = decide (k.code ∈ codes)) ∧
      (1 ≤ n → n ≤ 2 → (∀ k ∈ codes, 1 ≤ k ∧ k ≤ 17) → ¬codes.Nodup →
        exec (.setCounterSelect rq n codes) s = .next (s.answer rq.tag 0x51 ⟨.duplicate, .none⟩)) ∧
      (n = 0 ∨ 2 < n ∨ (∃ k ∈ codes, k = 0 ∨ 17 < k) →
        exec (.setCounterSelect rq n codes) s = .next (s.answer rq.tag 0x51 ⟨.badValue, .none⟩))) ∧
    (∀ n : Option Nat, s.Takes (.clearFaultRecords rq n) →
      ((n = none ∨ ∃ k, n = some k ∧ k ≤ 2) →
        exec (.clearFaultRecords rq n) s = .next ({ s with faults := { s.faults with
          severities := s.faults.severities.map (fun v : Severity =>
            if n = none ∨ n = some v.number then { v with first := none, latest := none } else v)
          seen := 0 } }.answer rq.tag 0x53 ⟨.ok, .none⟩)) ∧
      (∀ k, n = some k → 2 < k →
        exec (.clearFaultRecords rq n) s = .next (s.answer rq.tag 0x53 ⟨.badValue, .none⟩))) ∧
    (∀ n, s.Takes (.clearCounter rq n) →
      (∀ c, s.counter? n = some c → 1 ≤ n → n ≤ 2 →
        exec (.clearCounter rq n) s = .next ({ s with faults := { s.faults with
          counters := s.faults.counters.map (fun c : Counter =>
            if c.number = n then { c with value := 0, overflow := false } else c) } }.answer rq.tag 0x55
              ⟨.ok, .counter c.value c.overflow⟩)) ∧
      (n = 0 ∨ 2 < n → exec (.clearCounter rq n) s = .next (s.answer rq.tag 0x55 ⟨.badValue, .none⟩)))

/-- SET_NOTICE_ENABLE, SET_ATTENTION_POLARITY and ACKNOWLEDGE_NOTICES (R193): what each sets, with the reply that carries
it as it stood, and when it is refused; nothing else changes. -/
def Obligations.NoticeRequestsTakeEffect : Prop :=
  ∀ (s : State) (rq : ReqHead),
    (∀ v : BitVec 16, s.Takes (.setNoticeEnable rq v) →
      (v.toNat < 2048 → exec (.setNoticeEnable rq v) s =
        .next ({ s with notices := { s.notices with enables := v.setWidth 11 } }.answer rq.tag 0x58
          ⟨.ok, .noticeSet s.notices.enables⟩)) ∧
      (2048 ≤ v.toNat → exec (.setNoticeEnable rq v) s = .next (s.answer rq.tag 0x58 ⟨.badValue, .none⟩))) ∧
    (∀ p, s.Takes (.setAttentionPolarity rq p) →
      (rq.valueOk = true → exec (.setAttentionPolarity rq p) s =
        .next ({ s with notices := { s.notices with polarity := p } }.answer rq.tag 0x59
          ⟨.ok, .polarity s.notices.polarity⟩)) ∧
      (rq.valueOk = false → exec (.setAttentionPolarity rq p) s =
        .next (s.answer rq.tag 0x59 ⟨.badValue, .none⟩))) ∧
    (∀ v : BitVec 16, s.Takes (.acknowledgeNotices rq v) →
      (v.toNat < 2048 → ∃ n : Notices,
        exec (.acknowledgeNotices rq v) s =
          .next ({ s with notices := n }.answer rq.tag 0x5B ⟨.ok, .noticeSet s.notices.pending⟩) ∧
        (∀ f : NoticeFlag, flagIn n.pending f = (flagIn s.notices.pending f && !v.getLsbD f.number)) ∧
        n.mark = (s.notices.mark && !v.getLsbD 9) ∧ { n with pending := s.notices.pending, mark := s.notices.mark } =
          s.notices) ∧
      (2048 ≤ v.toNat → exec (.acknowledgeNotices rq v) s = .next (s.answer rq.tag 0x5B ⟨.badValue, .none⟩)))

/-- SET_CLOCK (R29, R32) and WAVE_CUT (R29). The minute is set with the clock-set flag, the reply carries both as they
stood, and the cutoff check runs for every wave: PLANNED and CUT waves stand CUT exactly when their cutoff is reached.
Every LOADED, BUILDING, HELD or COMPLETE order of a wave that was PLANNED and is CUT is OVERDUE; WAVE_CUT is raised if
there is such a wave, and ORDER_OVERDUE if and only if such an order was not marked before. WAVE_CUT does the same for one
PLANNED wave whose cutoff is reached, and has no effect on another. Nothing else changes. -/
def Obligations.SetClockRunsTheCutoffChecks : Prop :=
  let unsealed (o : Order) : Prop := o.state = .loaded ∨ o.state = .building ∨ o.state = .held ∨ o.state = .complete
  (∀ (s : State) (rq : ReqHead) (m : MinuteField), s.Inv → s.Takes (.setClock rq m) →
    let cut (n : Nat) : Prop := ∃ w ∈ s.waves, w.number = n ∧ w.state = .planned ∧ w.cutoff.getD 0 ≤ m.toNat
    ∃ t : State, exec (.setClock rq m) s = .next (t.answer rq.tag 0x10 ⟨.ok, .clock s.clock.minute s.clock.isSet⟩) ∧
      t.clock = ⟨m.toNat, true⟩ ∧
      t.waves = s.waves.map (fun w => { w with state :=
        if w.state = .planned ∨ w.state = .cut then if w.cutoff.getD 0 ≤ m.toNat then .cut else .planned else w.state }) ∧
      t.book.loadSeq = s.book.loadSeq ∧
      List.Forall₂ (fun o p : Order => { p with overdue := o.overdue } = o ∧
        (p.overdue = true ↔ o.overdue = true ∨ (cut o.wave ∧ unsealed o))) s.book.orders t.book.orders ∧
      ((∀ n, ¬cut n) → t.notices = s.notices) ∧
      ((∃ n, cut n) → (∃ o ∈ s.book.orders, cut o.wave ∧ unsealed o ∧ o.overdue = false) →
        t.notices = (s.notices.raised .waveCut).raised .orderOverdue) ∧
      ((∃ n, cut n) → (∀ o ∈ s.book.orders, cut o.wave → unsealed o → o.overdue = true) →
        t.notices = s.notices.raised .waveCut) ∧
      { t with clock := s.clock, waves := s.waves, book := s.book, notices := s.notices } = s) ∧
  ∀ (s : State) (n : Nat) (w : Wave), s.wave? n = some w →
    let cut : Prop := s.clock.isSet = true ∧ w.state = .planned ∧ w.cutoff.getD 0 ≤ s.clock.minute
    let t (notices : Notices) : State := { s with
      waves := s.waves.map (fun x : Wave => if x.number = n then { x with state := .cut } else x)
      book := { s.book with orders := s.book.orders.map (fun o : Order =>
        if o.wave = n ∧ (o.state = .loaded ∨ o.state = .building ∨ o.state = .held ∨ o.state = .complete) then
          { o with overdue := true } else o) }
      notices := notices }
    (¬cut → exec (.waveCut n) s = .next s) ∧
    (cut → (∃ o ∈ s.book.orders, o.wave = n ∧ unsealed o ∧ o.overdue = false) →
      exec (.waveCut n) s = .next (t ((s.notices.raised .waveCut).raised .orderOverdue))) ∧
    (cut → (∀ o ∈ s.book.orders, o.wave = n → unsealed o → o.overdue = true) →
      exec (.waveCut n) s = .next (t (s.notices.raised .waveCut)))

/-- SET_WAVE (R33, R34) and DEPART_WAVE (R35): the wave's lane and cutoff take the values carried and its state follows
the table, its cutoff check included, with the OVERDUE marks, WAVE_CUT, and ORDER_OVERDUE if and only if an order is newly
marked (R29); a DEPARTED wave still in use is refused with IN_USE. A PLANNED or CUT wave departs with lane and cutoff
kept, and the reply carries its unsealed count. -/
def Obligations.WaveRequestsFollowTheirTables : Prop :=
  ∀ (s : State) (rq : ReqHead),
    (∀ (n lane : Nat) (c : MinuteField) (w : Wave), s.Inv → s.Takes (.setWave rq n lane c) → 1 ≤ n → n ≤ 8 → 1 ≤ lane → lane ≤ 4 →
      s.wave? n = some w →
      let refs := s.book.orders.countP (fun o : Order => decide (o.wave = n ∧ o.state ≠ .dispatched ∧ o.state ≠ .cancelled))
      let st : WaveState :=
        if w.state = .cut then if s.clock.isSet = true ∧ s.clock.minute < c.toNat then .planned else .cut
        else if s.clock.isSet = true ∧ c.toNat ≤ s.clock.minute then .cut else .planned
      (w.state = .departed → 1 ≤ refs →
        exec (.setWave rq n lane c) s = .next (s.answer rq.tag 0x11 ⟨.inUse, .none⟩)) ∧
      (w.state ≠ .departed ∨ refs = 0 →
        ∃ t : State, exec (.setWave rq n lane c) s = .next (t.answer rq.tag 0x11 ⟨.ok, .waveState st⟩) ∧
          t.waves = s.waves.map (fun x : Wave =>
            if x.number = n then { x with state := st, lane := some lane, cutoff := some c.toNat } else x) ∧
          (¬(st = .cut ∧ w.state ≠ .cut) → { t with waves := s.waves } = s) ∧
          (st = .cut → w.state ≠ .cut →
            t.book = { s.book with orders := s.book.orders.map (fun o : Order =>
              if o.wave = n ∧ (o.state = .loaded ∨ o.state = .building ∨ o.state = .held ∨ o.state = .complete) then
                { o with overdue := true } else o) } ∧
            ((∃ o ∈ s.book.orders, o.wave = n ∧ o.overdue = false ∧
                (o.state = .loaded ∨ o.state = .building ∨ o.state = .held ∨ o.state = .complete)) →
              t.notices = (s.notices.raised .waveCut).raised .orderOverdue) ∧
            ((∀ o ∈ s.book.orders, o.wave = n →
                o.state = .loaded ∨ o.state = .building ∨ o.state = .held ∨ o.state = .complete → o.overdue = true) →
              t.notices = s.notices.raised .waveCut)) ∧
          { t with waves := s.waves, book := s.book, notices := s.notices } = s)) ∧
    (∀ (n lane : Nat) (c : MinuteField), s.Takes (.setWave rq n lane c) → n = 0 ∨ 8 < n ∨ lane = 0 ∨ 4 < lane →
      exec (.setWave rq n lane c) s = .next (s.answer rq.tag 0x11 ⟨.badValue, .none⟩)) ∧
    (∀ (n : Nat) (w : Wave), s.Takes (.departWave rq n) → 1 ≤ n → n ≤ 8 → s.wave? n = some w →
      let unsealed : Nat := s.book.orders.countP (fun o => decide (o.wave = n ∧ (o.state = .loaded ∨ o.state = .building ∨
        o.state = .held ∨ o.state = .complete)))
      (w.state = .unused → exec (.departWave rq n) s = .next (s.answer rq.tag 0x12 ⟨.wrongState, .none⟩)) ∧
      (w.state ≠ .unused → exec (.departWave rq n) s =
        .next ({ s with waves := s.waves.map (fun x : Wave =>
          if x.number = n then { x with state := .departed } else x) }.answer rq.tag 0x12 ⟨.ok, .unsealed unsealed⟩))) ∧
    (∀ n, s.Takes (.departWave rq n) → n = 0 ∨ 8 < n →
      exec (.departWave rq n) s = .next (s.answer rq.tag 0x12 ⟨.badValue, .none⟩))

/-- SET_TEMPLATE, SET_BENCH_PROFILE and SET_RUSH_FLOOR (R25, R83, R103, R111, R112): what each sets, its reply, and when
it is refused; then the binding pass runs, which the rule asks for, and before it the arbitration where a reserve
changes. That BAD_VALUE goes before IN_USE is the model's choice (log entry 38). -/
def Obligations.BenchSettingsThenBinding : Prop :=
  ∀ (s : State) (rq : ReqHead),
    (∀ n p, s.Takes (.setTemplate rq n p) → 1 ≤ n → n ≤ 8 → planOk p = true →
      exec (.setTemplate rq n p) s = s.replies ({ s with templates := s.templates.map (fun t : Template =>
        if t.number = n then { t with plan := some p } else t) }.bindPass) rq 0x30 .ok .none) ∧
    (∀ n p, s.Takes (.setTemplate rq n p) → n = 0 ∨ 8 < n ∨ planOk p = false →
      exec (.setTemplate rq n p) s = .next (s.answer rq.tag 0x30 ⟨.badValue, .none⟩)) ∧
    (∀ p : TemplatePlan, planOk p = true ↔ 1 ≤ p.sizeClass ∧ p.sizeClass ≤ 4 ∧ 1 ≤ p.massLimit ∧ p.massLimit ≤ 30000 ∧
      (∀ z ∈ [p.base, p.middle, p.top], z.slots ≤ 16 ∧ z.capacity ≤ 1000) ∧ p.pocket.slots ≤ 8 ∧
      p.pocket.capacity ≤ 1000 ∧ 1 ≤ p.base.slots + p.middle.slots + p.top.slots + p.pocket.slots ∧
      p.base.slots + p.middle.slots + p.top.slots + p.pocket.slots ≤ 48) ∧
    (∀ (b : Nat) (ch hv : Option Bool) (lg it vu : Option Nat) (c : Chute),
      s.Takes (.setBenchProfile rq b ch hv lg it vu) → rq.valueOk = true → 1 ≤ b → b ≤ 12 →
      (∀ n, lg = some n → 1 ≤ n ∧ n ≤ 4) → (∀ n, it = some n → n ≤ 8) → (∀ n, vu = some n → n ≤ 400) →
      s.chute? b = some c →
      let changes : Prop := it.getD c.reserveItems ≠ c.reserveItems ∨ vu.getD c.reserveVu ≠ c.reserveVu
      let held : Prop := ∃ i ∈ s.items, i.hold = .chute b ∨ i.hold = .both b
      let able : State := { s with benches := s.benches.map (fun x : Bench =>
        if x.number = b then
          { x with
            chilledCapable := ch.getD x.chilledCapable
            heavyCapable := hv.getD x.heavyCapable
            largestSize := lg.getD x.largestSize }
        else x) }
      (changes → held →
        exec (.setBenchProfile rq b ch hv lg it vu) s = .next (s.answer rq.tag 0x31 ⟨.inUse, .none⟩)) ∧
      (changes → ¬held →
        exec (.setBenchProfile rq b ch hv lg it vu) s = s.replies
          (({ able with chutes := s.chutes.map (fun x : Chute =>
            if x.bench = b then
              { x with
                reserveItems := it.getD x.reserveItems
                reserveVu := vu.getD x.reserveVu
                freeItems := it.getD x.reserveItems
                freeVu := vu.getD x.reserveVu }
            else x) }.arbitrate).bindPass) rq 0x31 .ok .none) ∧
      (¬changes → exec (.setBenchProfile rq b ch hv lg it vu) s = s.replies able.bindPass rq 0x31 .ok .none)) ∧
    (∀ (b : Nat) (ch hv : Option Bool) (lg it vu : Option Nat), s.Takes (.setBenchProfile rq b ch hv lg it vu) →
      rq.valueOk = false ∨ b = 0 ∨ 12 < b ∨ (∃ n, lg = some n ∧ (n < 1 ∨ 4 < n)) ∨ (∃ n, it = some n ∧ 8 < n) ∨
        (∃ n, vu = some n ∧ 400 < n) →
      exec (.setBenchProfile rq b ch hv lg it vu) s = .next (s.answer rq.tag 0x31 ⟨.badValue, .none⟩)) ∧
    (∀ n, s.Takes (.setRushFloor rq n) → n ≤ 3 →
      (s.rushFloor ≤ n → exec (.setRushFloor rq n) s =
        .next ({ s with rushFloor := n }.answer rq.tag 0x39 ⟨.ok, .rushFloor s.rushFloor⟩)) ∧
      (n < s.rushFloor → exec (.setRushFloor rq n) s =
        s.replies ({ s with rushFloor := n }.bindPass) rq 0x39 .ok (.rushFloor s.rushFloor))) ∧
    (∀ n, s.Takes (.setRushFloor rq n) → 3 < n →
      exec (.setRushFloor rq n) s = .next (s.answer rq.tag 0x39 ⟨.badValue, .none⟩))

/-- SET_ADMISSION_SCHEDULE and SET_LOOP (R54, R55): what each sets, its reply, and when it is refused; then admission is
tried. A loop capacity carried while the loop is not empty is refused with IN_USE, and nothing is set. That BAD_LENGTH
goes before BAD_VALUE and that before IN_USE is the model's choice (log entry 38). -/
def Obligations.LoopSettingsThenAdmission : Prop :=
  ∀ (s : State) (rq : ReqHead),
    (∀ es : List Nat, s.Takes (.setAdmissionSchedule rq es) →
      (es.length = 32 → (∀ e ∈ es, e ≤ 6) → exec (.setAdmissionSchedule rq es) s = s.replies
        ({ s with admission := { s.admission with schedule := es, pointer := 0 } }.tryAdmit) rq 0x35 .ok .none) ∧
      (es.length ≠ 32 → exec (.setAdmissionSchedule rq es) s = .next (s.answer rq.tag 0x35 ⟨.badLength, .none⟩)) ∧
      (es.length = 32 → (∃ e ∈ es, 6 < e) →
        exec (.setAdmissionSchedule rq es) s = .next (s.answer rq.tag 0x35 ⟨.badValue, .none⟩))) ∧
    (∀ c l : Option Nat, s.Takes (.setLoop rq c l) →
      let fits : Prop := (∀ n, c = some n → 1 ≤ n ∧ n ≤ 32) ∧ (∀ n, l = some n → 1 ≤ n ∧ n ≤ 15)
      (fits → c = none ∨ s.occupancy = 0 → exec (.setLoop rq c l) s = s.replies
        ({ s with loop := ⟨c.getD s.loop.capacity, l.getD s.loop.lapLimit⟩ }.tryAdmit) rq 0x36 .ok .none) ∧
      (fits → c ≠ none → s.occupancy ≠ 0 →
        exec (.setLoop rq c l) s = .next (s.answer rq.tag 0x36 ⟨.inUse, .none⟩)) ∧
      (¬fits → exec (.setLoop rq c l) s = .next (s.answer rq.tag 0x36 ⟨.badValue, .none⟩)))

/-- SET_DISPATCH_LANE and CAGE_SWAPPED (R156, R158, R160): the lane's capacity and match count, or its cage count, take
their values; the full flag is judged and the lane is served, and the reply carries the lane after that (DEDUCED, log
entry 20), or the count before it. The judging sets the flag exactly while the lane has no room, and going from
clear to set it raises CAGE_FULL and reports the fault with the lane, the bench and the order slot of the Release that set
it, where one did, and the capacity as detail; nothing else changes. -/
def Obligations.DispatchRequestsJudgeAndServe : Prop :=
  (∀ (s : State) (n : Nat) (release : Option (Nat × Nat)),
    let set : State := { s with dispatch := s.dispatch.map (fun c : DispatchLane => if c.number = n then
      { c with full := decide (c.capacity ≤ c.count + c.inFlight) } else c) }
    (s.dispatchLane? n = none → s.judgeFull n release = s) ∧
    ∀ d, s.dispatchLane? n = some d →
      (d.full = false → d.capacity ≤ d.count + d.inFlight →
        s.judgeFull n release = { set with notices := s.notices.raised .cageFull : State }.raiseFault .cageFull
          ⟨none, release.map (·.2), release.map (·.1), some n, none⟩ d.capacity) ∧
      (d.full = true ∨ d.count + d.inFlight < d.capacity → s.judgeFull n release = set)) ∧
  ∀ (s : State) (rq : ReqHead), s.Inv →
    (∀ (n : Nat) (c m : Option Nat), s.Takes (.setDispatchLane rq n c m) → 1 ≤ n → n ≤ 4 → (∀ k, c = some k → 1 ≤ k ∧ k ≤ 40) →
      (∀ k, m = some k → k ≤ 40) →
      let set : State := { s with dispatch := s.dispatch.map (fun d : DispatchLane =>
        if d.number = n then { d with capacity := c.getD d.capacity, matchCount := m.getD d.matchCount } else d) }
      let u := (set.judgeFull n none).serveLane n
      ∃ d, u.dispatchLane? n = some d ∧
        exec (.setDispatchLane rq n c m) s = s.replies u rq 0x3A .ok (.dispatchLane d)) ∧
    (∀ (n : Nat) (c m : Option Nat), s.Takes (.setDispatchLane rq n c m) →
      n = 0 ∨ 4 < n ∨ (∃ k, c = some k ∧ (k < 1 ∨ 40 < k)) ∨ (∃ k, m = some k ∧ 40 < k) →
      exec (.setDispatchLane rq n c m) s = .next (s.answer rq.tag 0x3A ⟨.badValue, .none⟩)) ∧
    (∀ (n : Nat) (d : DispatchLane), s.Takes (.cageSwapped rq n) → 1 ≤ n → n ≤ 4 → s.dispatchLane? n = some d →
      let set : State := { s with dispatch := s.dispatch.map (fun d : DispatchLane =>
        if d.number = n then { d with count := 0 } else d) }
      exec (.cageSwapped rq n) s = s.replies ((set.judgeFull n none).serveLane n) rq 0x40 .ok (.cageCount d.count)) ∧
    (∀ n, s.Takes (.cageSwapped rq n) → n = 0 ∨ 4 < n →
      exec (.cageSwapped rq n) s = .next (s.answer rq.tag 0x40 ⟨.badValue, .none⟩))

/-! ### Requests on orders -/

/-- LOAD_ORDER (R14, with R1, R3 and R4): the checks in their order, and the order put in the lowest FREE slot as the
rule fills it, with OVERDUE and ORDER_OVERDUE where its wave is CUT; then the binding pass. -/
def Obligations.LoadOrderChecksThenLoads : Prop :=
  ∀ (s : State) (tag : Byte) (body : List Byte), s.Takes (.loadOrder tag body) →
    let f := LoadFields.read body
    let answers (st : Status) : Prop := exec (.loadOrder tag body) s = .next (s.answer tag 0x20 ⟨st, .none⟩)
    let ranges : Prop := 1 ≤ f.ref ∧ f.ref ≤ 4294967294 ∧ f.priority ≤ 3 ∧ 1 ≤ f.wave ∧ f.wave ≤ 8 ∧ 1 ≤ f.template ∧
      f.template ≤ 8 ∧ 1 ≤ f.lines.length ∧ f.lines.length ≤ 24 ∧
      (∀ l ∈ f.lines, 1 ≤ l.sku ∧ l.sku ≤ 16777214 ∧ classOfCode l.cls ≠ none ∧ 1 ≤ l.required ∧ l.required ≤ 12 ∧
        l.group ≤ 31) ∧ (f.lines.map (·.required)).sum ≤ 96
    let twice : Prop := (∃ o ∈ s.book.orders, o.ref = f.ref) ∨ ¬(f.lines.map (·.sku)).Nodup
    let shut : Prop := s.cell.state = .restarting ∨ s.waveState f.wave = .unused ∨ s.waveState f.wave = .departed ∨
      s.plan? f.template = none
    let full : Prop := (∀ k < 64, s.order? k ≠ none) ∨
      640 - (s.book.orders.map (fun o => o.lines.length)).sum < f.lines.length
    (¬ranges → answers .badValue) ∧ (ranges → twice → answers .duplicate) ∧
    (ranges → ¬twice → shut → answers .wrongState) ∧ (ranges → ¬twice → ¬shut → full → answers .noRoom) ∧
    (ranges → ¬twice → ¬shut → ¬full → ∃ slot < 64, s.order? slot = none ∧ (∀ k < slot, s.order? k ≠ none) ∧
      let o : Order :=
        { slot := slot
          ref := f.ref
          loadSeq := s.book.loadSeq
          priority := f.priority
          wave := f.wave
          template := f.template
          state := .loaded
          held := false
          bench := none
          overdue := decide (s.waveState f.wave = .cut)
          late := false
          topGate := none
          fragileBegun := false
          withdrawals := 0
          lines := f.lines.map (fun l =>
            ⟨l.sku, (classOfCode l.cls).getD .ambient, l.required, 0, 0, 0, l.group, .opened, false, s.clock.minute⟩)
          sealMinute := none
          dispatchLane := none }
      let t : State := { s with
        book := ⟨insertBy Order.slot o s.book.orders, (s.book.loadSeq + 1) % 65536⟩
        notices := if s.waveState f.wave = .cut then s.notices.raised .orderOverdue else s.notices }
      exec (.loadOrder tag body) s = s.replies t.bindPass ⟨tag, true, true⟩ 0x20 .ok (.slot slot))

/-- Amend Order (R15 to R18): each change kind, its refusals in their order, what it changes of the order, and what runs
after it: the gate and the completion check, and the binding pass where the order is on the waiting list. That SET_WAVE to
a CUT wave raises ORDER_OVERDUE also for an order already marked is DEDUCED (log entry 17), and so is that the last line
that Remove Line refuses is the only line (log entry 26). Where several cases of refusal hold at once, the first that R15,
R16 and R17 list gives the status: the model's choice, since they state no order (log entry 38). -/
def Obligations.AmendOrderFollowsItsRules : Prop :=
  ∀ (s : State) (rq : ReqHead) (ref : Nat) (o : Order), s.Inv → rq.valueOk = true →
    o.state = .loaded ∨ o.state = .building ∨ o.state = .held →
    let answers (c : Instr) (st : Status) (b : ReplyBody) : Prop :=
      exec c s = .next (s.answer rq.tag 0x21 ⟨st, b⟩)
    let total : Nat := (o.lines.map (·.required)).sum
    let heavyShut : Prop := o.fragileBegun = true ∨ ∃ b h, o.bench = some b ∧ s.hamper? b = some h ∧ h.baseClosed = true
    let waiting : Prop := o.state = .loaded ∧ o.held = false ∧ o.bench = none
    let checks (t : State) : State := (t.recomputeGate o.slot).completionCheck o.slot
    (∀ n q, 1 ≤ n → n ≤ 24 → 1 ≤ q → q ≤ 12 →
      let c : Instr := .setQuantity rq ref n q
      s.Names c ref o →
      (o.lines[n - 1]? = none → answers c .notFound .none) ∧
      ∀ l, o.lines[n - 1]? = some l →
        (l.state = .closed → answers c .wrongState (.slot o.slot)) ∧
        (l.state ≠ .closed → q < l.committed ∨ 96 < total - l.required + q → answers c .badValue .none) ∧
        (l.state ≠ .closed → l.committed ≤ q → total - l.required + q ≤ 96 →
          (l.cls = .heavy → l.required < q → heavyShut → answers c .wrongState (.slot o.slot)) ∧
          (¬(l.cls = .heavy ∧ l.required < q ∧ heavyShut) →
            let t := s.withOrder (o.withLine n { l with
              required := q
              state := if l.committed = q then .filled
                else if l.state = .filled then if l.shortMark = true then .short else .opened else l.state })
            exec c s = s.replies (if waiting then t.bindPass else checks t) rq 0x21 .ok (.slot o.slot)))) ∧
    (∀ k cls q g kc, lineFieldsOk k cls q g = true → classOfCode cls = some kc →
      let c : Instr := .addLine rq ref k cls q g
      s.Names c ref o →
      let lacks : Prop := ∃ b x, o.bench = some b ∧ s.bench? b = some x ∧
        (kc = .chilled ∧ x.chilledCapable = false ∨ kc = .heavy ∧ x.heavyCapable = false)
      ((∃ l ∈ o.lines, l.sku = k) → answers c .duplicate (.slot o.slot)) ∧
      ((∀ l ∈ o.lines, l.sku ≠ k) →
        (24 ≤ o.lines.length ∨ 96 < total + q → answers c .badValue .none) ∧
        (o.lines.length < 24 → total + q ≤ 96 →
          (lacks ∨ kc = .heavy ∧ heavyShut → answers c .wrongState (.slot o.slot)) ∧
          (¬(lacks ∨ kc = .heavy ∧ heavyShut) →
            (640 ≤ (s.book.orders.map (fun p => p.lines.length)).sum → answers c .noRoom (.slot o.slot)) ∧
            ((s.book.orders.map (fun p => p.lines.length)).sum < 640 →
              let t := s.withOrder { o with lines := o.lines ++
                [⟨k, kc, q, 0, 0, 0, g, .opened, false, s.clock.minute⟩] }
              exec c s = s.replies (if waiting then t.bindPass else t.recomputeGate o.slot) rq 0x21 .ok
                (.slot o.slot)))))) ∧
    (∀ n, 1 ≤ n → n ≤ 24 →
      let c : Instr := .removeLine rq ref n
      s.Names c ref o →
      (o.lines[n - 1]? = none → answers c .notFound .none) ∧
      ∀ l, o.lines[n - 1]? = some l →
        (l.committed ≠ 0 → answers c .inUse (.slot o.slot)) ∧
        (l.committed = 0 → o.lines.length = 1 → answers c .badValue .none) ∧
        (l.committed = 0 → o.lines.length ≠ 1 →
          let t : State := { s.withOrder { o with lines := o.lines.eraseIdx (n - 1) } with
            items := s.items.map (fun i : Item => { i with alloc := i.alloc.map (fun a : Alloc =>
              if a.slot = o.slot ∧ n < a.line then { a with line := a.line - 1 } else a) }) }
          exec c s = s.replies (if waiting then t.bindPass else checks t) rq 0x21 .ok (.slot o.slot))) ∧
    (∀ p, p ≤ 3 → s.Names (.setPriority rq ref p) ref o →
      let t := s.withOrder { o with priority := p }
      exec (.setPriority rq ref p) s = s.replies (if waiting then t.bindPass else t) rq 0x21 .ok (.slot o.slot)) ∧
    ∀ w, 1 ≤ w → w ≤ 8 →
      let c : Instr := .amendSetWave rq ref w
      s.Names c ref o →
      (s.waveState w = .unused ∨ s.waveState w = .departed → answers c .wrongState (.slot o.slot)) ∧
      (s.waveState w = .planned ∨ s.waveState w = .cut →
        (w = o.wave → answers c .ok (.slot o.slot)) ∧
        (w ≠ o.wave →
          let t : State := { s.withOrder { o with wave := w, overdue := o.overdue || s.waveState w == .cut } with
            notices := if s.waveState w = .cut then s.notices.raised .orderOverdue else s.notices }
          exec c s = s.replies (if waiting then t.bindPass else t) rq 0x21 .ok (.slot o.slot)))

/-- HOLD_ORDER and RESUME_ORDER by the table of R19, and RETIRE_ORDER (R22): the order's state and held field, and what
runs after; nothing else changes. -/
def Obligations.HoldResumeRetireFollowTheirTables : Prop :=
  ∀ (s : State) (rq : ReqHead) (ref : Nat) (o : Order), s.Inv →
    (s.Names (.holdOrder rq ref) ref o →
      let holds (t : State) : Prop := exec (.holdOrder rq ref) s = .next (t.answer rq.tag 0x22 ⟨.ok, .slot o.slot⟩)
      (o.state = .loaded → holds (s.withOrder { o with held := true })) ∧
      (o.state = .building → holds (s.withOrder { o with state := .held, held := true })) ∧
      (o.state = .held → holds s)) ∧
    (s.Names (.resumeOrder rq ref) ref o →
      let resumes (t : State) : Prop := exec (.resumeOrder rq ref) s = s.replies t rq 0x23 .ok (.slot o.slot)
      (o.state = .loaded → o.bench = none → o.held = true → resumes (s.withOrder { o with held := false }).bindPass) ∧
      (o.state = .loaded → o.bench ≠ none ∨ o.held = false → resumes (s.withOrder { o with held := false })) ∧
      (o.state = .building → resumes s) ∧
      (o.state = .held → resumes
        ((s.withOrder { o with state := .building, held := false }).completionCheck o.slot).arbitrate)) ∧
    (s.Names (.retireOrder rq ref) ref o → o.state = .dispatched ∨ o.state = .cancelled →
      let t : State := { s with book := { s.book with orders := s.book.orders.filter (fun p => decide (p.slot ≠ o.slot)) } }
      exec (.retireOrder rq ref) s = .next (t.answer rq.tag 0x25 ⟨.ok, .slot o.slot⟩) ∧
        (∀ p ∈ t.book.orders, p.slot ≠ o.slot) ∧
        (s.book.orders.map (fun p => p.lines.length)).sum = o.lines.length + (t.book.orders.map (fun p => p.lines.length)).sum)

/-- CANCEL_ORDER (R20): SEALED and DISPATCHED orders are refused, CANCELLING and CANCELLED ones stay; a LOADED order that
is not bound becomes CANCELLED with ORDER_CANCELLED raised; any other order enters CANCELLING: held clear, Unpack sent to
its bench, its items outside the hamper released (line, hamper, item record and gate, R80) and withdrawn by their location, in rising
tag (log entry 18), the pending withdrawals counted, and the arbitration run. That an unbound LOADED order keeps its held
field is DEDUCED (log entry 31). -/
def Obligations.CancelOrderWithdrawsItsItems : Prop :=
  ∀ (s : State) (rq : ReqHead) (ref : Nat) (o : Order), s.Inv → s.Names (.cancelOrder rq ref) ref o →
    (o.state = .sealed ∨ o.state = .dispatched →
      exec (.cancelOrder rq ref) s = .next (s.answer rq.tag 0x24 ⟨.wrongState, .slot o.slot⟩)) ∧
    (o.state = .cancelling ∨ o.state = .cancelled →
      exec (.cancelOrder rq ref) s = .next (s.answer rq.tag 0x24 ⟨.ok, .slot o.slot⟩)) ∧
    (o.state = .loaded → o.bench = none → exec (.cancelOrder rq ref) s =
      .next ({ s.withOrder { o with state := .cancelled } with notices := s.notices.raised .orderCancelled }.answer rq.tag
        0x24 ⟨.ok, .slot o.slot⟩)) ∧
    (∀ b x, o.state = .loaded ∨ o.state = .building ∨ o.state = .held ∨ o.state = .complete → o.bench = some b →
      s.bench? b = some x →
      let mine (i : Item) : Prop := ∃ a, i.alloc = some a ∧ a.slot = o.slot
      ∃ u : State, exec (.cancelOrder rq ref) s = s.replies u rq 0x24 .ok (.slot o.slot) ∧
        (∃ p, u.order? o.slot = some p ∧ p.state = .cancelling ∧ p.held = false ∧
          p.withdrawals = s.items.countP (fun i => i.allocatedTo o.slot && (i.location == .inChute ||
            i.location == .bufferToChute))) ∧
        (∃ y, u.bench? b = some y ∧ y.state = .unpacking ∧ y.unpacked = false) ∧
        (FieldUnit.bench b, OutRecord.unpack) ∈ u.bus.sent.drop s.bus.sent.length ∧
        (∀ i ∈ s.items, mine i → i.location ≠ .inHamper → ∃ j, u.item? i.tag = some j ∧ j.alloc = none) ∧
        (∀ i ∈ s.items, mine i → i.location = .inHamper →
          ∃ j, u.item? i.tag = some j ∧ { j with wait := i.wait } = i) ∧
        (∀ i ∈ s.items, mine i → i.location = .onLoop → ∃ j, u.item? i.tag = some j ∧ j.dest = some .exception ∧
          (FieldUnit.sorter, OutRecord.route i.tag (some .exception)) ∈ u.bus.sent.drop s.bus.sent.length) ∧
        (∀ i ∈ s.items, mine i → i.location = .bufferToChute ∨ i.location = .inChute →
          ∃ j, u.item? i.tag = some j ∧ j.withdrawal = some o.slot) ∧
        (∀ i ∈ s.items, mine i → i.location = .inChute → (∀ m, i.outstanding ≠ .ret m) →
          (FieldUnit.bench (i.locBench.getD 0), OutRecord.ret i.tag) ∈ u.bus.sent.drop s.bus.sent.length ∧
          ∃ j, u.item? i.tag = some j ∧ j.outstanding = .ret s.clock.minute) ∧
        let item (t : State) (tag : Nat) (f : Item → Item) : State :=
          { t with items := t.items.map (fun j : Item => if j.tag = tag then f j else j) }
        let released (t : State) (i : Item) (a : Alloc) : State := item { t with
          book := { t.book with orders := t.book.orders.map (fun p : Order => if p.slot = a.slot then
            { p with lines := p.lines.modify (a.line - 1) (fun l : Line => { l with
              committed := l.committed - 1
              substituted := l.substituted - (if a.rank = 0 then 0 else 1) }.settled) } else p) }
          benches := t.benches.map (fun y : Bench => if y.number = a.bench then
            { y with hamper := y.hamper.map (Hamper.vacate a.zone a.slotNo i.mass i.vu) } else y) } i.tag
          (fun j => { j with alloc := none, wait := .none })
        let withdraws (t : State) (tag : Nat) (v : State) : Prop := ∀ i a, t.item? tag = some i → i.alloc = some a →
          let r := released t i a
          let g := if t.lineHeavy a.slot a.line then r.setGate o.slot else r
          (i.location = .onLoop →
            v = (item g tag (fun j => { j with dest := some .exception })).withSent .sorter (.route tag (some .exception))) ∧
          (i.location = .inChute →
            v = (item g tag (fun j => { j with withdrawal := some o.slot })).sendReturn (i.locBench.getD 0) tag) ∧
          (i.location = .bufferToChute → v = item g tag (fun j => { j with withdrawal := some o.slot })) ∧
          (i.location = .atLane ∨ i.location = .inBuffer ∨ i.location = .inHamper → v = g)
        let tags : List Nat :=
          (s.items.filter (fun i => i.allocatedTo o.slot && !(i.location == .inHamper))).map (·.tag)
        u = s.enterCancelling o.slot ∧
        ∃ v : Nat → State,
          v 0 = { s.withOrder { o with state := .cancelling, held := false } with
            benches := s.benches.map (fun y : Bench => if y.number = b then
              { y with state := .unpacking, unpacked := false } else y)
            bus := { s.bus with sent := s.bus.sent ++ [(.bench b, .unpack)] } } ∧
          (∀ k tag, tags[k]? = some tag → withdraws (v k) tag (v (k + 1))) ∧
          u = ({ v tags.length with book := { (v tags.length).book with
            orders := (v tags.length).book.orders.map (fun p : Order => if p.slot = o.slot then
              { p with withdrawals := s.items.countP (fun i => i.allocatedTo o.slot && (i.location == .inChute ||
                i.location == .bufferToChute)) } else p) } } : State).arbitrate)

/-- DECLARE_SHORT, RESTORE_LINE and CLOSE_LINE (R137 to R139) on a LOADED, BUILDING or HELD order: the line's state, short mark and last progress
minute, what is refused, and the checks that a closed line runs; nothing else changes. -/
def Obligations.LineRequestsFollowTheirTables : Prop :=
  ∀ (s : State) (rq : ReqHead) (ref n : Nat) (o : Order), s.Inv → 1 ≤ n → n ≤ 24 →
    o.state = .loaded ∨ o.state = .building ∨ o.state = .held →
    (s.Names (.declareShort rq ref n) ref o →
      let answers (t : State) (st : Status) (b : ReplyBody) : Prop :=
        exec (.declareShort rq ref n) s = .next (t.answer rq.tag 0x26 ⟨st, b⟩)
      (o.lines[n - 1]? = none → answers s .notFound .none) ∧
      ∀ l, o.lines[n - 1]? = some l →
        (l.state = .opened →
          answers (s.withOrder (o.withLine n { l with state := .short, shortMark := true })) .ok (.slot o.slot)) ∧
        (l.state = .short → answers s .ok (.slot o.slot)) ∧
        (l.state = .filled ∨ l.state = .closed → answers s .wrongState (.slot o.slot))) ∧
    (s.Names (.restoreLine rq ref n) ref o →
      let answers (t : State) (st : Status) (b : ReplyBody) : Prop :=
        exec (.restoreLine rq ref n) s = .next (t.answer rq.tag 0x27 ⟨st, b⟩)
      (o.lines[n - 1]? = none → answers s .notFound .none) ∧
      ∀ l, o.lines[n - 1]? = some l →
        (l.state = .short → answers (s.withOrder (o.withLine n
          { l with state := .opened, shortMark := false, lastProgress := s.clock.minute })) .ok (.slot o.slot)) ∧
        (l.state = .filled → l.shortMark = true → answers (s.withOrder (o.withLine n
          { l with shortMark := false, lastProgress := s.clock.minute })) .ok (.slot o.slot)) ∧
        (l.state = .opened ∨ l.state = .filled ∧ l.shortMark = false → answers s .ok (.slot o.slot)) ∧
        (l.state = .closed → answers s .wrongState (.slot o.slot))) ∧
    (s.Names (.closeLine rq ref n) ref o →
      (o.lines[n - 1]? = none →
        exec (.closeLine rq ref n) s = .next (s.answer rq.tag 0x28 ⟨.notFound, .none⟩)) ∧
      ∀ l, o.lines[n - 1]? = some l →
        let t := s.withOrder (o.withLine n { l with state := .closed })
        (l.state = .closed → exec (.closeLine rq ref n) s = .next (s.answer rq.tag 0x28 ⟨.ok, .slot o.slot⟩)) ∧
        (l.state ≠ .closed → exec (.closeLine rq ref n) s = s.replies
          ((if l.cls = .heavy then t.recomputeGate o.slot else t).completionCheck o.slot) rq 0x28 .ok (.slot o.slot)))

/-! ### Records of the lanes, the sorter and the buffer -/

/-- SET_LATE_LANE (R159), whole: the late lane is set and the reply carries it as it stood; a body of the wrong length is
refused with BAD_LENGTH and a lane outside 1 to 4 with BAD_VALUE; nothing else changes, so that a hamper on a holding
list or released keeps its lane. At the next Sealed of an order whose wave has DEPARTED, the hamper joins the holding list
of the late lane as it stands. -/
def Obligations.LateLaneIsReadAtTheNextSealed : Prop :=
  (∀ (s : State) (rq : ReqHead) (n : Nat), s.inTurn rq.tag 0x3B (.setLateLane rq n) = true →
    (rq.lengthOk = false → exec (.setLateLane rq n) s = .next (s.answer rq.tag 0x3B ⟨.badLength, .none⟩)) ∧
    (rq.lengthOk = true → n = 0 ∨ 4 < n →
      exec (.setLateLane rq n) s = .next (s.answer rq.tag 0x3B ⟨.badValue, .none⟩)) ∧
    (rq.lengthOk = true → 1 ≤ n → n ≤ 4 →
      exec (.setLateLane rq n) s =
        .next ({ s with lateLane := n }.answer rq.tag 0x3B ⟨.ok, .lateLane s.lateLane⟩))) ∧
  ∀ (s : State) (b : Nat) (o : Order) (d : DispatchLane), s.waveState o.wave = .departed →
    s.dispatchLane? s.lateLane = some d →
    ∃ v : State, s.takeSealed b o = v.serveLane s.lateLane ∧
      v.dispatchLane? s.lateLane = some { d with holding := d.holding ++ [(b, o.slot)] } ∧
      ∀ m, m ≠ s.lateLane → v.dispatchLane? m = s.dispatchLane? m

/-- MERGE_READY (R50), whole: from the sorter, in every cell state, it sets the merge-free flag, or leaves it set, and
then admission is tried; from another unit it is reported with detail 11. An attempt that sends an Admit clears the flag;
the flag is clear after power-up and a warm restart; with the flag clear an attempt does nothing. -/
def Obligations.MergeReadySetsTheMergeFreeFlag : Prop :=
  (∀ (s : State) (hd : RecHead), RecFits hd 0x10 .sorter →
    exec (.mergeReady hd) s = s.ends { s with admission := { s.admission with mergeFree := true } }.tryAdmit) ∧
  (∀ (s : State) (hd : RecHead) (u : FieldUnit), unitOf hd.addr = some u → u ≠ .sorter →
    exec (.mergeReady hd) s = .next (s.raiseFault .fieldMismatch u.ctx 11)) ∧
  (∀ (s : State) (n tag : Nat), (FieldUnit.lane n, OutRecord.admitTag tag) ∈ s.tryAdmit.bus.sent.drop s.bus.sent.length →
    s.tryAdmit.admission.mergeFree = false) ∧
  (∀ s t : State, exec .powerUp s = .next t → t.admission.mergeFree = false) ∧
  (∀ (s : State) (cause : Causes), (s.warmRestart cause).admission.mergeFree = false) ∧
  ∀ s : State, s.admission.mergeFree = false → s.tryAdmit = s

/-- ARRIVAL (R45, R46, R190, R200): from a lane with a body of another length than 12 bytes it is reported with detail 12.
Otherwise the first failing check decides: a field out of its range, with the position of the first such field as detail;
a tag already tracked; no room in the queue or the table, where a full queue is named before a full table (the model's
choice where both are, log entry 32); otherwise the record is made as R46 says and its tag joins the queue, the lane
signals are judged and admission is tried. -/
def Obligations.ArrivalIsCheckedThenQueued : Prop :=
  (∀ (s : State) (addr : Byte) (body : List Byte) (n : Nat), unitOf addr = some (.lane n) → body.length ≠ 12 →
    exec (.arrival addr body) s =
      .next (s.raiseFault .fieldMismatch { FaultCtx.empty with lane := some n } 12)) ∧
  ∀ (s : State) (addr : Byte) (body : List Byte) (n : Nat) (l : Lane), unitOf addr = some (.lane n) →
    body.length = 12 → s.lane? n = some l →
    let a := ArrivalFields.read body
    let ctx : FaultCtx := ⟨some a.tag, none, none, some n, some a.sku⟩
    let c : Instr := .arrival addr body
    let overrun (d : Nat) : Prop := exec c s = .next ({ s.withSent (.lane n) .laneHold with
      lanes := s.lanes.map (fun m : Lane => if m.number = n then { m with signal := .hold } else m) }.raiseFault .laneOverrun
        ctx d)
    let outOfRange (d : Nat) : Prop :=
      exec c s = .next ((s.withSent (.lane n) (.laneReject a.tag .outOfRange)).raiseFault .fieldMismatch ctx d)
    let tagOk : Prop := 1 ≤ a.tag ∧ a.tag ≤ 65534
    let skuOk : Prop := 1 ≤ a.sku ∧ a.sku ≤ 16777214
    let massOk : Prop := 1 ≤ a.mass ∧ a.mass ≤ 25000
    let volumeOk : Prop := 1 ≤ a.volume ∧ a.volume ≤ 40000
    (¬tagOk → outOfRange 1) ∧ (tagOk → ¬skuOk → outOfRange 2) ∧
    (tagOk → skuOk → classOfCode a.cls = none → outOfRange 3) ∧
    (∀ k, tagOk → skuOk → classOfCode a.cls = some k →
      (¬massOk → outOfRange 4) ∧ (massOk → ¬volumeOk → outOfRange 5) ∧
      (massOk → volumeOk → k = .chilled → a.chillExit = none → outOfRange 6)) ∧
    (tagOk → skuOk → massOk → volumeOk → (∃ k, classOfCode a.cls = some k ∧ (k = .chilled → a.chillExit ≠ none)) →
      (s.item? a.tag ≠ none →
        exec c s = .next ((s.withSent (.lane n) (.laneReject a.tag .duplicate)).raiseFault .dupTag ctx 0)) ∧
      (s.item? a.tag = none →
        (4 ≤ l.queue.length → overrun 1) ∧
        (l.queue.length < 4 → 320 ≤ s.items.length → overrun 2) ∧
        (l.queue.length < 4 → s.items.length < 320 → ∀ k, classOfCode a.cls = some k →
          let i : Item :=
            { tag := a.tag
              sku := a.sku
              cls := k
              mass := a.mass
              vu := (a.volume + 99) / 100
              lane := n
              chillExit := if k = .chilled then a.chillExit else none
              deadline := if k = .chilled then a.chillExit.map (fun m => min 65535 (m + s.timers.dwellBudget)) else none
              expired := false
              location := .atLane
              locBench := none
              withdrawal := none
              laps := 0
              dest := none
              alloc := none
              wait := .none
              hold := .none
              outstanding := .none
              entrySeq := 0 }
          exec c s = s.ends { s with
            items := insertBy Item.tag i s.items
            lanes := s.lanes.map (fun m : Lane => if m.number = n then { m with queue := m.queue ++ [a.tag] } else m)
            }.judgeLanes.tryAdmit)))

/-- DIVERT_DONE (R57 to R59, R90). A point that is none, a tag that is not tracked and an item that is not ON_LOOP are
reported and otherwise ignored. Otherwise the item has left the loop: where it was sent, by an earlier Route (its hold
names the point), or misrouted, which is reported; unless it was sent there its allocation is released. At a bench or the
buffer its location is set with a new chute entry sequence and its destination is absent, and the bench is tried for a
Place or sends a Return, or the arbitration runs, and the credits held against other places are settled; at EXCEPTION the
record is freed and all its credits return. The fall in occupancy lets admission be tried, in either order with the
settling (log entry 22); the MISROUTE comes before the reports of that admission (log entry 33). -/
def Obligations.DivertDoneSettlesTheItem : Prop :=
  ∀ (s : State) (hd : RecHead) (tag : Nat) (p : Point), RecFits hd 0x11 .sorter →
    let c : Instr := .divertDone hd tag p
    let valid : Prop := p = .buffer ∨ p = .exception ∨ ∃ b, p = .bench b ∧ 1 ≤ b ∧ b ≤ 12
    (¬valid → exec c s = .next (s.raiseFault .fieldMismatch { FaultCtx.empty with tag := some tag } 4)) ∧
    (valid → s.item? tag = none →
      (p = .exception → exec c s = .next s) ∧
      (p ≠ .exception → exec c s =
        .next (s.raiseFault .fieldMismatch { FaultCtx.empty with tag := some tag, bench := pointBench? p } 0))) ∧
    ∀ i, valid → s.item? tag = some i →
      (i.location ≠ .onLoop → exec c s = .next (s.raiseFault .fieldMismatch { FaultCtx.empty with tag := some tag } 1)) ∧
      (i.location = .onLoop →
        let sent : Bool := decide (i.dest = some p)
        let late : Bool := decide ((p = .buffer ∧ i.hold.commonAt ≠ none ∧ i.hold.chuteAt = none) ∨
          (pointBench? p ≠ none ∧ i.hold.chuteAt = pointBench? p ∧ i.hold.commonAt = none))
        let ctx : FaultCtx := ⟨some tag, i.alloc.map (·.slot), pointBench? p, some i.lane, some i.sku⟩
        let kept : Point := if sent || late then p else .other
        let v : State := if sent then s else
          (if late then s else s.raiseFault .misroute ctx (match p with
            | .bench _ => 1
            | .buffer => 2
            | .exception | .other => 3)).releaseAlloc tag
        let entered (loc : Location) (b : Option Nat) : State := { v with
          items := v.items.map (fun j : Item => if j.tag = tag then
            { j with location := loc, locBench := b, dest := none, entrySeq := v.entryCounter } else j)
          entryCounter := (v.entryCounter + 1) % 4294967296 }
        (∀ b, p = .bench b → exec c s = s.ends (eitherOrder
          (fun t => (if sent then t.placeTry b else t.sendReturn b tag).settleAt kept tag) State.tryAdmit
          (entered .inChute (some b)))) ∧
        (p = .buffer → exec c s = s.ends (eitherOrder (fun t => (t.settleAt kept tag).arbitrate) State.tryAdmit
          (entered .inBuffer none))) ∧
        (p = .exception →
          let gone : State := { v with
            items := v.items.filter (fun j => decide (j.tag ≠ tag))
            arbiter := { v.arbiter with heldBack := v.arbiter.heldBack.filter (fun k => decide (k ≠ tag)) } }
          exec c s = s.ends (eitherOrder (fun t => (t.credited i.vu i.hold.chuteAt i.hold.commonAt).arbitrate) State.tryAdmit
            gone.judgeLanes)))

/-- LOOP_PASS (R59, R60, R90). The pass of a tag that is not tracked sends Route EXCEPTION and is reported; that of an
item not ON_LOOP is reported. Otherwise its lap count rises, held at 15. In RESTARTING it is sent out; outside, its
destination decides: one it missed stands below the lap limit, EXCEPTION stands, an absent one is sought by an allocation
run while the cell works; an item still without, or with one it missed, at the lap limit, is sent out with NO_HOME, after
the reports of that run (log entry 33).
Afterwards the credits held against any place but its destination are settled: R90's table. -/
def Obligations.LoopPassIsHandledByDestination : Prop :=
  (∀ (s : State) (hd : RecHead) (tag : Nat), RecFits hd 0x12 .sorter →
    let c : Instr := .loopPass hd tag
    (s.item? tag = none → exec c s = .next ((s.withSent .sorter (.route tag (some .exception))).raiseFault .fieldMismatch
      { FaultCtx.empty with tag := some tag } 0)) ∧
    ∀ i, s.item? tag = some i →
      (i.location ≠ .onLoop → exec c s = .next (s.raiseFault .fieldMismatch { FaultCtx.empty with tag := some tag } 1)) ∧
      (i.location = .onLoop →
        let laps := min 15 (i.laps + 1)
        let v : State := { s with items := s.items.map (fun j : Item => if j.tag = tag then { j with laps := laps } else j) }
        let out (t : State) : State :=
          let r := t.releaseAlloc tag
          { r with items := r.items.map (fun j : Item =>
            if j.tag = tag then { j with dest := some .exception } else j) }.withSent .sorter (.route tag (some .exception))
        let noHome (t : State) (d : Nat) : State :=
          (out t).raiseFault .noHome ⟨some tag, i.alloc.map (·.slot), none, some i.lane, some i.sku⟩ d
        let settles (t : State) : Prop := exec c s = s.ends (t.settleAt (((t.item? tag).bind (·.dest)).getD .other) tag)
        (s.cell.state = .restarting → settles (out v)) ∧
        (s.cell.state ≠ .restarting →
          ((i.dest = some .buffer ∨ ∃ b, i.dest = some (.bench b)) →
            (laps < s.loop.lapLimit → settles v) ∧ (s.loop.lapLimit ≤ laps → settles (noHome v 1))) ∧
          (i.dest = some .exception → settles v) ∧
          (i.dest = none →
            let r : State := if s.cell.state = .running ∨ s.cell.state = .paused ∨ s.cell.state = .draining then
              v.runAllocation tag else v
            (r.hasDest tag = true ∨ laps < s.loop.lapLimit → settles r) ∧
            (r.hasDest tag = false → s.loop.lapLimit ≤ laps → settles (noHome r 0)))))) ∧
  ∀ (s : State) (tag : Nat) (p : Point) (i : Item), s.item? tag = some i →
    let cleared (h : Hold) : State := { s with
      items := s.items.map (fun j : Item => if j.tag = tag then { j with hold := h } else j) }
    (i.hold = .none → s.settleAt p tag = s) ∧
    (∀ b, i.hold = .chute b →
      s.settleAt p tag = if p = .bench b then s else ((cleared .none).credited i.vu (some b) none).arbitrate) ∧
    ∀ b, i.hold = .common b → s.settleAt p tag = if p = .buffer then s else (cleared .none).credited i.vu none (some b)

/-- DELIVERED at EXCEPTION (R99), whole: where the tag's entry on the release list names EXCEPTION, the entry leaves the
list, the item's credits are returned, its record is freed and its tag leaves the held-back set; then, in every cell
state, the lane signals are judged and the arbitration runs for the credits and for the place on the list. -/
def Obligations.OutboundDeliveryFreesTheItem : Prop :=
  ∀ (s : State) (hd : RecHead) (tag : Nat) (i : Item), RecFits hd 0x18 .buffer → s.releaseEntry? tag = some .exception →
    s.item? tag = some i →
    let v : State := { s.credited i.vu i.hold.chuteAt i.hold.commonAt with
      items := s.items.filter (fun j => decide (j.tag ≠ tag))
      arbiter := { s.arbiter with
        releases := s.arbiter.releases.filter (fun e => decide (e.1 ≠ tag))
        heldBack := s.arbiter.heldBack.filter (fun k => decide (k ≠ tag)) } }
    exec (.delivered hd tag .exception) s = s.ends v.judgeLanes.arbitrate.arbitrate

/-- DELIVERED and RELEASE_FAILED (R98, R100, R101). A tag on no entry is reported, with the bench of the point when it is
a bench, and otherwise ignored. A delivery to the bench ordered returns the common credits, puts the item in the chute
with a new chute entry sequence, and tries a Place, or sends a Return where its allocation is gone. A misdelivery is
reported, its allocation released and all its credits returned; at a point that is no bench and not EXCEPTION it is
reported with a detail that stands free and its allocation is released, and no more (log entry 15). A failed release is
reported, its tag held back, and a release to a chute gives back the chute credits and the location it took. Then the
arbitration runs. -/
def Obligations.DeliveriesAndFailedReleasesFollowTheirRules : Prop :=
  ∀ (s : State) (hd : RecHead) (tag : Nat),
    let dropped : Arbiter := { s.arbiter with releases := s.arbiter.releases.filter (fun e => decide (e.1 ≠ tag)) }
    let benchOf (p : Point) : Option Nat := match p with
      | .bench n => if 1 ≤ n ∧ n ≤ 12 then some n else none
      | .buffer | .exception | .other => none
    (RecFits hd 0x18 .buffer → s.releaseEntry? tag = none → ∀ p,
      exec (.delivered hd tag p) s = .next (s.raiseFault .fieldMismatch
        { FaultCtx.empty with tag := some tag, bench := benchOf p } (if s.item? tag = none then 0 else 1))) ∧
    (RecFits hd 0x19 .buffer → s.releaseEntry? tag = none →
      exec (.releaseFailed hd tag) s = .next (s.raiseFault .fieldMismatch { FaultCtx.empty with tag := some tag }
        (if s.item? tag = none then 0 else 1))) ∧
    ∀ i, s.item? tag = some i →
      let ctx (b : Option Nat) : FaultCtx := ⟨some tag, i.alloc.map (·.slot), b, some i.lane, some i.sku⟩
      (RecFits hd 0x18 .buffer → ∀ b k, 1 ≤ b → b ≤ 12 → s.releaseEntry? tag = some (.bench b) → i.hold = .both k →
        let v : State := { s.credited i.vu none (some k) with
          arbiter := dropped
          entryCounter := (s.entryCounter + 1) % 4294967296
          items := s.items.map (fun j : Item => if j.tag = tag then { j with
            hold := .chute k, location := .inChute, locBench := some b, dest := none, entrySeq := s.entryCounter } else j) }
        exec (.delivered hd tag (.bench b)) s =
          s.ends (if i.alloc = none then v.sendReturn b tag else v.placeTry b).arbitrate) ∧
      (RecFits hd 0x18 .buffer → ∀ b q, 1 ≤ b → b ≤ 12 → s.releaseEntry? tag = some q → q ≠ .bench b →
        let v := ({ s with arbiter := dropped }.raiseFault .misroute (ctx (some b)) 4).releaseAlloc tag
        let w : State := { v with
          items := v.items.map (fun j : Item => if j.tag = tag then
            { j with location := .inChute, locBench := some b, dest := none, entrySeq := v.entryCounter } else j)
          entryCounter := (v.entryCounter + 1) % 4294967296 }
        exec (.delivered hd tag (.bench b)) s =
          s.ends (((w.sendReturn b tag).returnCommon tag).returnChute tag).arbitrate) ∧
      (RecFits hd 0x18 .buffer → ∀ q, s.releaseEntry? tag = some q → q ≠ .exception →
        let v := ({ s with arbiter := dropped }.raiseFault .misroute (ctx none) 5).releaseAlloc tag
        exec (.delivered hd tag .exception) s = s.ends ((v.answerWithdrawal tag).freeItem tag).arbitrate) ∧
      (RecFits hd 0x18 .buffer → ∀ p q, p = .buffer ∨ p = .other ∨ (∃ b, p = .bench b ∧ (b = 0 ∨ 12 < b)) →
        s.releaseEntry? tag = some q → q ≠ p → ∃ d < 256,
          exec (.delivered hd tag p) s = s.ends ((({ s with arbiter := dropped, freeCount := s.freeCount + 1 } :
            State).raiseFault .misroute (ctx none) d).releaseAlloc tag).arbitrate) ∧
      (RecFits hd 0x19 .buffer → tag ∉ s.arbiter.heldBack →
        let held (d : Nat) (b : Option Nat) : State :=
          let v := { s with arbiter := dropped }.raiseFault .bufferFault (ctx b) d
          { v with arbiter := { v.arbiter with heldBack := insertBy id tag s.arbiter.heldBack } }
        (∀ b k, 1 ≤ b → b ≤ 12 → s.releaseEntry? tag = some (.bench b) → i.hold = .both k →
          let v := held 1 (some b)
          exec (.releaseFailed hd tag) s = s.ends (({ v.credited i.vu (some k) none with
            items := v.items.map (fun j : Item =>
              if j.tag = tag then { j with hold := .common k, location := .inBuffer } else j) }.answerWithdrawal tag).arbitrate)) ∧
        (s.releaseEntry? tag = some .exception → exec (.releaseFailed hd tag) s = s.ends (held 2 none).arbitrate))

/-! ### Records of the benches -/

/-- BENCH_OPEN and BENCH_CLOSE by the tables of R109 and R110, BASE_FITTED (R8, R117) and POCKET_FITTED (R118): the
bench's state and staffed flag, the order that begins to be built, the pocket and the items that waited for it, what runs
after, and the record that has no effect or is reported. -/
def Obligations.BenchStaffingAndFittingFollowTheirTables : Prop :=
  ∀ (s : State) (hd : RecHead) (b : Nat) (x : Bench), unitOf hd.addr = some (.bench b) → hd.lengthOk = true →
    s.bench? b = some x →
    let set (f : Bench → Bench) : State :=
      { s with benches := s.benches.map (fun y : Bench => if y.number = b then f y else y) }
    let reported : Outcome := .next (s.raiseFault .fieldMismatch { FaultCtx.empty with bench := some b } 3)
    (x.state = .closed →
      exec (.benchOpen hd) s = s.ends (set (fun y => { y with state := .idle, staffed := true })).bindPass ∧
      exec (.benchClose hd) s = .next s) ∧
    (x.state = .idle →
      exec (.benchOpen hd) s = .next s ∧
      exec (.benchClose hd) s = s.ends (set (fun y => { y with state := .closed, staffed := false }))) ∧
    (x.state ≠ .closed → x.state ≠ .idle →
      (x.staffed = true → exec (.benchOpen hd) s = .next s) ∧
      (x.staffed = false →
        let u := ((set (fun y => { y with staffed := true })).placeTry b).sealTry b
        ((∀ d ∈ u.dispatch, ∀ e ∈ d.holding, e.1 ≠ b) → exec (.benchOpen hd) s = s.ends u) ∧
        ∀ before d after, u.dispatch = before ++ d :: after →
          (∀ c ∈ before, ∀ e ∈ c.holding, e.1 ≠ b) → (∃ slot, (b, slot) ∈ d.holding) →
          exec (.benchOpen hd) s = s.ends (u.serveLane d.number)) ∧
      exec (.benchClose hd) s = s.ends (set (fun y => { y with staffed := false }))) ∧
    (x.state = .fitting → ∀ slot, x.orderSlot = some slot →
      exec (.baseFitted hd) s = s.ends (({ set (fun y => { y with state := .building }) with
        book := { s.book with orders := s.book.orders.map (fun o : Order =>
          if o.slot = slot ∧ o.state = .loaded then { o with state := if o.held then .held else .building } else o) }
        : State }.placeTry b).completionCheck slot)) ∧
    (x.state = .unpacking → exec (.baseFitted hd) s = .next s ∧ exec (.pocketFitted hd) s = .next s) ∧
    (x.state ≠ .fitting → x.state ≠ .unpacking → exec (.baseFitted hd) s = reported) ∧
    (x.state ≠ .unpacking →
      (x.hamper = none → exec (.pocketFitted hd) s = reported) ∧
      ∀ h, x.hamper = some h →
        (h.pocket = .none → exec (.pocketFitted hd) s = reported) ∧
        (h.pocket = .fitted → exec (.pocketFitted hd) s = .next s) ∧
        (h.pocket = .requested → ∀ slot, x.orderSlot = some slot →
          exec (.pocketFitted hd) s = s.ends
            ({ set (fun y => { y with hamper := y.hamper.map (fun g : Hamper => { g with pocket := .fitted }) }) with
              items := s.items.map (fun j : Item =>
                if j.wait = .pocket ∧ (∃ a, j.alloc = some a ∧ a.slot = slot) then { j with wait := .none } else j)
              : State }.arbitrate.sealTry b)))

/-- PLACED (R121, R122), PLACE_REFUSED (R123), RETURNED (R125) and PULLED (R148), with the answers that fit no item, no
instruction or not the bench at which the item stands (R126, R149): what each answer does to the item, its allocation,
the hamper and the line, in its order, and what runs after. That PLACE_REFUSED of an item with a Return outstanding
carries the slot of an allocation it still holds, and none where that is released, is DEDUCED (log entry 30). -/
def Obligations.BenchAnswersFollowTheirRules : Prop :=
  ∀ (s : State) (hd : RecHead) (b tag : Nat) (r : RefuseReason), unitOf hd.addr = some (.bench b) → hd.lengthOk = true →
    let mismatch (t : State) (d : Nat) : State :=
      t.raiseFault .fieldMismatch { FaultCtx.empty with tag := some tag, bench := some b } d
    let item (t : State) (f : Item → Item) : State :=
      { t with items := t.items.map (fun j : Item => if j.tag = tag then f j else j) }
    let hamper (t : State) (c : Nat) (f : Hamper → Hamper) : State :=
      { t with benches := t.benches.map (fun y : Bench =>
        if y.number = c then { y with hamper := y.hamper.map f } else y) }
    let line (t : State) (a : Alloc) (f : Line → Line) : State :=
      { t with book := { t.book with orders := t.book.orders.map (fun o : Order =>
        if o.slot = a.slot then { o with lines := o.lines.modify (a.line - 1) f } else o) } }
    let gate (t : State) (a : Alloc) : State := if t.lineHeavy a.slot a.line then t.recomputeGate a.slot else t
    let unlisted (t : State) (c : Nat) : State :=
      hamper t c (fun h => { h with places := h.places.filter (fun e => decide (e.tag ≠ tag)) })
    let placed (t : State) (a : Alloc) : State :=
      line (hamper t a.bench (fun h => { h.setSlot a.zone a.slotNo .filled with
        baseClosed := h.baseClosed || decide (a.zone = .top) })) a (fun l => { l with placed := l.placed + 1 })
    (r = .other → exec (.placeRefused hd tag r) s = .next (mismatch s 4)) ∧
    (s.item? tag = none →
      exec (.placed hd tag) s = .next (mismatch s 0) ∧ exec (.returned hd tag) s = .next (mismatch s 0) ∧
      (r ≠ .other → exec (.placeRefused hd tag r) s = .next (mismatch s 0)) ∧ exec (.pulled hd tag) s = .next s) ∧
    ∀ i, s.item? tag = some i →
      let instructed (c : Instr) : Prop := match c with
        | .pulled _ _ => ∃ m, i.outstanding = .pull m
        | .returned _ _ => ∃ m, i.outstanding = .ret m
        | _ => ∃ m, i.outstanding = .ret m ∨ i.outstanding = .place m
      (∀ c : Instr, c = .placed hd tag ∨ c = .returned hd tag ∨ c = .pulled hd tag ∨
          (c = .placeRefused hd tag r ∧ r ≠ .other) → ¬instructed c ∨ i.locBench = none →
        exec c s = .next (mismatch s 1)) ∧
      ∀ c, i.locBench = some c →
        let t : State := if c = b then s else mismatch s 2
        let refused (u : State) : State := u.raiseFault .placeRefused
          ⟨some tag, i.alloc.map (·.slot), some c, some i.lane, some i.sku⟩
          (match r with | .damaged => 1 | .wrongItem => 2 | .noRoom => 3 | .other => 0)
        let leaves (u : State) : State := u.freeItem tag
        let returns (u : State) : State :=
          let v := leaves ((((item u (fun j => { j with outstanding := .none })).releaseAlloc tag).returnChute
            tag).answerWithdrawal tag)
          match i.alloc with
          | none => v
          | some a => v.completionCheck a.slot
        (∀ m a, i.outstanding = .place m → i.alloc = some a →
          let v := (placed (item (unlisted t c) (fun j => { j with outstanding := .none })) a).returnChute tag
          let w := if i.cls = .chilled then item v (fun j => { j with location := .inHamper }) else leaves v
          exec (.placed hd tag) s = s.ends ((((gate w a).completionCheck a.slot).judgeStall c).placeTry c)) ∧
        (∀ m, i.outstanding = .ret m →
          let v := t.returnChute tag
          let pulls (u : State) : State := item ((item u (fun j => { j with location := .inHamper })).withSent (.bench c)
            (.pull tag)) (fun j => { j with outstanding := .pull s.clock.minute })
          (∀ a, i.alloc = some a → exec (.placed hd tag) s =
            s.ends (((gate (pulls (placed v a)) a).completionCheck a.slot).answerWithdrawal tag)) ∧
          (i.alloc = none → exec (.placed hd tag) s = s.ends ((pulls v).answerWithdrawal tag)) ∧
          exec (.returned hd tag) s = s.ends (returns t) ∧
          (r ≠ .other → exec (.placeRefused hd tag r) s = s.ends (returns (refused t)))) ∧
        (∀ m, i.outstanding = .place m → r ≠ .other →
          let v := (item (unlisted (refused t) c) (fun j => { j with outstanding := .none })).releaseAlloc tag
          let w := match i.alloc with
            | none => v
            | some a => if r = RefuseReason.noRoom then hamper v a.bench (fun h =>
                h.updZone a.zone (fun z => { z with capacity := z.committed, clamped := true })) else v
          exec (.placeRefused hd tag r) s = s.ends (((leaves (w.returnChute tag)).judgeStall c).placeTry c)) ∧
        (∀ m, i.outstanding = .pull m →
          (i.alloc = none → exec (.pulled hd tag) s = s.ends (leaves t)) ∧
          ∀ a, i.alloc = some a →
            let v := item (hamper (line t a (fun l => { l with
              committed := l.committed - 1
              placed := l.placed - 1
              substituted := l.substituted - (if a.rank = 0 then 0 else 1) }.settled)) a.bench
                (Hamper.vacate a.zone a.slotNo i.mass i.vu)) (fun j => { j with alloc := none, outstanding := .none })
            exec (.pulled hd tag) s = s.ends (leaves ((gate v a).completionCheck a.slot)))

/-- SEALED (R11, R129, with R153), HAMPER_OUT (R11, R157, R132) and UNPACKED (R21, R131, R132): the order's state and what
is set with it, the items that leave the table, the holding list or the cage that takes the hamper, the bench handed back
and its binding pass; in another state each is taken without effect or reported with detail 3. LATE_HAMPER comes before
the reports of the lane's service (log entry 33). -/
def Obligations.SealedHamperOutAndUnpackedEndTheBuild : Prop :=
  ∀ (s : State) (hd : RecHead) (b : Nat) (x : Bench), unitOf hd.addr = some (.bench b) → hd.lengthOk = true →
    s.bench? b = some x →
    let bench (t : State) (f : Bench → Bench) : State :=
      { t with benches := t.benches.map (fun y : Bench => if y.number = b then f y else y) }
    let order (t : State) (slot : Nat) (f : Order → Order) : State :=
      { t with book := { t.book with orders := t.book.orders.map (fun o : Order => if o.slot = slot then f o else o) } }
    let lane (t : State) (n : Nat) (f : DispatchLane → DispatchLane) : State :=
      { t with dispatch := t.dispatch.map (fun d : DispatchLane => if d.number = n then f d else d) }
    let reported : Outcome := .next (s.raiseFault .fieldMismatch { FaultCtx.empty with bench := some b } 3)
    let inside (t : State) (slot : Nat) : List Nat :=
      (t.items.filter (fun i => decide (i.location = .inHamper ∧ ∃ a, i.alloc = some a ∧ a.slot = slot))).map (·.tag)
    let free (t : State) (slot : Nat) : State := (inside t slot).foldl (fun u tag => u.freeItem tag) t
    let handed (t : State) : State :=
      let v := bench t (fun y => { y with
        orderSlot := none, hamper := none, unpacked := false, stalled := false
        state := if y.staffed then .idle else .closed })
      if x.staffed then v.bindPass else v
    (x.state = .unpacking → exec (.hamperSealed hd) s = .next s) ∧
    (x.state ≠ .unpacking → x.state ≠ .sealing → exec (.hamperSealed hd) s = reported) ∧
    (x.state ≠ .releasing → exec (.hamperOut hd) s = reported) ∧
    (x.state ≠ .unpacking ∨ x.unpacked = true → exec (.unpacked hd) s = reported) ∧
    ∀ o, x.orderSlot = some o.slot → s.order? o.slot = some o →
      (x.state = .sealing → o.state ≠ .complete → exec (.hamperSealed hd) s = reported) ∧
      (x.state = .releasing → o.state ≠ .sealed → exec (.hamperOut hd) s = reported) ∧
      (x.state = .sealing → o.state = .complete →
        let u := free (order s o.slot (fun p => { p with state := .sealed, sealMinute := some s.clock.minute })) o.slot
        let holds (t : State) (n : Nat) : Outcome := s.ends ((bench (lane t n (fun d =>
          { d with holding := d.holding ++ [(b, o.slot)] })) (fun y => { y with state := .holding })).serveLane n)
        (s.waveState o.wave = .departed → exec (.hamperSealed hd) s =
          holds ((order u o.slot (fun p => { p with late := true })).raiseFault .lateHamper
            ⟨none, some o.slot, some b, some s.lateLane, none⟩ o.wave) s.lateLane) ∧
        (∀ n w, s.wave? o.wave = some w → w.state ≠ .departed → w.lane = some n →
          exec (.hamperSealed hd) s = holds u n)) ∧
      (x.state = .releasing → o.state = .sealed → ∀ n d, o.dispatchLane = some n → s.dispatchLane? n = some d →
        let count := min 40 (d.count + 1)
        let u := lane s n (fun e => { e with count := min 40 (e.count + 1), inFlight := e.inFlight - 1 })
        let v := if d.matchCount ≠ 0 ∧ count = d.matchCount then { u with notices := s.notices.raised .cageMatch } else u
        let w := order v o.slot (fun p => { p with state := .dispatched, bench := none })
        exec (.hamperOut hd) s = s.ends (handed { w with notices := w.notices.raised .orderDispatched })) ∧
      (x.state = .unpacking → x.unpacked = false → o.state = .cancelling → o.bench = some b →
        let u := free (bench s (fun y => { y with unpacked := true, hamper := none })) o.slot
        (o.withdrawals ≠ 0 → exec (.unpacked hd) s = s.ends u) ∧
        (o.withdrawals = 0 →
          let w := order u o.slot (fun p => { p with state := .cancelled, bench := none })
          exec (.unpacked hd) s = s.ends (handed { w with notices := w.notices.raised .orderCancelled })))

/-! ### What the blocks do by themselves -/

/-- PLACE (R119, R120), SEAL (R128) and HAMPER_RELEASE (R154, R155). Places are sent one at a time, each to the oldest
eligible item, while the bench may be sent one; Seal is sent exactly when its conditions hold; Releases are sent one at a
time, each to the first staffed bench of the holding list, while the lane has room. -/
def Obligations.PlaceSealAndReleaseAreIssued : Prop :=
  (∀ (s : State) (b : Nat),
    let places (t u : State) : Prop := ∃ x h slot o i a, t.bench? b = some x ∧ x.hamper = some h ∧
      x.orderSlot = some slot ∧ t.order? slot = some o ∧ x.state = .building ∧ x.staffed = true ∧ x.stalled = false ∧
      t.working = true ∧ (o.state = .building ∨ o.state = .held) ∧ h.places.length < 4 ∧
      t.oldest (t.items.filter (fun j => decide (j.location = .inChute ∧ j.locBench = some b ∧
        (∃ e, j.alloc = some e ∧ e.slot = o.slot) ∧ j.outstanding = .none ∧ j.wait = .none ∧
        ¬(j.cls = .fragile ∧ o.topGate = some .shut)))) = some i ∧ i.alloc = some a ∧
      u = { t with
        bus := { t.bus with sent := t.bus.sent ++ [(.bench b, .place i.tag a.zone a.slotNo)] }
        items := t.items.map (fun j : Item => if j.tag = i.tag then { j with outstanding := .place t.clock.minute } else j)
        benches := t.benches.map (fun y : Bench => if y.number = b then
          { y with hamper := y.hamper.map (fun g : Hamper => { g with places := g.places ++ [⟨i.tag, false⟩] }) } else y) }
    ∃ t, Relation.ReflTransGen places s t ∧ (∀ u, ¬places t u) ∧ exec (.placeItem b) s = s.ends t) ∧
  (∀ (t : State) (xs : List Item) (i : Item), t.oldest xs = some i → i ∈ xs ∧ ∀ j ∈ xs, t.entryAge j ≤ t.entryAge i) ∧
  (∀ (s : State) (b : Nat),
    let ready : Prop := ∃ x slot o h, s.bench? b = some x ∧ x.state = .building ∧ x.staffed = true ∧
      x.orderSlot = some slot ∧ s.order? slot = some o ∧ o.state = .complete ∧ x.hamper = some h ∧
      h.pocket ≠ .requested ∧ s.working = true
    (ready → exec (.sealHamper b) s = s.ends { s with
      bus := { s.bus with sent := s.bus.sent ++ [(.bench b, .sealHamper)] }
      benches := s.benches.map (fun y : Bench => if y.number = b then { y with state := .sealing } else y) }) ∧
    (¬ready → exec (.sealHamper b) s = .next s)) ∧
  ∀ (s : State) (n : Nat),
    let staffed (t : State) (b : Nat) : Prop := ∃ x, t.bench? b = some x ∧ x.staffed = true
    let serves (t u : State) : Prop := ∃ d before b slot after, t.dispatchLane? n = some d ∧ t.working = true ∧
      d.count + d.inFlight < d.capacity ∧ d.holding = before ++ (b, slot) :: after ∧
      (∀ e ∈ before, ¬staffed t e.1) ∧ staffed t b ∧
      u = { t with
        bus := { t.bus with sent := t.bus.sent ++ [(.bench b, .release n)] }
        dispatch := t.dispatch.map (fun c : DispatchLane => if c.number = n then
          { c with holding := c.holding.filter (fun e => decide (e.1 ≠ b)), inFlight := c.inFlight + 1 } else c)
        benches := t.benches.map (fun y : Bench => if y.number = b then { y with state := .releasing } else y)
        book := { t.book with orders := t.book.orders.map (fun o : Order =>
          if o.slot = slot then { o with dispatchLane := some n } else o) } : State }.judgeFull n (some (b, slot))
    ∃ t, Relation.ReflTransGen serves s t ∧ (∀ u, ¬serves t u) ∧ exec (.hamperRelease n) s = s.ends t

/-- ADMIT (R51 to R53), BINDING (R25, R113) and BUFFER_RELEASE (R95 to R97). Admission scans the schedule from the pointer
to the first lane with a head, which it rejects where it is expired and admits where it is not. A pass gives each idle
bench, in rising number, the best of its eligible waiting orders. Places of the release list are filled one at a time, by
the oldest outbound item, else for the first bench after the pointer with an eligible staged item. -/
def Obligations.AdmissionBindingAndBufferReleaseChoose : Prop :=
  (∀ s : State,
    let opens : Prop := s.cell.state = .running ∧ s.admission.mergeFree = true ∧ s.occupancy < s.loop.capacity
    let entry (k : Nat) : Nat := (s.admission.schedule[(s.admission.pointer + k) % 32]?).getD 0
    let idle (k : Nat) : Prop := ∀ l, s.lane? (entry k) = some l → l.queue = []
    let popped (n : Nat) : List Lane := s.lanes.map (fun l : Lane => if l.number = n then { l with queue := l.queue.tail } else l)
    (¬opens ∨ (∀ k < 32, idle k) → exec .admitHead s = .next s) ∧
    (opens → ∀ k < 32, (∀ j < k, idle j) → ∀ l tag rest, s.lane? (entry k) = some l → l.queue = tag :: rest →
      ((∃ i, s.item? tag = some i ∧ i.expired = true) → exec .admitHead s = s.ends (({ s with
        bus := { s.bus with sent := s.bus.sent ++ [(.lane l.number, .laneReject tag .expired)] }
        lanes := popped l.number : State }.freeItem tag).tryAdmit)) ∧
      ((∀ i, s.item? tag = some i → i.expired = false) →
        let v := { s with
          bus := { s.bus with sent := s.bus.sent ++ [(.lane l.number, .admitTag tag)] }
          admission := { s.admission with pointer := (s.admission.pointer + k + 1) % 32, mergeFree := false }
          lanes := popped l.number : State }.judgeLanes
        let w := { v with items := v.items.map (fun i : Item =>
          if i.tag = tag then { i with location := .onLoop, laps := 0 } else i) : State }.runAllocation tag
        exec .admitHead s = s.ends (if (w.item? tag).bind (·.dest) = none then w.withSent .sorter (.route tag none) else w)))) ∧
  (∀ s : State, s.Inv →
    let eligible (t : State) (x : Bench) (o : Order) : Prop := o ∈ t.book.orders ∧ o.state = .loaded ∧ o.held = false ∧
      o.bench = none ∧ t.rushFloor ≤ o.priority ∧ (∃ p, t.plan? o.template = some p ∧ p.sizeClass ≤ x.largestSize) ∧
      ((∃ l ∈ o.lines, l.cls = .chilled) → x.chilledCapable = true) ∧
      ((∃ l ∈ o.lines, l.cls = .heavy) → x.heavyCapable = true)
    let better (t : State) (o p : Order) : Prop := p.priority < o.priority ∨ p.priority = o.priority ∧
      (t.cutoffOf o.wave < t.cutoffOf p.wave ∨ t.cutoffOf o.wave = t.cutoffOf p.wave ∧
        (t.age p < t.age o ∨ t.age p = t.age o ∧ o.slot < p.slot))
    let gives (b : Nat) (t u : State) : Prop :=
      (∃ x o p, t.bench? b = some x ∧ x.state = .idle ∧ eligible t x o ∧
        (∀ q, eligible t x q → q ≠ o → better t o q) ∧ t.plan? o.template = some p ∧
        u = { t with
          book := { t.book with orders := t.book.orders.map (fun q : Order => if q.slot = o.slot then { q with
            bench := some b
            lines := q.lines.map (fun l : Line => { l with lastProgress := t.clock.minute })
            topGate := some (if ∀ l ∈ q.lines, l.cls = .heavy → l.complete = true then .opened else .shut) } else q) }
          benches := t.benches.map (fun y : Bench => if y.number = b then { y with
            state := .fitting
            orderSlot := some o.slot
            hamper := some
              { template := o.template
                massLimit := p.massLimit
                mass := 0
                base := ⟨p.base.capacity, p.base.capacity, false, 0, List.replicate p.base.slots .free⟩
                middle := ⟨p.middle.capacity, p.middle.capacity, false, 0, List.replicate p.middle.slots .free⟩
                top := ⟨p.top.capacity, p.top.capacity, false, 0, List.replicate p.top.slots .free⟩
                pocketZone := ⟨p.pocket.capacity, p.pocket.capacity, false, 0, List.replicate p.pocket.slots .free⟩
                baseClosed := false
                pocket := .none
                places := [] } } else y)
          bus := { t.bus with sent := t.bus.sent ++ [(.bench b, .fitBase o.template)] } }) ∨
      ((∀ x, t.bench? b = some x → x.state = .idle → ∀ o, ¬eligible t x o) ∧ u = t)
    (s.cell.state ≠ .running → s.cell.state ≠ .paused → exec .binding s = .next s) ∧
    (s.cell.state = .running ∨ s.cell.state = .paused → ∃ t : Nat → State, t 0 = s ∧
      (∀ b < 12, gives (b + 1) (t b) (t (b + 1))) ∧ exec .binding s = s.ends (t 12))) ∧
  ∀ s : State,
    let free (t : State) (i : Item) : Prop := i.location = .inBuffer ∧ i.tag ∉ t.arbiter.heldBack ∧
      ∀ e ∈ t.arbiter.releases, e.1 ≠ i.tag
    let out (t : State) : Option Item := t.oldest (t.items.filter (fun i => decide (free t i ∧ i.alloc = none)))
    let staged (t : State) (b : Nat) : Option Item := t.oldest (t.items.filter (fun i => decide (free t i ∧
      i.wait = .none ∧ (∃ a, i.alloc = some a ∧ a.bench = b ∧ ∃ o, t.order? a.slot = some o ∧ o.state = .building) ∧
      ∃ c, t.chute? b = some c ∧ 1 ≤ c.freeItems ∧ i.vu ≤ c.freeVu)))
    let fills (t u : State) : Prop := t.arbiter.releases.length < 2 ∧
      ((∃ i, out t = some i ∧ u = { t with
          arbiter := { t.arbiter with releases := t.arbiter.releases ++ [(i.tag, .exception)] }
          bus := { t.bus with sent := t.bus.sent ++ [(.buffer, .bufferRelease i.tag .exception)] } }) ∨
        (out t = none ∧ t.working = true ∧ ∃ k < 12, ∃ i,
          let bench (j : Nat) : Nat := (t.arbiter.pointer + j) % 12 + 1
          (∀ j < k, staged t (bench j) = none) ∧ staged t (bench k) = some i ∧ u = { t with
            arbiter := { t.arbiter with
              releases := t.arbiter.releases ++ [(i.tag, .bench (bench k))]
              pointer := bench k }
            chutes := t.chutes.map (fun c : Chute => if c.bench = bench k then
              { c with freeItems := c.freeItems - 1, freeVu := c.freeVu - i.vu } else c)
            items := t.items.map (fun j : Item =>
              if j.tag = i.tag then { j with hold := .both (bench k), location := .bufferToChute } else j)
            bus := { t.bus with sent := t.bus.sent ++ [(.buffer, .bufferRelease i.tag (.bench (bench k)))] } }))
    ∃ t, Relation.ReflTransGen fills s t ∧ (∀ u, ¬fills t u) ∧ exec .bufferRelease s = s.ends t

/-- R63 to R79: an allocation run. Its winner is a candidate line that meets the order-level conditions, has a zone, fits
and can be staged, and no candidate goes before it: a direct match before any substitute, and then by rank, score, age,
line and slot as R74 and R75 say; where it has none there is no candidate. The commit enters the winner into the line, the
hamper, the credits and the item record, sends Route, and asks for the pocket at the first CHILLED commit; the slot is
the lowest FREE one of the zone. A run without a home does no more than report: FIT_REFUSED where some BUILDING order has
an OPEN or SHORT line of the item's SKU and class and every such order meets the order-level conditions and fails the zone
or the mass test (detail 1, 2, or 3 for both kinds), CLASS_CONFLICT where a line of a BUILDING order has the SKU with
another class; both in either order (log entry 24). -/
def Obligations.AllocationChoosesTheBest : Prop :=
  ∀ (s : State) (tag : Nat) (i : Item), s.item? tag = some i →
    let score (o : Order) : Nat := 1024 * o.priority + 4 * (1023 - min 1023 (s.cutoffOf o.wave - s.clock.minute)) +
      256 * ((o.lines.map (·.committed)).sum + 1) /
        (o.lines.map (fun l : Line => if l.state = .closed then l.committed else l.required)).sum
    let room (z : ZoneRec) : Prop := SlotState.free ∈ z.slots ∧ z.committed + i.vu ≤ z.capacity
    let zoned (h : Hamper) (z : Zone) : Prop := match i.cls with
      | .heavy => z = .base ∧ h.baseClosed = false ∧ room h.base
      | .ambient => (z = .middle ∧ room h.middle) ∨ (z = .base ∧ ¬room h.middle ∧ h.baseClosed = false ∧ room h.base)
      | .fragile => z = .top ∧ room h.top
      | .chilled => z = .pocket ∧ room h.pocketZone
    let wait (o : Order) (h : Hamper) : WaitCause :=
      if i.cls = .fragile ∧ o.topGate = some .shut then .topGate
      else if i.cls = .chilled ∧ h.pocket ≠ .fitted then .pocket else .none
    let chute (c : Chute) (w : WaitCause) : Prop := w = .none ∧ 1 ≤ c.freeItems ∧ i.vu ≤ c.freeVu
    let common (c : Chute) : Prop := 1 ≤ s.pool.freeItems ∧ i.vu ≤ s.pool.freeVu ∧ c.heldItems + 1 ≤ c.capItems ∧
      c.heldVu + i.vu ≤ c.capVu
    let candidate (c : Candidate) : Prop := ∃ o l x h v k, o ∈ s.book.orders ∧ c.slot = o.slot ∧ 1 ≤ c.line ∧
      o.lines[c.line - 1]? = some l ∧ l.cls = i.cls ∧ o.state = .building ∧ o.bench = some c.bench ∧
      s.bench? c.bench = some x ∧ x.staffed = true ∧ s.rushFloor ≤ o.priority ∧ s.lane? i.lane = some v ∧
      benchIn v.vector c.bench = true ∧ x.hamper = some h ∧ zoned h c.zone ∧ h.mass + i.mass ≤ h.massLimit ∧
      c.wait = wait o h ∧ s.chute? c.bench = some k ∧
      ((c.source = .chute ∧ chute k c.wait) ∨ (c.source = .common ∧ ¬chute k c.wait ∧ common k)) ∧
      c.score = score o ∧ c.age = s.age o ∧
      ((c.rank = 0 ∧ l.sku = i.sku ∧ (l.state = .opened ∨ l.state = .short)) ∨
        (1 ≤ c.rank ∧ l.state = .short ∧ l.group ≠ 0 ∧ (s.alternates l.group)[c.rank - 1]? = some i.sku ∧
          ∀ j < c.rank - 1, (s.alternates l.group)[j]? ≠ some i.sku))
    let before (c d : Candidate) : Prop := c.rank < d.rank ∨ c.rank = d.rank ∧
      (d.score < c.score ∨ d.score = c.score ∧ (d.age < c.age ∨ d.age = c.age ∧
        (if c.rank = 0 then c.slot < d.slot else c.line < d.line ∨ c.line = d.line ∧ c.slot < d.slot)))
    let sought (l : Line) : Prop := l.sku = i.sku ∧ l.cls = i.cls ∧ (l.state = .opened ∨ l.state = .short)
    let matching (o : Order) : Prop := o ∈ s.book.orders ∧ o.state = .building ∧ ∃ l ∈ o.lines, sought l
    let meets (o : Order) (h : Hamper) : Prop := ∃ b x v, o.bench = some b ∧ s.bench? b = some x ∧ x.staffed = true ∧
      s.rushFloor ≤ o.priority ∧ s.lane? i.lane = some v ∧ benchIn v.vector b = true ∧ x.hamper = some h
    let noZone (o : Order) : Prop := ∃ h, meets o h ∧ ∀ z, ¬zoned h z
    let overMass (o : Order) : Prop := ∃ h z, meets o h ∧ zoned h z ∧ h.massLimit < h.mass + i.mass
    let refused (ctx : FaultCtx) (d : Nat) : Prop := ∃ before o after, s.book.orders = before ++ o :: after ∧ matching o ∧
      (∀ p ∈ before, ¬matching p) ∧ (∀ p, matching p → noZone p ∨ overMass p) ∧
      ctx = ⟨some i.tag, some o.slot, o.bench, some i.lane, some i.sku⟩ ∧
      ((d = 1 ∧ ∀ p, matching p → noZone p) ∨ (d = 2 ∧ ∀ p, matching p → overMass p) ∨
        (d = 3 ∧ (∃ p, matching p ∧ ¬noZone p) ∧ ∃ p, matching p ∧ ¬overMass p))
    let other (l : Line) : Prop := l.sku = i.sku ∧ l.cls ≠ i.cls
    let conflict (ctx : FaultCtx) (d : Nat) : Prop := ∃ before o after lines l rest,
      s.book.orders = before ++ o :: after ∧ o.state = .building ∧ o.lines = lines ++ l :: rest ∧ other l ∧
      (∀ m ∈ lines, ¬other m) ∧ (∀ p ∈ before, p.state = .building → ∀ m ∈ p.lines, ¬other m) ∧
      ctx = ⟨some i.tag, some o.slot, o.bench, some i.lane, some i.sku⟩ ∧
      d = (match l.cls with | .ambient => 0 | .heavy => 1 | .fragile => 2 | .chilled => 3)
    (s.winner? i = none → (∀ d, ¬candidate d) ∧
      ((∀ x d, ¬refused x d) → (∀ x d, ¬conflict x d) → s.runAllocation tag = s) ∧
      (∀ x d, refused x d → (∀ y e, ¬conflict y e) → s.runAllocation tag = s.raiseFault .fitRefused x d) ∧
      (∀ y e, conflict y e → (∀ x d, ¬refused x d) → s.runAllocation tag = s.raiseFault .classConflict y e) ∧
      ∀ x d y e, refused x d → conflict y e → ∃ k,
        s.runAllocation tag =
          { ((s.raiseFault .fitRefused x d).raiseFault .classConflict y e : State) with freeCount := k } ∨
        s.runAllocation tag =
          { ((s.raiseFault .classConflict y e).raiseFault .fitRefused x d : State) with freeCount := k }) ∧
    (∀ (h : Hamper) (z : Zone) (n : Nat), h.freeSlot? z = some n →
      ∃ k, n = h.firstSlot z + k ∧ (h.zone z).slots[k]? = some .free ∧
        ∀ j < k, (h.zone z).slots[j]? ≠ some .free) ∧
    (∀ (h : Hamper) (z : Zone), h.freeSlot? z = none → SlotState.free ∉ (h.zone z).slots) ∧
    ∀ c, s.winner? i = some c → candidate c ∧ (∀ d, candidate d → ¬before d c) ∧
      ∀ h n, s.hamper? c.bench = some h → h.freeSlot? c.zone = some n →
        let point : Point := if c.source = .chute then .bench c.bench else .buffer
        let u : State := { s with
          book := { s.book with orders := s.book.orders.map (fun o : Order => if o.slot = c.slot then { o with
            fragileBegun := o.fragileBegun || decide (i.cls = .fragile)
            lines := o.lines.modify (c.line - 1) (fun l : Line => { l with
              committed := l.committed + 1
              substituted := l.substituted + (if c.rank = 0 then 0 else 1)
              lastProgress := s.clock.minute }.settled) } else o) }
          benches := s.benches.map (fun y : Bench => if y.number = c.bench then { y with hamper := y.hamper.map (fun g : Hamper =>
            ({ g with mass := g.mass + i.mass }.updZone c.zone (fun z : ZoneRec =>
              { z with committed := z.committed + i.vu })).setSlot c.zone n .reserved) } else y)
          pool := if c.source = .chute then s.pool else
            { s.pool with freeItems := s.pool.freeItems - 1, freeVu := s.pool.freeVu - i.vu }
          chutes := s.chutes.map (fun k : Chute => if k.bench = c.bench then
            if c.source = .chute then { k with freeItems := k.freeItems - 1, freeVu := k.freeVu - i.vu }
            else { k with heldItems := k.heldItems + 1, heldVu := k.heldVu + i.vu } else k)
          items := s.items.map (fun j : Item => if j.tag = tag then { j with
            alloc := some ⟨c.slot, c.line, c.bench, c.rank, c.zone, n⟩
            wait := c.wait
            hold := if c.source = .chute then .chute c.bench else .common c.bench
            dest := some point } else j)
          bus := { s.bus with sent := s.bus.sent ++ [(.sorter, .route tag (some point))] } }
        s.runAllocation tag =
          if i.cls = .chilled ∧ h.pocket = .none then { u with
            benches := u.benches.map (fun y : Bench => if y.number = c.bench then
              { y with hamper := y.hamper.map (fun g : Hamper => { g with pocket := .requested }) } else y)
            bus := { u.bus with sent := u.bus.sent ++ [(.bench c.bench, .fitPocket)] } }
          else u

end
end

