-- ==== Sys2Proof/Laws/Bytes.lean ====
section
/-! SUPPORT. Bytes and fields read back, and a whole frame fed to a receiver (R188, R190, R195). -/

set_option Elab.async false

namespace Sys2Proof.Machine

open Sys2Proof

/-! ### Fields -/

@[simp] theorem leBytes_length (n v : Nat) : (leBytes n v).length = n := by
  induction n generalizing v <;> simp [leBytes, *]

theorem leNat_leBytes (n v : Nat) (h : v < 256 ^ n) : leNat (leBytes n v) = v := by
  induction n generalizing v with
  | zero => simp [leBytes, leNat] at *; omega
  | succ n ih =>
    simp only [leBytes, leNat, BitVec.toNat_ofNat]
    rw [ih (v / 256) (by rw [pow_succ] at h; omega)]
    omega

@[simp] theorem crcBytes_length (bs : List Byte) : (crcBytes bs).length = 2 := rfl

@[simp] theorem leBytesOpt_length (n : Nat) (v : Option Nat) : (leBytesOpt n v).length = n := by
  cases v <;> simp [leBytesOpt]

/-- A field past the first part of a body. -/
theorem fieldAt_skip (xs ys : List Byte) (o n k : Nat) (h : o = xs.length + n) :
    fieldAt (xs ++ ys) o k = fieldAt ys n k := by
  subst h
  simp only [fieldAt, List.drop_append]
  rw [List.drop_eq_nil_of_le (by omega)]
  simp

theorem fieldAt_head (n v : Nat) (ys : List Byte) (h : v < 256 ^ n) : fieldAt (leBytes n v ++ ys) 0 n = v := by
  simp only [fieldAt, List.drop_zero]
  rw [List.take_left' (leBytes_length _ _), leNat_leBytes _ _ h]

theorem leNat_ones (n : Nat) : leNat (List.replicate n (0xFF : Byte)) = 256 ^ n - 1 := by
  induction n with
  | zero => rfl
  | succ n ih =>
    have h : 1 ≤ 256 ^ n := Nat.one_le_pow _ _ (by decide)
    rw [List.replicate_succ, leNat, ih, pow_succ]
    simp
    omega

/-- A field with an absent value reads as all ones where it is absent. -/
theorem fieldAt_opt (n : Nat) (v : Option Nat) (ys : List Byte) (h : ∀ m, v = some m → m < 256 ^ n) :
    fieldAt (leBytesOpt n v ++ ys) 0 n = v.getD (256 ^ n - 1) := by
  cases v with
  | none =>
    simp only [fieldAt, List.drop_zero, leBytesOpt]
    rw [List.take_left' (by simp), leNat_ones]
    rfl
  | some m => exact fieldAt_head n m ys (h m rfl)

/-! ### Bodies sent (R197) -/

/-- What `arrange` can do: it changes the order and nothing else. -/
theorem arrange_perm {α : Type} (pick : Nat → Nat) (xs : List α) : (arrange pick xs).Perm xs := by
  induction xs with
  | nil => exact .refl _
  | cons x xs ih =>
    have hl : (arrange pick xs).length = xs.length := ih.length_eq
    have hm : pick xs.length % (xs.length + 1) ≤ (arrange pick xs).length := by
      rw [hl]
      exact Nat.lt_succ_iff.mp (Nat.mod_lt _ xs.length.succ_pos)
    exact (List.perm_insertIdx x _ hm).trans (ih.cons x)

/-- A body that is the fields of a layout holds each of them whole, in some order. -/
theorem Layout.fields_perm (l : Layout) (fs : List (List Byte)) : ∃ gs : List (List Byte), gs.Perm fs ∧ l.fields fs = gs.flatten :=
  ⟨_, arrange_perm _ fs, rfl⟩

/-- The width of a body that is the fields of a layout. -/
theorem Layout.fields_length (l : Layout) (fs : List (List Byte)) : (l.fields fs).length = (fs.map List.length).sum := by
  obtain ⟨gs, hp, he⟩ := l.fields_perm fs
  rw [he, List.length_flatten]
  exact (hp.map _).sum_eq

@[simp] theorem Layout.numOpt_none (l : Layout) (k least : Nat) :
    l.numOpt k none least = List.replicate (least + Config.fieldExtra l k) 0xFF := rfl

@[simp] theorem Layout.numOpt_some (l : Layout) (k n least : Nat) :
    l.numOpt k (some n) least = leBytes (least + Config.fieldExtra l k) n := rfl

@[simp] theorem Layout.numOpt_length (l : Layout) (k : Nat) (v : Option Nat) (least : Nat) :
    (l.numOpt k v least).length = least + Config.fieldExtra l k := leBytesOpt_length _ _

/-! ### A frame fed byte by byte -/

/-- What a frame after its start byte ends as: good, or of a wrong check value. -/
def frameEnd (full : List Byte) (len : Nat) : FrameEnd :=
  if crcBytes (full.take (len + 2)) = full.drop (len + 2) then .good ((full.drop 2).take len) else .badCrc

/-- A byte before the last joins the frame. -/
theorem rxByte_joins (low high : Nat) (full : List Byte) (len : Nat) (hlen : full.length = len + 4) (hl : low ≤ len)
    (hh : len ≤ high) (hf : fieldAt full 0 2 = len) (k : Nat) (hk : k + 1 < full.length) :
    rxByte low high (some (full.take k)) full[k] = (some (full.take (k + 1)), none) := by
  have ht : full.take k ++ [full[k]] = full.take (k + 1) := by simp
  simp only [rxByte, ht, List.length_take]
  have hm : min (k + 1) full.length = k + 1 := by omega
  rw [hm]
  split
  · rfl
  · have : fieldAt (full.take (k + 1)) 0 2 = len := by
      rw [← hf]
      simp only [fieldAt, List.drop_zero, List.take_take]
      congr 2
      omega
    rw [this, if_neg (by simp; omega), if_pos (by omega)]

/-- The last byte ends the frame. -/
theorem rxByte_ends (low high : Nat) (full : List Byte) (len : Nat) (hlen : full.length = len + 4) (hl : low ≤ len)
    (hh : len ≤ high) (hf : fieldAt full 0 2 = len) :
    rxByte low high (some (full.take (len + 3))) (full[len + 3]'(by omega)) = (none, some (frameEnd full len)) := by
  have ht : full.take (len + 3) ++ [full[len + 3]'(by omega)] = full := by
    rw [List.take_append_getElem]
    simp [hlen]
  unfold frameEnd
  simp only [rxByte, ht, hf]
  rw [if_neg (by omega), if_neg (by simp; omega), if_neg (by omega)]
  split <;> rfl

/-- R188: a whole frame of a length in range on the host link, the receiver between frames. -/
theorem hostBytes_frame (s : State) (full : List Byte) (len : Nat) (hlen : full.length = len + 4) (hl : 2 ≤ len)
    (hh : len ≤ 1026) (hf : fieldAt full 0 2 = len) (h0 : s.link.rx = none) :
    State.hostBytes (startByte :: full) s = s.hostFrameEnds (frameEnd full len) := by
  have key : ∀ j k, k + j + 1 = full.length →
      State.hostBytes (full.drop k) { s with link := { s.link with rx := some (full.take k) } } =
        s.hostFrameEnds (frameEnd full len) := by
    intro j
    induction j with
    | zero =>
      intro k hk
      obtain rfl : k = len + 3 := by omega
      rw [List.drop_eq_getElem_cons (by omega)]
      simp only [State.hostBytes]
      rw [rxByte_ends 2 1026 full len hlen hl hh hf, show full.drop (len + 3 + 1) = [] by simp [hlen]]
      simp only [State.hostBytes]
      rw [show { s.link with rx := none } = s.link by rw [← h0]]
    | succ j ih =>
      intro k hk
      rw [List.drop_eq_getElem_cons (by omega)]
      simp only [State.hostBytes]
      rw [rxByte_joins 2 1026 full len hlen hl hh hf k (by omega)]
      exact ih (k + 1) (by omega)
  simp only [State.hostBytes, h0, rxByte, startByte]
  exact key (full.length - 1) 0 (by omega)

/-- R190: a whole frame of a length in range on the cell bus, the receiver between frames. -/
theorem busBytes_frame (s : State) (full : List Byte) (len : Nat) (hlen : full.length = len + 4) (hl : 3 ≤ len)
    (hh : len ≤ 1027) (hf : fieldAt full 0 2 = len) (h0 : s.bus.rx = none) :
    State.busBytes (startByte :: full) s = State.judgeQuiet s (s.busFrameEnds (frameEnd full len)) := by
  have key : ∀ j k, k + j + 1 = full.length →
      State.busBytes (full.drop k) { s with bus := { s.bus with rx := some (full.take k) } } =
        State.judgeQuiet s (s.busFrameEnds (frameEnd full len)) := by
    intro j
    induction j with
    | zero =>
      intro k hk
      obtain rfl : k = len + 3 := by omega
      rw [List.drop_eq_getElem_cons (by omega)]
      simp only [State.busBytes]
      rw [rxByte_ends 3 1027 full len hlen hl hh hf, show full.drop (len + 3 + 1) = [] by simp [hlen]]
      simp only [State.busBytes]
      rw [show { s.bus with rx := none } = s.bus by rw [← h0]]
    | succ j ih =>
      intro k hk
      rw [List.drop_eq_getElem_cons (by omega)]
      simp only [State.busBytes]
      rw [rxByte_joins 3 1027 full len hlen hl hh hf k (by omega)]
      exact ih (k + 1) (by omega)
  simp only [State.busBytes, h0, rxByte, startByte]
  exact key (full.length - 1) 0 (by omega)

end Sys2Proof.Machine
end

