-- ==== Sys2Proof/Laws/Tables.lean ====
section
/-! SUPPORT. What reading, amending, inserting and dropping do to a keyed table. -/

set_option Elab.async false

namespace Sys2Proof.Machine

open Sys2Proof

variable {α : Type} {key : α → Nat}

/-- An amendment that keeps keys keeps the keys of the table. -/
theorem amend_keys {n : Nat} {f : α → α} (hf : ∀ x, key (f x) = key x) (xs : List α) :
    (amend key n f xs).map key = xs.map key := by
  simp only [amend, List.map_map]
  refine List.map_congr_left fun x _ => ?_
  simp only [Function.comp]
  split
  · exact hf x
  · rfl

/-- Any projection that the amendment keeps is kept along the table. -/
theorem amend_proj {β : Type} {n : Nat} {f : α → α} {g : α → β} (hf : ∀ x, g (f x) = g x) (xs : List α) :
    (amend key n f xs).map g = xs.map g := by
  simp only [amend, List.map_map]
  refine List.map_congr_left fun x _ => ?_
  simp only [Function.comp]
  split
  · exact hf x
  · rfl

theorem mem_amend {n : Nat} {f : α → α} {xs : List α} {y : α} (h : y ∈ amend key n f xs) :
    y ∈ xs ∨ ∃ x ∈ xs, key x = n ∧ y = f x := by
  simp only [amend, List.mem_map] at h
  obtain ⟨x, hx, rfl⟩ := h
  split
  case isTrue h => exact .inr ⟨x, hx, by simpa using h, rfl⟩
  case isFalse => exact .inl hx

theorem look_some {n : Nat} {xs : List α} {x : α} (h : look key n xs = some x) : x ∈ xs ∧ key x = n :=
  ⟨List.mem_of_find?_eq_some h, by simpa using List.find?_some h⟩

/-- The entry read back after an amendment that keeps its key. -/
theorem look_amend_same {n : Nat} {f : α → α} (hf : ∀ x, key (f x) = key x) (xs : List α) :
    look key n (amend key n f xs) = (look key n xs).map f := by
  induction xs with
  | nil => rfl
  | cons x xs ih =>
    simp only [look, amend, List.map_cons, List.find?_cons] at ih ⊢
    by_cases hx : key x = n
    · simp [hx, hf]
    · have h3 : ((if (key x == n) = true then f x else x)) = x := by simp [hx]
      rw [h3, beq_false_of_ne hx]
      exact ih

/-- Every other entry stands. -/
theorem look_amend_other {n m : Nat} {f : α → α} (hf : ∀ x, key (f x) = key x) (hm : m ≠ n) (xs : List α) :
    look key m (amend key n f xs) = look key m xs := by
  induction xs with
  | nil => rfl
  | cons x xs ih =>
    simp only [look, amend, List.map_cons, List.find?_cons] at ih ⊢
    by_cases hx : key x = n
    · have h1 : key x ≠ m := fun h => hm (h ▸ hx)
      have h2 : key (f x) ≠ m := by rw [hf]; exact h1
      have h3 : ((if (key x == n) = true then f x else x)) = f x := by simp [hx]
      rw [h3, beq_false_of_ne h2, beq_false_of_ne h1]
      exact ih
    · have h3 : ((if (key x == n) = true then f x else x)) = x := by simp [hx]
      rw [h3]
      cases h : key x == m
      · exact ih
      · rfl

/-- In a table of rising keys, the entry of a key is the one a member of that key is. -/
theorem look_of_mem {xs : List α} (hp : xs.Pairwise (fun x y => key x < key y)) {x : α} (hx : x ∈ xs) :
    look key (key x) xs = some x := by
  induction xs with
  | nil => cases hx
  | cons y ys ih =>
    simp only [look, List.find?_cons]
    rcases List.mem_cons.1 hx with rfl | hx
    · simp
    · have hlt := (List.pairwise_cons.1 hp).1 x hx
      have hne : key y ≠ key x := by omega
      rw [beq_false_of_ne hne]
      exact ih (List.pairwise_cons.1 hp).2 hx

theorem mem_insertBy {a y : α} {xs : List α} : y ∈ insertBy key a xs ↔ y = a ∨ y ∈ xs := by
  induction xs with
  | nil => simp [insertBy]
  | cons x xs ih =>
    simp only [insertBy]
    split
    · simp
    · simp only [List.mem_cons, ih]
      tauto

theorem length_insertBy {a : α} (xs : List α) : (insertBy key a xs).length = xs.length + 1 := by
  induction xs with
  | nil => rfl
  | cons x xs ih =>
    simp only [insertBy]
    split <;> simp [ih]

/-- A table of rising keys stays so when an entry of a new key is put in. -/
theorem pairwise_insertBy {a : α} {xs : List α} (hp : xs.Pairwise (fun x y => key x < key y))
    (hn : ∀ x ∈ xs, key x ≠ key a) : (insertBy key a xs).Pairwise (fun x y => key x < key y) := by
  induction xs with
  | nil => simp [insertBy]
  | cons x xs ih =>
    obtain ⟨h1, h2⟩ := List.pairwise_cons.1 hp
    simp only [insertBy]
    split
    case isTrue h =>
      refine List.pairwise_cons.2 ⟨fun y hy => ?_, hp⟩
      rcases List.mem_cons.1 hy with rfl | hy
      · exact h
      · exact lt_trans h (h1 y hy)
    case isFalse h =>
      refine List.pairwise_cons.2 ⟨fun y hy => ?_, ih h2 fun y hy => hn y (List.mem_cons_of_mem _ hy)⟩
      rcases mem_insertBy.1 hy with rfl | hy
      · have := hn x (by simp)
        omega
      · exact h1 y hy

theorem look_insertBy_same {a : α} {xs : List α} (hn : ∀ x ∈ xs, key x ≠ key a) :
    look key (key a) (insertBy key a xs) = some a := by
  induction xs with
  | nil => simp [insertBy, look]
  | cons x xs ih =>
    simp only [insertBy]
    split
    · simp [look]
    · have hx : key x ≠ key a := hn x (by simp)
      simp only [look, List.find?_cons, beq_false_of_ne hx]
      exact ih fun y hy => hn y (List.mem_cons_of_mem _ hy)

theorem look_insertBy_other {a : α} {m : Nat} (hm : m ≠ key a) (xs : List α) :
    look key m (insertBy key a xs) = look key m xs := by
  have ha : (key a == m) = false := beq_false_of_ne (Ne.symm hm)
  induction xs with
  | nil => simp [insertBy, look, ha]
  | cons x xs ih =>
    simp only [insertBy]
    split
    · simp [look, ha]
    · simp only [look, List.find?_cons] at ih ⊢
      rw [ih]

theorem pairwise_dropKey {n : Nat} {xs : List α} (hp : xs.Pairwise (fun x y => key x < key y)) :
    (dropKey key n xs).Pairwise (fun x y => key x < key y) := hp.filter _

theorem mem_dropKey {n : Nat} {xs : List α} {x : α} : x ∈ dropKey key n xs ↔ x ∈ xs ∧ key x ≠ n := by
  simp [dropKey]

theorem look_dropKey_same (n : Nat) (xs : List α) : look key n (dropKey key n xs) = none := by
  rw [look, List.find?_eq_none]
  intro x hx
  simpa using (mem_dropKey.1 hx).2

theorem look_dropKey_other {n m : Nat} (hm : m ≠ n) (xs : List α) : look key m (dropKey key n xs) = look key m xs := by
  induction xs with
  | nil => rfl
  | cons x xs ih =>
    simp only [look, dropKey, List.filter_cons, List.find?_cons] at ih ⊢
    by_cases hx : key x = n
    · have h1 : key x ≠ m := fun h => hm (h ▸ hx)
      simp only [hx, bne_self_eq_false, Bool.false_eq_true, if_false, beq_false_of_ne (Ne.symm hm)]
      exact ih
    · simp only [bne_iff_ne, ne_eq, hx, not_false_eq_true, ↓reduceIte, List.find?_cons]
      rw [ih]

/-- A change that keeps keys keeps a table of rising keys so. -/
theorem pairwise_map_keys {f : α → α} (hf : ∀ x, key (f x) = key x) {xs : List α}
    (hp : xs.Pairwise (fun x y => key x < key y)) : (xs.map f).Pairwise (fun x y => key x < key y) := by
  rw [List.pairwise_map]
  simpa only [hf] using hp

end Sys2Proof.Machine
end

