-- ==== Sys2Proof/Laws/Work.lean ====
section
/-! SUPPORT. What the shared operations may do, said once. An operation `Keeps` the settings, the queue of commands and the invariant. One that is `Touch` also leaves the clock and the host link alone, touches the cell only by halting it, and unsends, unreports and unraises nothing. One that is `Work` also leaves the waves and the load sequence alone, makes no item and no order, and keeps what lasts of each. -/

set_option Elab.async false

namespace Sys2Proof.Machine

open Sys2Proof

/-- From s to t no setting changes, the commands waiting stay, and the invariant is kept. -/
structure Keeps (s t : State) : Prop where
  settings : t.settings = s.settings
  pending : t.pending = s.pending
  inv : s.Inv → t.Inv

/-- From s to t, besides `Keeps`: a change of the cell state is shown by CELL_STATE, which once pending stays so; kinds
seen stay seen, records sent stay sent. -/
structure Shows (s t : State) : Prop extends Keeps s t where
  cellFlag : flagIn s.notices.pending .cellState = true → flagIn t.notices.pending .cellState = true
  notified : t.cell.state ≠ s.cell.state → flagIn t.notices.pending .cellState = true
  seen : ∀ k, kindIn s.faults.seen k = true → kindIn t.faults.seen k = true
  sent : s.bus.sent <+: t.bus.sent

/-- From s to t, besides `Shows`, every item and order there is was there, with what lasts of it. -/
structure Lasts (s t : State) : Prop extends Shows s t where
  items : ∀ j ∈ t.items, ∃ i ∈ s.items, ItemKept i j
  orders : s.Inv → ∀ p ∈ t.book.orders, ∃ o ∈ s.book.orders, OrderKept o p

/-- From s to t, besides `Shows`: the minute, the host link and the frame being assembled on the cell bus stand; the cell is as it was or has been halted by a
fault's action; flags raised stay raised. -/
structure Touch (s t : State) : Prop extends Shows s t where
  clock : t.clock = s.clock
  link : t.link = s.link
  rx : t.bus.rx = s.bus.rx
  cell : t.cell = { s.cell with state := t.cell.state }
  cellState : t.cell.state = s.cell.state ∨ t.cell.state = .halted
  noHalt : (∀ v ∈ s.faults.severities, v.action ≠ .halt) → t.cell.state = s.cell.state
  still : s.cell.state = .restarting ∨ s.cell.state = .setup → t.cell.state = s.cell.state
  flags : ∀ f, flagIn s.notices.pending f = true → flagIn t.notices.pending f = true

/-- What work keeps of an order: what lasts, and a held field that is clear. -/
structure OrderWorked (o p : Order) : Prop extends OrderKept o p where
  held : o.held = false → p.held = false ∧ (p.state = .held → o.state = .held)

/-- From s to t a block has done work: besides `Touch`, the waves and the load sequence stand, nothing joins the
held-back set, and every item and order there is was there, with all that lasts of it. -/
structure Work (s t : State) : Prop extends Touch s t where
  waves : t.waves = s.waves
  loadSeq : t.book.loadSeq = s.book.loadSeq
  heldBack : t.arbiter.heldBack ⊆ s.arbiter.heldBack
  items : ∀ j ∈ t.items, ∃ i ∈ s.items, ItemKept i j
  orders : s.Inv → ∀ p ∈ t.book.orders, ∃ o ∈ s.book.orders, OrderWorked o p
  empty : s.book.orders = [] → t.book.orders = []

variable {s t u : State}

/-! ### Items and orders -/

@[refl] theorem ItemKept.refl (i : Item) : ItemKept i i := ⟨rfl, rfl, rfl, rfl, rfl, rfl, rfl, rfl, id⟩

theorem ItemKept.trans {i j k : Item} (h : ItemKept i j) (g : ItemKept j k) : ItemKept i k :=
  ⟨g.tag.trans h.tag, g.sku.trans h.sku, g.cls.trans h.cls, g.mass.trans h.mass, g.vu.trans h.vu, g.lane.trans h.lane,
    g.chillExit.trans h.chillExit, g.deadline.trans h.deadline, g.expired ∘ h.expired⟩

/-- An item whose working fields alone change. -/
theorem ItemKept.of {i j : Item} (tag : j.tag = i.tag := by rfl) (sku : j.sku = i.sku := by rfl)
    (cls : j.cls = i.cls := by rfl) (mass : j.mass = i.mass := by rfl) (vu : j.vu = i.vu := by rfl)
    (lane : j.lane = i.lane := by rfl) (chillExit : j.chillExit = i.chillExit := by rfl)
    (deadline : j.deadline = i.deadline := by rfl) (expired : i.expired = true → j.expired = true := by exact id) :
    ItemKept i j :=
  ⟨tag, sku, cls, mass, vu, lane, chillExit, deadline, expired⟩

@[refl] theorem OrderKept.refl (o : Order) : OrderKept o o :=
  ⟨rfl, rfl, rfl, rfl, rfl, rfl, rfl, id, id, id, .refl⟩

theorem OrderKept.trans {o p q : Order} (h : OrderKept o p) (g : OrderKept p q) : OrderKept o q :=
  ⟨g.slot.trans h.slot, g.ref.trans h.ref, g.loadSeq.trans h.loadSeq, g.priority.trans h.priority, g.wave.trans h.wave,
    g.template.trans h.template, g.lines.trans h.lines, g.overdue ∘ h.overdue, g.late ∘ h.late, g.fragile ∘ h.fragile,
    h.state.trans g.state⟩

@[refl] theorem OrderWorked.refl (o : Order) : OrderWorked o o := ⟨.refl o, fun h => ⟨h, id⟩⟩

theorem OrderWorked.trans {o p q : Order} (h : OrderWorked o p) (g : OrderWorked p q) : OrderWorked o q :=
  ⟨h.toOrderKept.trans g.toOrderKept, fun ho =>
    ⟨(g.held (h.held ho).1).1, fun hq => (h.held ho).2 ((g.held (h.held ho).1).2 hq)⟩⟩

/-- An order whose working fields alone change, its state as it was. -/
theorem OrderWorked.of {o p : Order} (slot : p.slot = o.slot := by rfl) (ref : p.ref = o.ref := by rfl)
    (loadSeq : p.loadSeq = o.loadSeq := by rfl) (priority : p.priority = o.priority := by rfl)
    (wave : p.wave = o.wave := by rfl) (template : p.template = o.template := by rfl)
    (lines : p.lines.map Line.host = o.lines.map Line.host := by rfl)
    (overdue : o.overdue = true → p.overdue = true := by exact id) (late : o.late = true → p.late = true := by exact id)
    (fragile : o.fragileBegun = true → p.fragileBegun = true := by exact id) (state : p.state = o.state := by rfl)
    (held : o.held = false → p.held = false := by exact id) : OrderWorked o p :=
  ⟨⟨slot, ref, loadSeq, priority, wave, template, lines, overdue, late, fragile, state ▸ .refl⟩,
    fun h => ⟨held h, fun hp => state ▸ hp⟩⟩

/-- An order that makes one move of the table, its other lasting fields as they were, and does not become held. -/
theorem OrderWorked.move {o p : Order} (st : OrderState) (state : st ∈ orderMoves o.state)
    (held : o.held = false → p.held = false) (unheld : st ≠ .held := by decide) (hst : p.state = st := by rfl) (slot : p.slot = o.slot := by rfl) (ref : p.ref = o.ref := by rfl)
    (loadSeq : p.loadSeq = o.loadSeq := by rfl) (priority : p.priority = o.priority := by rfl)
    (wave : p.wave = o.wave := by rfl) (template : p.template = o.template := by rfl)
    (lines : p.lines.map Line.host = o.lines.map Line.host := by rfl)
    (overdue : o.overdue = true → p.overdue = true := by exact id) (late : o.late = true → p.late = true := by exact id)
    (fragile : o.fragileBegun = true → p.fragileBegun = true := by exact id) : OrderWorked o p :=
  ⟨⟨slot, ref, loadSeq, priority, wave, template, lines, overdue, late, fragile,
    .single (hst ▸ state)⟩, fun h => ⟨held h, fun hp => absurd (hst ▸ hp) unheld⟩⟩

/-- Lines changed one at a position keep what the host gave them. -/
theorem modify_host {f : Line → Line} (hf : ∀ l, (f l).host = l.host) (n : Nat) (ls : List Line) :
    (ls.modify n f).map Line.host = ls.map Line.host := by
  induction ls generalizing n with
  | nil => cases n <;> rfl
  | cons l ls ih => cases n with
    | zero => simp [hf]
    | succ n => simpa using ih n

theorem settled_host (l : Line) : l.settled.host = l.host := by
  unfold Line.settled
  split
  · split <;> rfl
  · split <;> rfl
  · split <;> rfl
  · rfl

/-! ### What is kept -/

@[refl] theorem Keeps.refl (s : State) : Keeps s s := ⟨rfl, rfl, id⟩

theorem Keeps.trans (h : Keeps s t) (k : Keeps t u) : Keeps s u :=
  ⟨k.settings.trans h.settings, k.pending.trans h.pending, k.inv ∘ h.inv⟩

/-- The same with the later change said first. -/
theorem Keeps.after (k : Keeps t u) (h : Keeps s t) : Keeps s u := h.trans k

@[refl] theorem Shows.refl (s : State) : Shows s s :=
  ⟨.refl s, id, fun h => absurd rfl h, fun _ => id, List.prefix_rfl⟩

theorem Shows.trans (h : Shows s t) (k : Shows t u) : Shows s u where
  toKeeps := h.toKeeps.trans k.toKeeps
  cellFlag := k.cellFlag ∘ h.cellFlag
  notified hn := by
    by_cases hu : u.cell.state = t.cell.state
    · exact k.cellFlag (h.notified (hu ▸ hn))
    · exact k.notified hu
  seen x hx := k.seen x (h.seen x hx)
  sent := h.sent.trans k.sent

@[refl] theorem Lasts.refl (s : State) : Lasts s s :=
  ⟨.refl s, fun j hj => ⟨j, hj, .refl j⟩, fun _ p hp => ⟨p, hp, .refl p⟩⟩

theorem Lasts.trans (h : Lasts s t) (k : Lasts t u) : Lasts s u where
  toShows := h.toShows.trans k.toShows
  items j hj := by
    obtain ⟨i, hi, h1⟩ := k.items j hj
    obtain ⟨i', hi', h2⟩ := h.items i hi
    exact ⟨i', hi', h2.trans h1⟩
  orders hI p hp := by
    obtain ⟨o, ho, h1⟩ := k.orders (h.inv hI) p hp
    obtain ⟨o', ho', h2⟩ := h.orders hI o ho
    exact ⟨o', ho', h2.trans h1⟩

/-- The same with the later change said first. -/
theorem Lasts.after (k : Lasts t u) (h : Lasts s t) : Lasts s u := h.trans k

/-- A change that keeps and shows, and leaves the items and the orders as they are. -/
theorem Shows.lasts (h : Shows s t) (hi : t.items = s.items := by rfl) (ho : t.book.orders = s.book.orders := by rfl) :
    Lasts s t :=
  ⟨h, fun j hj => ⟨j, hi ▸ hj, .refl j⟩, fun _ p hp => ⟨p, ho ▸ hp, .refl p⟩⟩

/-- A change that leaves the cell, the notices, the faults and the bus as they are. -/
theorem Keeps.shows (h : Keeps s t) (he : t.cell.state = s.cell.state := by rfl)
    (hn : t.notices.pending = s.notices.pending := by rfl) (hf : t.faults.seen = s.faults.seen := by rfl)
    (hb : s.bus.sent <+: t.bus.sent := by exact List.prefix_rfl) : Shows s t :=
  ⟨h, fun g => hn ▸ g, fun g => absurd he g, fun _ g => hf ▸ g, hb⟩

@[refl] theorem Touch.refl (s : State) : Touch s s :=
  ⟨.refl s, rfl, rfl, rfl, rfl, .inl rfl, fun _ => rfl, fun _ => rfl, fun _ => id⟩

theorem Keeps.actions (h : Keeps s t) (ha : ∀ v ∈ s.faults.severities, v.action ≠ .halt) :
    ∀ v ∈ t.faults.severities, v.action ≠ .halt := by
  intro v hv hn
  have hm : (v.number, v.action) ∈ t.settings.actions := List.mem_map_of_mem (f := fun v => (v.number, v.action)) hv
  rw [h.settings] at hm
  obtain ⟨w, hw, he⟩ := List.mem_map.1 hm
  exact ha w hw (by injection he with _ h2; rw [h2, hn])

theorem Touch.trans (h : Touch s t) (k : Touch t u) : Touch s u where
  toShows := h.toShows.trans k.toShows
  clock := k.clock.trans h.clock
  link := k.link.trans h.link
  rx := k.rx.trans h.rx
  cell := by rw [k.cell, h.cell]
  cellState := by
    rcases k.cellState with hk | hk
    · rw [hk]; exact h.cellState
    · exact .inr hk
  noHalt ha := (k.noHalt (h.toKeeps.actions ha)).trans (h.noHalt ha)
  still hr := (k.still (by rwa [h.still hr])).trans (h.still hr)
  flags f hf := k.flags f (h.flags f hf)

/-- R182: the cell is as it was, or has been halted from a state that a halt request finds work in. -/
theorem Touch.cellCases (h : Touch s t) : t.cell.state = s.cell.state ∨ (t.cell.state = .halted ∧
    (s.cell.state = .ready ∨ s.cell.state = .running ∨ s.cell.state = .paused ∨ s.cell.state = .draining)) := by
  rcases h.cellState with hc | hc
  · exact .inl hc
  · have hs := h.still
    cases he : s.cell.state <;> simp_all

/-- The same with the later change said first. -/
theorem Touch.after (k : Touch t u) (h : Touch s t) : Touch s u := h.trans k

@[refl] theorem Work.refl (s : State) : Work s s :=
  ⟨Touch.refl s, rfl, rfl, fun _ => id, fun j hj => ⟨j, hj, .refl j⟩, fun _ p hp => ⟨p, hp, .refl p⟩, id⟩

theorem Work.trans (h : Work s t) (k : Work t u) : Work s u where
  toTouch := h.toTouch.trans k.toTouch
  waves := k.waves.trans h.waves
  loadSeq := k.loadSeq.trans h.loadSeq
  heldBack _ hg := h.heldBack (k.heldBack hg)
  items j hj := by
    obtain ⟨i, hi, h1⟩ := k.items j hj
    obtain ⟨i', hi', h2⟩ := h.items i hi
    exact ⟨i', hi', h2.trans h1⟩
  orders hI p hp := by
    obtain ⟨o, ho, h1⟩ := k.orders (h.inv hI) p hp
    obtain ⟨o', ho', h2⟩ := h.orders hI o ho
    exact ⟨o', ho', h2.trans h1⟩
  empty := k.empty ∘ h.empty

/-- The same with the later work said first. -/
theorem Work.after (k : Work t u) (h : Work s t) : Work s u := h.trans k

/-- Work keeps what lasts. -/
theorem Work.lasts (h : Work s t) : Lasts s t :=
  ⟨h.toShows, h.items, fun hi p hp => (h.orders hi p hp).imp fun _ g => ⟨g.1, g.2.toOrderKept⟩⟩

/-- A change that leaves the clock, the link, the cell, the notices, the faults and the bus as they are. -/
theorem Touch.of (hs : t.settings = s.settings) (hi : s.Inv → t.Inv) (hp : t.pending = s.pending := by rfl)
    (hc : t.clock = s.clock := by rfl) (hl : t.link = s.link := by rfl) (he : t.cell = s.cell := by rfl)
    (hn : t.notices.pending = s.notices.pending := by rfl) (hf : t.faults.seen = s.faults.seen := by rfl)
    (hb : s.bus.sent <+: t.bus.sent := by exact List.prefix_rfl) (hx : t.bus.rx = s.bus.rx := by rfl) : Touch s t :=
  ⟨Keeps.shows ⟨hs, hp, hi⟩ (by rw [he]) hn hf hb, hc, hl, hx, by rw [he], .inl (by rw [he]), fun _ => by rw [he],
    fun _ => by rw [he], fun _ h => by rw [hn]; exact h⟩

/-- A change that leaves the waves, the book, the held-back set and the items as they are. -/
theorem Touch.work (h : Touch s t) (hw : t.waves = s.waves := by rfl) (ho : t.book = s.book := by rfl)
    (hh : t.arbiter.heldBack ⊆ s.arbiter.heldBack := by exact fun _ h => h) (hi : t.items = s.items := by rfl) :
    Work s t :=
  ⟨h, hw, by rw [ho], hh, fun j hj => ⟨j, hi ▸ hj, .refl j⟩, fun _ p hp => ⟨p, ho ▸ hp, .refl p⟩, fun g => ho ▸ g⟩

/-- Work that leaves the clock, the link, the cell, the notices, the faults, the waves, the book and the items as they
are. -/
theorem Work.of (hs : t.settings = s.settings) (hi : s.Inv → t.Inv) (hp : t.pending = s.pending := by rfl)
    (hc : t.clock = s.clock := by rfl) (hl : t.link = s.link := by rfl) (he : t.cell = s.cell := by rfl)
    (hn : t.notices.pending = s.notices.pending := by rfl) (hf : t.faults.seen = s.faults.seen := by rfl)
    (hb : s.bus.sent <+: t.bus.sent := by exact List.prefix_rfl) (hw : t.waves = s.waves := by rfl)
    (ho : t.book = s.book := by rfl) (hh : t.arbiter.heldBack ⊆ s.arbiter.heldBack := by exact fun _ h => h)
    (him : t.items = s.items := by rfl) (hx : t.bus.rx = s.bus.rx := by rfl) : Work s t :=
  (Touch.of hs hi hp hc hl he hn hf hb hx).work hw ho hh him

/-! ### The single updates -/

/-- Work that is done only where a state has a shape, and nothing otherwise. -/
theorem Work.ite {p : Prop} [Decidable p] {a b : State} (ha : p → Work s a) (hb : ¬p → Work s b) :
    Work s (if p then a else b) := by
  split
  case isTrue h => exact ha h
  case isFalse h => exact hb h

theorem Touch.ite {p : Prop} [Decidable p] {a b : State} (ha : p → Touch s a) (hb : ¬p → Touch s b) :
    Touch s (if p then a else b) := by
  split
  case isTrue h => exact ha h
  case isFalse h => exact hb h

theorem work_items {f : Item → Item} (hf : ∀ i, ItemKept i (f i)) (s : State) :
    Work s { s with items := s.items.map f } :=
  { Touch.of (s := s) (t := { s with items := s.items.map f }) rfl fun hi => { hi with
      tags := pairwise_map_keys (fun i => (hf i).tag) hi.tags
      tableRoom := by simpa using hi.tableRoom } with
    waves := rfl
    loadSeq := rfl
    heldBack := fun _ h => h
    items := fun j hj => by
      obtain ⟨i, hi, rfl⟩ := List.mem_map.1 hj
      exact ⟨i, hi, hf i⟩
    orders := fun _ p hp => ⟨p, hp, .refl p⟩
    empty := id }

theorem updItem_work {f : Item → Item} (tag : Nat) (s : State) (hf : ∀ i, ItemKept i (f i) := by exact fun _ => .of) :
    Work s (s.updItem tag f) :=
  work_items (f := fun i => if i.tag == tag then f i else i) (fun i => by
    show ItemKept i (if i.tag == tag then f i else i)
    split
    · exact hf i
    · exact .refl i) s

theorem dropItem_work (tag : Nat) (s : State) : Work s { s with items := dropKey Item.tag tag s.items } :=
  { Touch.of (s := s) (t := { s with items := dropKey Item.tag tag s.items }) rfl fun hi => { hi with
      tags := pairwise_dropKey hi.tags
      tableRoom := (List.length_filter_le _ _).trans hi.tableRoom } with
    waves := rfl
    loadSeq := rfl
    heldBack := fun _ h => h
    items := fun j hj => ⟨j, (mem_dropKey.1 hj).1, .refl j⟩
    orders := fun _ p hp => ⟨p, hp, .refl p⟩
    empty := id }

/-- A change of the orders one by one, slots kept. -/
theorem touch_orders {f : Order → Order} (hf : ∀ o, (f o).slot = o.slot) (s : State) :
    Touch s { s with book := { s.book with orders := s.book.orders.map f } } :=
  .of rfl fun hi => { hi with
    slots := pairwise_map_keys hf hi.slots
    slotRange := by
      intro o ho
      obtain ⟨p, hp, rfl⟩ := List.mem_map.1 ho
      rw [hf]
      exact hi.slotRange p hp }

theorem work_orders {f : Order → Order} (hs : ∀ o, (f o).slot = o.slot) (s : State)
    (hf : s.Inv → ∀ o ∈ s.book.orders, OrderWorked o (f o)) :
    Work s { s with book := { s.book with orders := s.book.orders.map f } } :=
  { touch_orders hs s with
    waves := rfl
    loadSeq := rfl
    heldBack := fun _ h => h
    items := fun j hj => ⟨j, hj, .refl j⟩
    orders := fun hi p hp => by
      obtain ⟨o, ho, rfl⟩ := List.mem_map.1 hp
      exact ⟨o, ho, hf hi o ho⟩
    empty := fun h => by simp [h] }

theorem updOrder_touch {f : Order → Order} (slot : Nat) (s : State)
    (hf : ∀ o, (f o).slot = o.slot := by exact fun _ => rfl) : Touch s (s.updOrder slot f) :=
  touch_orders (f := fun o => if o.slot == slot then f o else o) (fun o => by
    show (if o.slot == slot then f o else o).slot = o.slot
    split
    · exact hf o
    · rfl) s

/-- The order of a slot changed, where the change depends on what the order there is. -/
theorem updOrder_work_at {f : Order → Order} (slot : Nat) (s : State)
    (hf : s.Inv → ∀ o, s.order? slot = some o → OrderWorked o (f o))
    (hs : ∀ o, (f o).slot = o.slot := by exact fun _ => rfl) : Work s (s.updOrder slot f) :=
  work_orders (f := fun o => if o.slot == slot then f o else o) (fun o => by
    show (if o.slot == slot then f o else o).slot = o.slot
    split
    · exact hs o
    · rfl) s fun hi o ho => by
    show OrderWorked o (if o.slot == slot then f o else o)
    split
    case isTrue h =>
      have h' : o.slot = slot := by simpa using h
      exact hf hi o (h' ▸ look_of_mem hi.slots ho)
    case isFalse => exact .refl o

theorem updOrder_work {f : Order → Order} (slot : Nat) (s : State)
    (hf : ∀ o, OrderWorked o (f o) := by exact fun _ => .of) : Work s (s.updOrder slot f) :=
  updOrder_work_at slot s (fun _ o _ => hf o) fun o => (hf o).slot

theorem updLine_work (slot n : Nat) (f : Line → Line) (s : State)
    (hf : ∀ l, (f l).host = l.host := by exact fun _ => rfl) : Work s (s.updLine slot n f) :=
  updOrder_work slot s fun _ => .of (lines := modify_host hf _ _)

/-- What a change of a bench record may do. -/
structure BenchKept (x y : Bench) : Prop where
  number : y.number = x.number
  chilled : y.chilledCapable = x.chilledCapable
  heavy : y.heavyCapable = x.heavyCapable
  largest : y.largestSize = x.largestSize

/-- What a change of a bench record may do to its placement list: keep it within its room, or not lengthen it. -/
def PlacesKept (x y : Bench) : Prop :=
  ∀ h, y.hamper = some h → h.places.length ≤ 4 ∨ ∃ g, x.hamper = some g ∧ h.places.length ≤ g.places.length

theorem PlacesKept.same {x y : Bench} (h : y.hamper = x.hamper) : PlacesKept x y :=
  fun g e => .inr ⟨g, by rw [← h, e], le_rfl⟩

theorem work_benches {f : Bench → Bench} (hf : ∀ x, BenchKept x (f x))
    (hp : s.Inv → ∀ x ∈ s.benches, PlacesKept x (f x)) : Work s { s with benches := s.benches.map f } :=
  .of (by
    have : (s.benches.map f).map (fun x => (x.number, x.chilledCapable, x.heavyCapable, x.largestSize)) =
        s.benches.map (fun x => (x.number, x.chilledCapable, x.heavyCapable, x.largestSize)) := by
      rw [List.map_map]
      refine List.map_congr_left fun x _ => ?_
      obtain ⟨h1, h2, h3, h4⟩ := hf x
      simp only [Function.comp, h1, h2, h3, h4]
    simp only [State.settings, this]) fun hi => { hi with
    benchKeys := by
      show (s.benches.map f).map Bench.number = _
      rw [List.map_map, ← hi.benchKeys]
      exact List.map_congr_left fun x _ => (hf x).number
    places := by
      intro y hy h hh
      obtain ⟨x, hx, rfl⟩ := List.mem_map.1 hy
      rcases hp hi x hx h hh with h1 | ⟨g, hg, hl⟩
      · exact h1
      · exact hl.trans (hi.places x hx g hg) }

theorem updBench_work {f : Bench → Bench} (b : Nat) (s : State)
    (hp : s.Inv → ∀ x ∈ s.benches, x.number = b → PlacesKept x (f x))
    (hf : ∀ x, BenchKept x (f x) := by exact fun _ => ⟨rfl, rfl, rfl, rfl⟩) : Work s (s.updBench b f) :=
  work_benches (f := fun x => if x.number == b then f x else x) (fun x => by
    show BenchKept x (if x.number == b then f x else x)
    split
    · exact hf x
    · exact ⟨rfl, rfl, rfl, rfl⟩) fun hi x hx => by
    show PlacesKept x (if x.number == b then f x else x)
    split
    case isTrue h => exact hp hi x hx (by simpa using h)
    case isFalse => exact .same rfl

/-- A change of a bench record that leaves its hamper alone or takes it away. -/
theorem updBench_fields_work {f : Bench → Bench} (b : Nat) (s : State)
    (hf : ∀ x, BenchKept x (f x) := by exact fun _ => ⟨rfl, rfl, rfl, rfl⟩)
    (hh : ∀ x, (f x).hamper = x.hamper ∨ (f x).hamper = none := by exact fun _ => .inl rfl) :
    Work s (s.updBench b f) :=
  updBench_work b s (fun _ x _ _ => by
    rcases hh x with h | h
    · exact .same h
    · intro g e
      rw [h] at e
      cases e) hf

/-- A change of a hamper record that does not lengthen its placement list. -/
theorem updHamper_work {f : Hamper → Hamper} (b : Nat) (s : State)
    (hf : ∀ h, (f h).places.length ≤ h.places.length := by exact fun _ => le_rfl) : Work s (s.updHamper b f) :=
  updBench_work (f := fun x => { x with hamper := x.hamper.map f }) b s
    fun _ x _ _ h e => by
      obtain ⟨g, hg, rfl⟩ := Option.map_eq_some_iff.1 (show x.hamper.map f = some h from e)
      exact .inr ⟨g, hg, hf g⟩

theorem work_chutes {f : Chute → Chute}
    (hf : ∀ c, (f c).bench = c.bench ∧ (f c).reserveItems = c.reserveItems ∧ (f c).reserveVu = c.reserveVu ∧
      (f c).capItems = c.capItems ∧ (f c).capVu = c.capVu) (s : State) :
    Work s { s with chutes := s.chutes.map f } :=
  .of (by
    have : (s.chutes.map f).map (fun c => (c.bench, c.reserveItems, c.reserveVu, c.capItems, c.capVu)) =
        s.chutes.map (fun c => (c.bench, c.reserveItems, c.reserveVu, c.capItems, c.capVu)) := by
      rw [List.map_map]
      refine List.map_congr_left fun c _ => ?_
      obtain ⟨h1, h2, h3, h4, h5⟩ := hf c
      simp only [Function.comp, h1, h2, h3, h4, h5]
    simp only [State.settings, this]) fun hi => { hi with
    chuteKeys := by
      show (s.chutes.map f).map Chute.bench = _
      rw [List.map_map, ← hi.chuteKeys]
      exact List.map_congr_left fun c _ => (hf c).1 }

theorem updChute_work {f : Chute → Chute} (b : Nat) (s : State)
    (hf : ∀ c, (f c).bench = c.bench ∧ (f c).reserveItems = c.reserveItems ∧ (f c).reserveVu = c.reserveVu ∧
      (f c).capItems = c.capItems ∧ (f c).capVu = c.capVu := by exact fun _ => ⟨rfl, rfl, rfl, rfl, rfl⟩) :
    Work s (s.updChute b f) :=
  work_chutes (f := fun c => if c.bench == b then f c else c) (fun c => by
    split
    · exact hf c
    · exact ⟨rfl, rfl, rfl, rfl, rfl⟩) s

theorem pool_work (n v : Nat) (s : State) : Work s { s with pool := { s.pool with freeItems := n, freeVu := v } } :=
  .of rfl fun hi => { hi with }

theorem entry_work (n : Nat) (hn : n < 4294967296) (s : State) : Work s { s with entryCounter := n } :=
  .of rfl fun hi => { hi with entries := hn }

/-- What a change of the arbiter must keep. -/
theorem arbiter_touch {a : Arbiter}
    (ha : s.Inv → a.releases.length ≤ 2 ∧ a.heldBack.Pairwise (· < ·) ∧ 1 ≤ a.pointer ∧ a.pointer ≤ 12) :
    Touch s { s with arbiter := a } :=
  .of rfl fun hi => { hi with
    releases := (ha hi).1
    heldBack := (ha hi).2.1
    benchPointer := (ha hi).2.2 }

theorem arbiter_work {a : Arbiter}
    (ha : s.Inv → a.releases.length ≤ 2 ∧ a.heldBack.Pairwise (· < ·) ∧ 1 ≤ a.pointer ∧ a.pointer ≤ 12)
    (hh : a.heldBack ⊆ s.arbiter.heldBack := by exact fun _ h => h) : Work s { s with arbiter := a } :=
  (arbiter_touch ha).work (hh := hh)

theorem work_lanes {f : Lane → Lane} (hf : ∀ l, (f l).number = l.number ∧ (f l).vector = l.vector)
    (hq : s.Inv → ∀ l ∈ s.lanes, (f l).queue.length ≤ 4) : Work s { s with lanes := s.lanes.map f } :=
  .of (by
    have : (s.lanes.map f).map (fun l => (l.number, l.vector)) = s.lanes.map (fun l => (l.number, l.vector)) := by
      rw [List.map_map]
      refine List.map_congr_left fun l _ => ?_
      simp only [Function.comp, (hf l).1, (hf l).2]
    simp only [State.settings, this]) fun hi => { hi with
    laneKeys := by
      show (s.lanes.map f).map Lane.number = _
      rw [List.map_map, ← hi.laneKeys]
      exact List.map_congr_left fun l _ => (hf l).1
    queues := by
      intro l hl
      obtain ⟨k, hk, rfl⟩ := List.mem_map.1 hl
      exact hq hi k hk }

theorem updLane_work {f : Lane → Lane} (n : Nat) (s : State)
    (hq : s.Inv → ∀ l ∈ s.lanes, l.number = n → (f l).queue.length ≤ 4)
    (hf : ∀ l, (f l).number = l.number ∧ (f l).vector = l.vector := by exact fun _ => ⟨rfl, rfl⟩) :
    Work s (s.updLane n f) :=
  work_lanes (f := fun l => if l.number == n then f l else l) (fun l => by
    split
    · exact hf l
    · exact ⟨rfl, rfl⟩) fun hi l hl => by
    split
    case isTrue h => exact hq hi l hl (by simpa using h)
    case isFalse => exact hi.queues l hl

theorem admission_work {p : Nat} {b : Bool} (hp : s.Inv → p < 32) :
    Work s { s with admission := { s.admission with pointer := p, mergeFree := b } } :=
  .of rfl fun hi => { hi with pointer := hp hi }

theorem updDispatch_work {f : DispatchLane → DispatchLane} (n : Nat) (s : State)
    (hf : ∀ d, (f d).number = d.number ∧ (f d).capacity = d.capacity ∧ (f d).matchCount = d.matchCount := by
      exact fun _ => ⟨rfl, rfl, rfl⟩) : Work s (s.updDispatch n f) :=
  .of (by
    have : (amend DispatchLane.number n f s.dispatch).map (fun d => (d.number, d.capacity, d.matchCount)) =
        s.dispatch.map (fun d => (d.number, d.capacity, d.matchCount)) := amend_proj (fun d => by
      obtain ⟨h1, h2, h3⟩ := hf d
      rw [h1, h2, h3]) _
    simp only [State.settings, State.updDispatch, this]) fun hi => { hi with
    dispatchKeys := (amend_keys (fun d => (hf d).1) _).trans hi.dispatchKeys }

theorem updWave_touch {st : WaveState} (hst : st ≠ .unused) (n : Nat) (s : State)
    (hn : s.Inv → ∀ w ∈ s.waves, w.number = n → w.state ≠ .unused) :
    Touch s (s.updWave n (fun w => { w with state := st })) :=
  .of (by
    have : (amend Wave.number n (fun w => { w with state := st }) s.waves).map (fun w => (w.number, w.lane, w.cutoff)) =
        s.waves.map (fun w => (w.number, w.lane, w.cutoff)) :=
      amend_proj (f := fun w : Wave => { w with state := st }) (fun _ => rfl) _
    simp only [State.settings, State.updWave, this]) fun hi => { hi with
    waveKeys := (amend_keys (f := fun w : Wave => { w with state := st }) (fun _ => rfl) _).trans hi.waveKeys
    waveFields := by
      intro w hw
      rcases mem_amend hw with h | ⟨v, hv, hvn, rfl⟩
      · exact hi.waveFields w h
      · have h0 := hn hi v hv hvn
        have h1 := hi.waveFields v hv
        simp only [hst, h0, false_iff] at h1 ⊢
        exact h1 }

theorem notices_work {n : Notices} (h1 : n.enables = s.notices.enables) (h2 : n.polarity = s.notices.polarity)
    (h3 : s.Inv → n.mark = true → flagIn n.pending .faultNotice = true)
    (h4 : ∀ f, flagIn s.notices.pending f = true → flagIn n.pending f = true) : Work s { s with notices := n } :=
  { Work.refl s with
    settings := by simp only [State.settings, h1, h2]
    inv := fun hi => { hi with mark := h3 hi }
    flags := h4
    cellFlag := h4 _
    notified := fun h => absurd rfl h }

theorem bus_work {b : Bus} {s : State} (h : s.bus.sent <+: b.sent := by exact List.prefix_append _ _)
    (hx : b.rx = s.bus.rx := by rfl) : Work s { s with bus := b } :=
  .of rfl (fun hi => { hi with }) (hb := h) (hx := hx)

theorem free_work (n : Nat) (s : State) : Work s { s with freeCount := n } := .of rfl fun hi => { hi with }

theorem faults_keeps {m : FaultMonitor} (h1 : m.map = s.faults.map)
    (h2 : m.severities.map (fun v => (v.number, v.action)) = s.faults.severities.map (fun v => (v.number, v.action)))
    (h3 : m.counters.map (fun c => (c.number, c.select)) = s.faults.counters.map (fun c => (c.number, c.select)))
    (h4 : s.Inv → ∀ c ∈ m.counters, c.value ≤ 127) : Keeps s { s with faults := m } :=
  ⟨by simp only [State.settings, h1, h2, h3], rfl, fun hi => { hi with
    mapKeys := by
      show m.map.map MapEntry.kind = _
      rw [h1]
      exact hi.mapKeys
    severityKeys := by
      have := congrArg (List.map Prod.fst) h2
      simp only [List.map_map] at this
      exact this.trans hi.severityKeys
    counterKeys := by
      have := congrArg (List.map Prod.fst) h3
      simp only [List.map_map] at this
      exact this.trans hi.counterKeys
    counters := h4 hi }⟩

theorem faults_work {m : FaultMonitor} (h : Keeps s { s with faults := m })
    (hk : ∀ k, kindIn s.faults.seen k = true → kindIn m.seen k = true) : Work s { s with faults := m } :=
  { Work.refl s with
    toKeeps := h
    noHalt := fun _ => rfl
    seen := hk }

end Sys2Proof.Machine
end

