-- ==== Sys2Proof/Laws/Ops.lean ====
section
/-! SUPPORT. The shared operations of Machine/Ops.lean are work: free choices, records out, lane signals, fault reports, credits, the release arbiter, and the freeing of a record. -/

set_option Elab.async false

namespace Sys2Proof.Machine

open Sys2Proof

variable {s t : State}

/-! ### Free choices -/

/-- Two pieces of work end in the state of one order or of the other. -/
theorem eitherOrder_cases (f g : State → State) (s : State) :
    ∃ n, eitherOrder f g s = { g (f s) with freeCount := n } ∨ eitherOrder f g s = { f (g s) with freeCount := n } := by
  unfold eitherOrder
  dsimp only
  split
  · exact ⟨_, .inl rfl⟩
  · split
    · exact ⟨_, .inl rfl⟩
    · exact ⟨_, .inr rfl⟩

theorem eitherOrder_work {f g : State → State} (hf : ∀ s, Work s (f s)) (hg : ∀ s, Work s (g s)) (s : State) :
    Work s (eitherOrder f g s) := by
  obtain ⟨n, h | h⟩ := eitherOrder_cases f g s <;> rw [h]
  · exact ((hf s).trans (hg _)).trans (free_work n _)
  · exact ((hg s).trans (hf _)).trans (free_work n _)

/-- Items picked in an open order are the same items. -/
theorem pickOrder_perm {α : Type} (k n : Nat) (xs : List α) : (pickOrder k n xs).Perm xs := by
  induction n generalizing k xs with
  | zero => exact .refl _
  | succ n ih =>
    match xs with
    | [] => exact .refl _
    | [x] => exact .refl _
    | x :: y :: xs =>
      simp only [pickOrder]
      split
      case h_2 => exact .refl _
      case h_1 z hz =>
        have h2 := List.getElem?_eq_some_iff.1 hz
        obtain ⟨hlt, rfl⟩ := h2
        exact ((ih (k + 1) _).cons _).trans (List.getElem_cons_eraseIdx_perm hlt)

theorem picked_work (n : Nat) (s : State) : Work s (s.picked n) := by
  unfold State.picked
  split
  · exact .refl s
  · exact free_work _ s

/-- Work done once for each member of a list. -/
theorem foldl_work {α : Type} {f : State → α → State} (hf : ∀ s a, Work s (f s a)) (xs : List α) (s : State) :
    Work s (xs.foldl f s) := by
  induction xs generalizing s with
  | nil => exact .refl s
  | cons x xs ih => exact (hf s x).trans (ih _)

theorem foldl_touch {α : Type} {f : State → α → State} (hf : ∀ s a, Touch s (f s a)) (xs : List α) (s : State) :
    Touch s (xs.foldl f s) := by
  induction xs generalizing s with
  | nil => exact .refl s
  | cons x xs ih => exact (hf s x).trans (ih _)

/-! ### Records out, notices, lane signals -/

theorem send_work (u : FieldUnit) (r : OutRecord) (s : State) : Work s (s.send u r) := bus_work

theorem route_work (tag : Nat) (p : Option Point) (s : State) : Work s (s.route tag p) := bus_work

theorem flagIn_or (p q : NoticeSet) (f : NoticeFlag) : flagIn (p ||| q) f = (flagIn p f || flagIn q f) := by
  simp [flagIn]

/-- Raising a flag touches the pending set and what is due alone. -/
theorem raised_kept (f : NoticeFlag) (n : Notices) :
    (n.raised f).enables = n.enables ∧ (n.raised f).polarity = n.polarity ∧ (n.raised f).mark = n.mark := by
  unfold Notices.raised
  split <;> exact ⟨rfl, rfl, rfl⟩

/-- A pending flag stays pending when a flag is raised. -/
theorem raised_pending {f g : NoticeFlag} {n : Notices} (h : flagIn n.pending g = true) :
    flagIn (n.raised f).pending g = true := by
  unfold Notices.raised
  split
  · exact h
  · show flagIn (n.pending ||| f.bit) g = true
    rw [flagIn_or, h, Bool.true_or]

theorem flagIn_bit (f : NoticeFlag) : flagIn f.bit f = true := by cases f <;> decide

/-- A raised flag is pending. -/
theorem raised_self (f : NoticeFlag) (n : Notices) : flagIn (n.raised f).pending f = true := by
  unfold Notices.raised
  split
  case isTrue h => exact h
  case isFalse =>
    show flagIn (n.pending ||| f.bit) f = true
    rw [flagIn_or, flagIn_bit, Bool.or_true]

theorem raiseNotice_work (f : NoticeFlag) (s : State) : Work s (s.raiseNotice f) :=
  notices_work (raised_kept f _).1 (raised_kept f _).2.1 (fun hi hm =>
    raised_pending (hi.mark (by rw [← (raised_kept f s.notices).2.2]; exact hm))) fun _ => raised_pending

theorem faultRaised_work (a : Bool) (s : State) : Work s { s with notices := s.notices.faultRaised a } :=
  notices_work (raised_kept _ _).1 (raised_kept _ _).2.1 (fun _ _ => raised_self _ _) fun _ => raised_pending

theorem judgeLanes_work (s : State) : Work s s.judgeLanes :=
  (work_lanes (f := fun l => l.judged (s.holdWanted l)) (fun _ => ⟨rfl, rfl⟩) fun hi l hl => hi.queues l hl).trans
    bus_work

/-! ### Fault reports -/

theorem setHalted_work (hn : s.cell.state ≠ .restarting) (hu : s.cell.state ≠ .setup) (ha : ∃ v ∈ s.faults.severities, v.action = .halt) :
    Work s (s.setCell .halted) :=
  { Work.refl s with
    settings := by
      have h := raised_kept .cellState s.notices
      simp only [State.settings, State.setCell, State.raiseNotice, h.1, h.2.1]
    inv := fun hi => { hi with
      restart := by
        have h := hi.restart
        simp only [hn, iff_false] at h
        show (s.cell.mode.isSome ↔ CellState.halted = .restarting) ∧ (s.cell.deadline.isSome ↔ CellState.halted = .restarting)
        simpa using h
      mark := fun hm => raised_pending (hi.mark (by rw [← (raised_kept .cellState s.notices).2.2]; exact hm)) }
    cell := rfl
    cellState := .inr rfl
    noHalt := fun h => by
      obtain ⟨v, hv, hh⟩ := ha
      exact absurd hh (h v hv)
    still := fun h => h.elim (absurd · hn) (absurd · hu)
    flags := fun _ => raised_pending
    cellFlag := raised_pending
    notified := fun _ => raised_self _ _ }

theorem haltRequest_work (ha : ∃ v ∈ s.faults.severities, v.action = .halt) : Work s s.haltRequest := by
  unfold State.haltRequest
  split
  case h_1 h => exact (setHalted_work (by rw [h]; decide) (by rw [h]; decide) ha).trans (judgeLanes_work _)
  case h_2 h => exact (setHalted_work (by rw [h]; decide) (by rw [h]; decide) ha).trans (judgeLanes_work _)
  case h_3 h => exact (setHalted_work (by rw [h]; decide) (by rw [h]; decide) ha).trans (judgeLanes_work _)
  case h_4 h => exact (setHalted_work (by rw [h]; decide) (by rw [h]; decide) ha).trans (judgeLanes_work _)
  all_goals exact .refl s

/-- A counter holds at 127 and keeps its number and its select set. -/
theorem counted_kept (k : FaultKind) (c : Counter) :
    (c.counted k).number = c.number ∧ (c.counted k).select = c.select ∧ (c.value ≤ 127 → (c.counted k).value ≤ 127) := by
  unfold Counter.counted
  split
  · split
    case isTrue h => exact ⟨rfl, rfl, fun _ => h⟩
    case isFalse => exact ⟨rfl, rfl, id⟩
  · exact ⟨rfl, rfl, id⟩

theorem written_kept (r : FaultRecord) (v : Severity) :
    (v.written r).number = v.number ∧ (v.written r).action = v.action := by
  unfold Severity.written
  split <;> exact ⟨rfl, rfl⟩

theorem logged_actions (r : FaultRecord) (sev : Nat) (m : FaultMonitor) :
    (m.logged r sev).severities.map (fun v => (v.number, v.action)) =
      m.severities.map (fun v => (v.number, v.action)) :=
  amend_proj (fun v => by rw [(written_kept r v).1, (written_kept r v).2]) _

theorem kindIn_or (p q : KindSet) (k : FaultKind) : kindIn (p ||| q) k = (kindIn p k || kindIn q k) := by
  simp [kindIn]

theorem kindIn_bit (k : FaultKind) : kindIn k.bit k = true := by cases k <;> decide

theorem logged_work (r : FaultRecord) (sev : Nat) (s : State) : Work s { s with faults := s.faults.logged r sev } :=
  faults_work (faults_keeps rfl (logged_actions r sev _) (by
    show (s.faults.counters.map (Counter.counted r.kind)).map _ = _
    rw [List.map_map]
    refine List.map_congr_left fun c _ => ?_
    simp only [Function.comp, (counted_kept r.kind c).1, (counted_kept r.kind c).2.1]) fun hi c hc => by
    obtain ⟨d, hd, rfl⟩ := List.mem_map.1 (show c ∈ s.faults.counters.map (Counter.counted r.kind) from hc)
    exact (counted_kept r.kind d).2.2 (hi.counters d hd)) fun k hk => by
    show kindIn (s.faults.seen ||| r.kind.bit) k = true
    rw [kindIn_or, hk, Bool.true_or]

/-- An action that is not LOG_ONLY is the action of a severity. -/
theorem actionOf_mem {m : FaultMonitor} {sev : Nat} {a : FaultAction} (h : m.actionOf sev = a) (ha : a ≠ .logOnly) :
    ∃ v ∈ m.severities, v.action = a := by
  unfold FaultMonitor.actionOf at h
  cases hl : look Severity.number sev m.severities with
  | none => rw [hl] at h; exact absurd h.symm ha
  | some v => rw [hl] at h; exact ⟨v, (look_some hl).1, h⟩

theorem applyAction_work {a : FaultAction} (ha : a = .halt → ∃ v ∈ s.faults.severities, v.action = .halt) :
    Work s (s.applyAction a) := by
  cases a with
  | logOnly => exact .refl s
  | notice => exact faultRaised_work false s
  | noticeAndAttention => exact faultRaised_work true s
  | halt => exact (faultRaised_work true s).trans (haltRequest_work (ha rfl))

theorem raiseFault_work (k : FaultKind) (c : FaultCtx) (d : Nat) (s : State) : Work s (s.raiseFault k c d) := by
  unfold State.raiseFault
  split
  · exact .refl s
  · split
    · exact (logged_work _ _ s).trans (applyAction_work fun h => actionOf_mem h (by decide))
    · exact .refl s

/-! ### Staging credits -/

theorem takeChute_work (b vu : Nat) (s : State) : Work s (s.takeChute b vu) :=
  updChute_work b s

theorem giveChute_work (b vu : Nat) (s : State) : Work s (s.giveChute b vu) :=
  updChute_work b s

theorem takeCommon_work (b vu : Nat) (s : State) : Work s (s.takeCommon b vu) :=
  Work.after (updChute_work b _) (pool_work _ _ s)

theorem giveCommon_work (b vu : Nat) (s : State) : Work s (s.giveCommon b vu) :=
  Work.after (updChute_work b _) (pool_work _ _ s)

/-! ### The release arbiter -/

theorem orderOut_work (tag : Nat) (s : State) (h : s.arbiter.releases.length < 2) : Work s (s.orderOut tag) :=
  Work.after (send_work _ _ _) (arbiter_work fun hi => ⟨by simpa using h, hi.heldBack, hi.benchPointer⟩)

theorem orderToChute_work (i : Item) (b : Nat) (s : State) (h : s.arbiter.releases.length < 2)
    (hb : 1 ≤ b ∧ b ≤ 12) : Work s (s.orderToChute i b) :=
  Work.after (send_work _ _ _) <| Work.after (updItem_work _ _) <| Work.after (takeChute_work _ _ _) <|
    arbiter_work fun hi => ⟨by simpa using h, hi.heldBack, hb⟩

theorem scanBenches_range {b : Nat} (h : b ∈ s.scanBenches) : 1 ≤ b ∧ b ≤ 12 := by
  obtain ⟨k, _, rfl⟩ := List.mem_map.1 h
  omega

/-- What one choice of the arbiter does: an outbound item ordered out, or a staged one ordered to a bench's chute, with
a place free on the list. -/
theorem arbitrateOnce_cases (h : s.arbitrateOnce = some t) :
    s.arbiter.releases.length < 2 ∧
      ((∃ i, s.oldest (s.items.filter (fun i => State.outbound i && s.orderable i.tag)) = some i ∧ t = s.orderOut i.tag) ∨
        (s.oldest (s.items.filter (fun i => State.outbound i && s.orderable i.tag)) = none ∧ s.working = true ∧
          ∃ b ∈ s.scanBenches, ∃ i, s.oldest (s.items.filter (s.stagedEligible b)) = some i ∧
            t = s.orderToChute i b)) := by
  unfold State.arbitrateOnce at h
  split at h
  · cases h
  case isFalse hl =>
    refine ⟨by simpa [Config.releaseRoom] using hl, ?_⟩
    split at h
    case h_1 i hi => exact .inl ⟨i, hi, (Option.some.inj h).symm⟩
    case h_2 hn =>
      split at h
      case isFalse => cases h
      case isTrue hw =>
        obtain ⟨b, hb, he⟩ := List.exists_of_findSome?_eq_some h
        obtain ⟨i, hi, rfl⟩ := Option.map_eq_some_iff.1 he
        exact .inr ⟨hn, hw, b, hb, i, hi, rfl⟩

theorem arbitrateOnce_work (h : s.arbitrateOnce = some t) : Work s t := by
  obtain ⟨hl, ⟨i, _, rfl⟩ | ⟨_, _, b, hb, i, _, rfl⟩⟩ := arbitrateOnce_cases h
  · exact orderOut_work _ _ hl
  · exact orderToChute_work _ _ _ hl (scanBenches_range hb)

theorem arbitrate_work (s : State) : Work s s.arbitrate := by
  unfold State.arbitrate
  split
  · exact .refl s
  case h_2 s1 h1 =>
    split
    · exact arbitrateOnce_work h1
    case h_2 s2 h2 => exact (arbitrateOnce_work h1).trans (arbitrateOnce_work h2)

/-! ### Credit returns and freed records -/

theorem dropChuteHold_work (tag : Nat) (s : State) : Work s (s.dropChuteHold tag) := by
  unfold State.dropChuteHold
  split
  · exact .refl s
  · split
    · exact Work.after (updItem_work _ _) (giveChute_work _ _ s)
    · exact Work.after (updItem_work _ _) (giveChute_work _ _ s)
    all_goals exact .refl s

theorem returnChute_work (tag : Nat) (s : State) : Work s (s.returnChute tag) := by
  unfold State.returnChute
  split
  · exact (dropChuteHold_work tag s).trans (arbitrate_work _)
  · exact .refl s

theorem returnCommon_work (tag : Nat) (s : State) : Work s (s.returnCommon tag) := by
  unfold State.returnCommon
  split
  · exact .refl s
  · split
    · exact Work.after (updItem_work _ _) (giveCommon_work _ _ s)
    · exact Work.after (updItem_work _ _) (giveCommon_work _ _ s)
    all_goals exact .refl s

theorem dropHeldBack_work (tag : Nat) (s : State) :
    Work s { s with arbiter := { s.arbiter with heldBack := s.arbiter.heldBack.filter (· != tag) } } :=
  arbiter_work (fun hi => ⟨hi.releases, hi.heldBack.filter _, hi.benchPointer⟩) (List.filter_subset_self _)

theorem freeItem_work (tag : Nat) (s : State) : Work s (s.freeItem tag) :=
  (((((returnCommon_work tag s).trans (dropChuteHold_work tag _)).trans (dropItem_work tag _)).trans
    (dropHeldBack_work tag _)).trans (judgeLanes_work _)).trans (arbitrate_work _)

end Sys2Proof.Machine
end

