-- ==== Sys2Proof/Laws/Orders.lean ====
section
/-! SUPPORT. The shared operations of Machine/Orders.lean, Allocate.lean, Admission.lean and Cages.lean are work. -/

set_option Elab.async false

namespace Sys2Proof.Machine

open Sys2Proof

variable {s t : State}

/-- Work on an order that a state may lack. -/
theorem optWork {α : Type} {o : Option α} {f : α → State} (h : ∀ a, o = some a → Work s (f a)) :
    Work s (match o with
      | none => s
      | some a => f a) := by
  cases o with
  | none => exact .refl s
  | some a => exact h a rfl

/-! ### Hampers -/

theorem updZone_places (z : Zone) (f : ZoneRec → ZoneRec) (h : Hamper) : (h.updZone z f).places = h.places := by
  cases z <;> rfl

theorem setSlot_places (z : Zone) (n : Nat) (st : SlotState) (h : Hamper) : (h.setSlot z n st).places = h.places :=
  updZone_places _ _ _

theorem reserve_places (z : Zone) (n m v : Nat) (h : Hamper) : (h.reserve z n m v).places = h.places :=
  (setSlot_places _ _ _ _).trans (updZone_places _ _ _)

theorem vacate_places (z : Zone) (n m v : Nat) (h : Hamper) : (h.vacate z n m v).places = h.places :=
  (setSlot_places _ _ _ _).trans (updZone_places _ _ _)

theorem fill_places (z : Zone) (n : Nat) (h : Hamper) : (h.fill z n).places = h.places := setSlot_places _ _ _ _

theorem clamp_places (z : Zone) (h : Hamper) : (h.clamp z).places = h.places := updZone_places _ _ _

/-! ### The top gate -/

theorem clearWaits_work (slot : Nat) (w : WaitCause) (s : State) : Work s (s.clearWaits slot w) :=
  work_items (fun i => by split <;> exact .of) s

theorem setGate_work (slot : Nat) (s : State) : Work s (s.setGate slot) := by
  have h : Work s (s.updOrder slot (fun o =>
      if o.bench != none && o.topGate != none then { o with topGate := some (gateOf o.lines) } else o)) :=
    updOrder_work slot s fun o => by split <;> exact .of
  unfold State.setGate
  dsimp only
  split
  · exact h.trans (clearWaits_work _ _ _)
  · exact h

theorem recomputeGate_work (slot : Nat) (s : State) : Work s (s.recomputeGate slot) := by
  unfold State.recomputeGate
  split
  · exact (setGate_work slot s).trans (arbitrate_work _)
  · exact setGate_work slot s

/-! ### Place issue, stalls, Seal issue -/

/-- Place issue for one item, with room on the placement list. -/
theorem issuePlace_work (b : Nat) (i : Item) (a : Alloc) {h : Hamper} (hb : s.hamper? b = some h)
    (hr : h.places.length < 4) : Work s (s.issuePlace b i a) := by
  refine Work.trans ((send_work _ _ s).trans (updItem_work i.tag _ (f := fun x =>
    { x with outstanding := .place s.clock.minute }))) (updBench_work b _ ?_)
  intro hi x hx hn g hg
  refine .inl ?_
  obtain ⟨k, hk, rfl⟩ := Option.map_eq_some_iff.1 hg
  have hx' : s.bench? b = some x := by
    have hp : s.benches.Pairwise (fun x y => x.number < y.number) := by
      rw [← List.pairwise_map (f := Bench.number) (R := (· < ·)), show s.benches.map Bench.number = upTo 12 from hi.benchKeys]
      decide
    rw [← hn]
    exact look_of_mem hp hx
  have hk' : s.hamper? b = some k := by rw [State.hamper?, hx']; exact hk
  rw [hb] at hk'
  obtain rfl := Option.some.inj hk'
  simpa using hr

/-- What one choice of Place issue does: nothing, or a Place for the oldest eligible item. -/
theorem placeTimes_work (b n : Nat) (s : State) : Work s (s.placeTimes b n) := by
  induction n generalizing s with
  | zero => exact .refl s
  | succ n ih =>
    unfold State.placeTimes
    split
    case h_1 o h ho hh =>
      split
      case isTrue hl =>
        split
        · exact .refl s
        case h_2 i hi =>
          split
          · exact .refl s
          case h_2 a ha => exact (issuePlace_work b i a hh hl).trans (ih _)
      case isFalse => exact .refl s
    case h_2 => exact .refl s

theorem placeTry_work (b : Nat) (s : State) : Work s (s.placeTry b) := placeTimes_work b _ s

theorem judgeStall_work (b : Nat) (s : State) : Work s (s.judgeStall b) := by
  unfold State.judgeStall
  split
  · exact .refl s
  · exact Work.ite (fun _ => Work.after (placeTry_work b _) (updBench_fields_work b s)) fun _ => .refl s

theorem sealTry_work (b : Nat) (s : State) : Work s (s.sealTry b) := by
  unfold State.sealTry
  split
  · exact .refl s
  · exact Work.ite (fun _ => Work.after (updBench_fields_work b _) (send_work _ _ s)) fun _ => .refl s

/-! ### Return and Pull -/

theorem dropPlace_work (b tag : Nat) (s : State) : Work s (s.dropPlace b tag) :=
  updHamper_work b s fun _ => List.length_filter_le _ _

theorem sendReturn_work (b tag : Nat) (s : State) : Work s (s.sendReturn b tag) := by
  have go : ∀ u : State, Work u ((u.send (.bench b) (.ret tag)).updItem tag
      (fun x => { x with outstanding := .ret s.clock.minute })) := fun u =>
    Work.after (updItem_work tag _) (send_work _ _ u)
  unfold State.sendReturn
  split
  · exact .refl s
  · dsimp only
    split
    · exact .refl s
    · exact Work.after (placeTry_work b _) <| Work.after (judgeStall_work b _) <| Work.after (go _) (dropPlace_work b tag s)
    · exact go s
    · exact go s

theorem sendPull_work (b tag : Nat) (s : State) : Work s (s.sendPull b tag) :=
  Work.after (updItem_work tag _) (send_work _ _ s)

/-! ### Releasing, cancelling, completion -/

theorem release_host (r : Nat) (l : Line) : (l.release r).host = l.host := settled_host _

theorem commit_host (r now : Nat) (l : Line) : (l.commit r now).host = l.host := settled_host _

theorem pull_host (r : Nat) (l : Line) : (l.pull r).host = l.host := settled_host _

theorem releaseCore_work (tag : Nat) (s : State) : Work s (s.releaseCore tag) := by
  unfold State.releaseCore
  split
  · exact .refl s
  · split
    · exact .refl s
    · exact Work.after (updItem_work tag _) <|
        Work.after (updHamper_work _ _ fun h => (vacate_places _ _ _ _ h).symm ▸ le_rfl)
          (updLine_work _ _ _ s (release_host _))

theorem withdrawForCancel_work (slot : Nat) (s : State) (tag : Nat) : Work s (s.withdrawForCancel slot tag) := by
  unfold State.withdrawForCancel
  split
  · exact .refl s
  case h_2 i hi =>
    dsimp only
    have h2 : Work s (match i.alloc with
        | none => s.releaseCore tag
        | some a => if s.lineHeavy a.slot a.line then (s.releaseCore tag).setGate slot else s.releaseCore tag) := by
      split
      · exact releaseCore_work tag s
      · split
        · exact (releaseCore_work tag s).trans (setGate_work _ _)
        · exact releaseCore_work tag s
    split
    · exact Work.after (route_work _ _ _) <| Work.after (updItem_work tag _) h2
    · exact Work.after (sendReturn_work _ _ _) <| Work.after (updItem_work tag _) h2
    · exact Work.after (updItem_work tag _) h2
    all_goals exact h2

/-- R20: only an order still being built enters CANCELLING. -/
theorem enterCancelling_work (slot : Nat) (s : State)
    (h : s.Inv → ∀ o, s.order? slot = some o → .cancelling ∈ orderMoves o.state) : Work s (s.enterCancelling slot) := by
  unfold State.enterCancelling
  split
  · exact .refl s
  · dsimp only
    exact Work.after (arbitrate_work _) <| Work.after (updOrder_work slot _) <|
      Work.after (foldl_work (withdrawForCancel_work slot) _ _) <| Work.after (updBench_fields_work _ _) <|
      Work.after (send_work _ _ _) (updOrder_work_at slot s fun hi o ho => .move .cancelling (h hi o ho) fun _ => rfl)

/-- R9: only a BUILDING order is found complete. -/
theorem orderComplete_building {o : Order} (h : s.orderComplete o = true) : o.state = .building := by
  simp only [State.orderComplete, Bool.and_eq_true, beq_iff_eq] at h
  exact h.1.1.1

theorem completionCheck_work (slot : Nat) (s : State) : Work s (s.completionCheck slot) := by
  unfold State.completionCheck
  split
  · exact .refl s
  case h_2 o ho =>
    split
    case isTrue hc =>
      have building : ∀ p, s.order? slot = some p → p.state = .building := fun p hp => by
        obtain rfl := Option.some.inj (ho.symm.trans hp)
        exact orderComplete_building hc
      split
      · exact Work.after (sealTry_work _ _) <| Work.after (raiseNotice_work _ _) (updOrder_work_at slot s fun _ p hp =>
          .move .complete (by rw [building p hp]; decide) id)
      · exact enterCancelling_work slot s fun _ p hp => by rw [building p hp]; decide
    case isFalse => exact .refl s

theorem releaseAlloc_work (tag : Nat) (s : State) : Work s (s.releaseAlloc tag) := by
  unfold State.releaseAlloc
  split
  · exact .refl s
  · split
    · exact .refl s
    · dsimp only
      refine Work.after (completionCheck_work _ _) ?_
      split
      · exact (releaseCore_work tag s).trans (recomputeGate_work _ _)
      · exact releaseCore_work tag s

/-! ### Binding, the hand-back, withdrawals -/

theorem bind_work (b : Nat) (o : Order) (p : TemplatePlan) (s : State) : Work s (s.bind b o p) :=
  Work.after (send_work _ _ _) <| Work.after
    (updBench_work b _ (by
      intro _ _ _ _ h e
      obtain rfl := Option.some.inj e
      exact .inl (Nat.zero_le 4)))
    (updOrder_work o.slot s fun _ => .of (lines := by
      rw [List.map_map]
      rfl))

theorem bindBench_work (s : State) (b : Nat) : Work s (s.bindBench b) := by
  unfold State.bindBench
  split
  · exact .refl s
  · split
    · split
      · exact .refl s
      · split
        · exact .refl s
        · exact bind_work _ _ _ s
    · exact .refl s

theorem bindPass_work (s : State) : Work s s.bindPass := by
  unfold State.bindPass
  split
  · exact foldl_work bindBench_work _ s
  · exact .refl s

theorem handBack_work (b : Nat) (s : State) : Work s (s.handBack b) := by
  have h : Work s (s.updBench b (fun x =>
      { x with
        orderSlot := none, hamper := none, unpacked := false, stalled := false
        state := if x.staffed then .idle else .closed })) := updBench_fields_work b s (hh := fun _ => .inr rfl)
  unfold State.handBack
  dsimp only
  split
  · exact h
  · split
    · exact h.trans (bindPass_work _)
    · exact h

theorem becomeCancelled_work (slot : Nat) (s : State)
    (hm : s.Inv → ∀ o, s.order? slot = some o → .cancelled ∈ orderMoves o.state) : Work s (s.becomeCancelled slot) := by
  unfold State.becomeCancelled
  split
  · exact .refl s
  case h_2 o ho =>
    have h : Work s ((s.updOrder slot (fun o => { o with state := .cancelled, bench := none })).raiseNotice
        .orderCancelled) := Work.after (raiseNotice_work _ _) (updOrder_work_at slot s fun hi p hp =>
          .move .cancelled (hm hi p hp) id)
    dsimp only
    split
    · exact h
    · exact h.trans (handBack_work _ _)

/-- R21: only a CANCELLING order is done cancelling. -/
theorem cancelDone_moves {slot : Nat} (h : s.cancelDone slot = true) (o : Order) (ho : s.order? slot = some o) :
    .cancelled ∈ orderMoves o.state := by
  unfold State.cancelDone at h
  rw [ho] at h
  simp only [Bool.and_eq_true, beq_iff_eq] at h
  rw [h.1.1]
  decide

theorem answerWithdrawal_work (tag : Nat) (s : State) : Work s (s.answerWithdrawal tag) := by
  unfold State.answerWithdrawal
  split
  · exact .refl s
  case h_2 slot hs =>
    have h : Work s ((s.updItem tag (fun x => { x with withdrawal := none })).updOrder slot
        (fun o => { o with withdrawals := o.withdrawals - 1 })) :=
      Work.after (updOrder_work slot _) (updItem_work tag s)
    exact Work.ite (fun hc => h.trans (becomeCancelled_work _ _ fun _ => cancelDone_moves hc)) fun _ => h

/-! ### The Allocator -/

theorem askPocket_work (b : Nat) (s : State) : Work s (s.askPocket b) := by
  unfold State.askPocket
  split
  · exact .refl s
  · split
    · exact Work.after (send_work _ _ _) (updHamper_work b s)
    · exact .refl s

theorem commit_work (i : Item) (c : Candidate) (s : State) : Work s (s.commit i c) := by
  unfold State.commit
  dsimp only
  have h1 : ∀ u : State, Work u (match c.source with
      | .chute => u.takeChute c.bench i.vu
      | .common => u.takeCommon c.bench i.vu) := fun u => by
    split
    · exact takeChute_work _ _ u
    · exact takeCommon_work _ _ u
  have h2 : Work s ((s.updLine c.slot c.line (Line.commit c.rank s.clock.minute)).updOrder c.slot
      (fun o => if i.cls == .fragile then { o with fragileBegun := true } else o)) :=
    Work.after (updOrder_work c.slot _ fun o => by
      split
      · exact .of (fragile := fun _ => rfl)
      · exact .refl o) (updLine_work _ _ _ s (commit_host _ _))
  split
  · exact Work.after (askPocket_work _ _) <| Work.after (route_work _ _ _) <| Work.after (updItem_work _ _) <|
      Work.after (h1 _) <| Work.after (updHamper_work _ _ fun h => (reserve_places _ _ _ _ h).symm ▸ le_rfl) h2
  · exact Work.after (route_work _ _ _) <| Work.after (updItem_work _ _) <|
      Work.after (h1 _) <| Work.after (updHamper_work _ _ fun h => (reserve_places _ _ _ _ h).symm ▸ le_rfl) h2

theorem reportNoFit_work (i : Item) (s : State) : Work s (s.reportNoFit i) := by
  unfold State.reportNoFit
  split
  · exact .refl s
  · exact raiseFault_work _ _ _ s
  · exact raiseFault_work _ _ _ s
  · exact eitherOrder_work (fun u => raiseFault_work _ _ _ u) (fun u => raiseFault_work _ _ _ u) s

theorem runAllocation_work (tag : Nat) (s : State) : Work s (s.runAllocation tag) := by
  unfold State.runAllocation
  split
  · exact .refl s
  · split
    · exact commit_work _ _ s
    · exact reportNoFit_work _ s

/-! ### Admission -/

theorem dropHead_work (n : Nat) (s : State) :
    Work s (s.updLane n (fun l => { l with queue := l.queue.tail })) :=
  updLane_work n s fun hi l hl _ => (by simpa using (Nat.sub_le _ 1).trans (hi.queues l hl) :
    l.queue.tail.length ≤ 4)

theorem rejectHead_work (n tag : Nat) (s : State) : Work s (s.rejectHead n tag) :=
  Work.after (freeItem_work tag _) <| Work.after (dropHead_work n _) (send_work _ _ s)

theorem rejectExpired_work (n : Nat) (q : List Nat) (s : State) : Work s (s.rejectExpired n q) := by
  induction q generalizing s with
  | nil => exact .refl s
  | cons tag rest ih =>
    unfold State.rejectExpired
    split
    · exact (rejectHead_work n tag s).trans (ih _)
    · exact .refl s

theorem admitItem_work (e n tag : Nat) (s : State) : Work s (s.admitItem e n tag) := by
  unfold State.admitItem
  dsimp only
  have h := Work.after (runAllocation_work tag _) <| Work.after (updItem_work tag _ (f := fun x =>
      { x with location := .onLoop, laps := 0 })) <| Work.after (judgeLanes_work _) <| Work.after (dropHead_work n _) <|
    Work.after (admission_work (p := (e + 1) % 32) (b := false) fun _ => Nat.mod_lt _ (by decide))
      (send_work (.lane n) (.admitTag tag) s)
  split
  · exact h
  · exact h.trans (route_work _ _ _)

theorem scanEntries_work (es : List Nat) (s : State) : Work s (s.scanEntries es) := by
  induction es generalizing s with
  | nil => exact .refl s
  | cons e es ih =>
    unfold State.scanEntries
    split
    · exact ih s
    · dsimp only
      split
      · exact (rejectExpired_work _ _ s).trans (ih _)
      · exact (rejectExpired_work _ _ s).trans (admitItem_work _ _ _ _)

theorem tryAdmit_work (s : State) : Work s s.tryAdmit := by
  unfold State.tryAdmit
  split
  · exact scanEntries_work _ s
  · exact .refl s

/-! ### Dispatch lanes -/

theorem judgeFull_work (n : Nat) (by_ : Option (Nat × Nat)) (s : State) : Work s (s.judgeFull n by_) := by
  unfold State.judgeFull
  split
  · exact .refl s
  · dsimp only
    split
    · exact Work.after (raiseFault_work _ _ _ _) <| Work.after (raiseNotice_work _ _) (updDispatch_work n s)
    · exact updDispatch_work n s

theorem releaseHamper_work (n b slot : Nat) (s : State) : Work s (s.releaseHamper n b slot) :=
  Work.after (judgeFull_work _ _ _) <| Work.after (updOrder_work slot _) <| Work.after (updBench_fields_work b _) <|
    Work.after (updDispatch_work n _) (send_work _ _ s)

theorem serveTimes_work (n k : Nat) (s : State) : Work s (s.serveTimes n k) := by
  induction k generalizing s with
  | zero => exact .refl s
  | succ k ih =>
    unfold State.serveTimes
    split
    · exact .refl s
    · split
      · split
        · exact .refl s
        · exact (releaseHamper_work _ _ _ s).trans (ih _)
      · exact .refl s

theorem serveLane_work (n : Nat) (s : State) : Work s (s.serveLane n) := by
  unfold State.serveLane
  split
  · exact .refl s
  · exact serveTimes_work _ _ s

theorem serveAll_work (s : State) : Work s s.serveAll := foldl_work (fun u n => serveLane_work n u) _ s

theorem takeSealed_work (b : Nat) (o : Order) (s : State) : Work s (s.takeSealed b o) := by
  unfold State.takeSealed
  dsimp only
  refine Work.after (serveLane_work _ _) <| Work.after (updBench_fields_work b _) <|
    Work.after (updDispatch_work _ _) ?_
  split
  · exact Work.after (raiseFault_work _ _ _ _) (updOrder_work o.slot s fun _ => .of (late := fun _ => rfl))
  · exact .refl s

end Sys2Proof.Machine
end

