-- ==== Sys2Proof/Laws/Events.lean ====
section
/-! SUPPORT. What the events do: the tick's timers and the records of lanes, sorter, buffer and benches are work; a change of cell state, a tick, a warm restart and the quiet judgment keep the settings and the invariant. -/

set_option Elab.async false

namespace Sys2Proof.Machine

open Sys2Proof

variable {s t u : State}

/-! ### Time -/

/-- In a table of one entry per wave number, the wave read at a number is the one there. -/
theorem wave_of_mem (hi : s.Inv) {w : Wave} (hw : w ∈ s.waves) : s.wave? w.number = some w := by
  have hp : s.waves.Pairwise (fun x y => x.number < y.number) := by
    rw [← List.pairwise_map (f := Wave.number) (R := (· < ·)), hi.waveKeys]
    decide
  exact look_of_mem hp hw

theorem cutWave_touch (w : Nat) (s : State) (h : s.cutNow w = true) : Touch s (s.cutWave w) := by
  unfold State.cutWave
  dsimp only
  have h1 : Touch s (s.updWave w (fun x => { x with state := .cut })) := updWave_touch (by decide) w s fun hi x hx hn hu => by
    unfold State.cutNow at h
    rw [← hn, wave_of_mem hi hx] at h
    simp [hu] at h
  have h2 := h1.trans (touch_orders (f := fun o => if cutMarks w o then { o with overdue := true } else o)
    (fun o => by split <;> rfl) _)
  have h3 := h2.trans (raiseNotice_work .waveCut _).toTouch
  exact Touch.ite (fun _ => h3.trans (raiseNotice_work .orderOverdue _).toTouch) fun _ => h3

theorem cutoffCheck_touch (s : State) (w : Nat) : Touch s (s.cutoffCheck w) := by
  unfold State.cutoffCheck
  split
  case isTrue h => exact cutWave_touch w s h
  case isFalse =>
    split
    case isTrue h =>
      refine updWave_touch (by decide) w s fun hi x hx hn hu => ?_
      unfold State.uncutNow at h
      rw [← hn, wave_of_mem hi hx] at h
      simp [hu] at h
    case isFalse => exact .refl s

theorem cutoffAll_touch (s : State) : Touch s s.cutoffAll := foldl_touch cutoffCheck_touch _ s

theorem withdrawExpired_work (i : Item) (s : State) : Work s (s.withdrawExpired i) := by
  unfold State.withdrawExpired
  split
  · exact .refl s
  · split
    · exact .refl s
    · exact Work.after (route_work _ _ _) <| Work.after (updItem_work _ _) (releaseAlloc_work _ s)
  · split
    · exact .refl s
    · exact Work.after (arbitrate_work _) (releaseAlloc_work _ s)
  · exact releaseAlloc_work _ s
  · exact sendReturn_work _ _ s
  · split
    · exact sendPull_work _ _ s
    · exact .refl s

theorem expireItem_work (tag : Nat) (s : State) : Work s (s.expireItem tag) := by
  unfold State.expireItem
  split
  · exact .refl s
  · split
    · exact Work.after (withdrawExpired_work _ _) <| Work.after (raiseFault_work _ _ _ _)
        (updItem_work tag s fun _ => .of (expired := fun _ => rfl))
    · exact .refl s

theorem dwellPass_work (s : State) : Work s s.dwellPass :=
  Work.after (foldl_work (fun u n => expireItem_work n u) _ _) (picked_work _ s)

theorem shortagePass_work (s : State) : Work s s.shortagePass := by
  unfold State.shortagePass
  split
  · have h := work_orders (f := fun o =>
      if o.state == .building then
        { o with lines := o.lines.map (fun l =>
          if s.lineShort l then { l with state := .short, shortMark := true } else l) }
      else o) (fun o => by split <;> rfl) s fun _ o _ => by
        split
        · exact .of (lines := by
            rw [List.map_map]
            exact List.map_congr_left fun l _ => by
              simp only [Function.comp]
              split <;> rfl)
        · exact .refl o
    dsimp only
    exact Work.ite (fun _ => Work.after (raiseNotice_work _ _) h) fun _ => h
  · exact .refl s

theorem timeOutPlace_work (tag : Nat) (s : State) : Work s (s.timeOutPlace tag) := by
  unfold State.timeOutPlace
  split
  · exact Work.after (raiseNotice_work _ _) <| Work.after (updBench_fields_work _ _) <|
      Work.after (raiseFault_work _ _ _ _) (updHamper_work _ s fun h => (List.length_map _).le)
  · exact .refl s

theorem timePlaces_work (s : State) : Work s s.timePlaces :=
  Work.after (foldl_work (fun u n => timeOutPlace_work n u) _ _) (picked_work _ s)

theorem clearHeldBack_work (s : State) : Work s s.clearHeldBack :=
  Work.after (arbitrate_work _) 
    (arbiter_work (fun hi => ⟨hi.releases, .nil, hi.benchPointer⟩) (List.nil_subset _))

theorem runTimers_work (s : State) : Work s s.runTimers :=
  ((dwellPass_work s).trans (shortagePass_work _)).trans (timePlaces_work _)

/-! ### Records of the lanes -/

theorem tagMismatch_work (tag d : Nat) (s : State) : Work s (s.tagMismatch tag d) := raiseFault_work _ _ _ s
theorem tagBenchMismatch_work (tag b d : Nat) (s : State) : Work s (s.tagBenchMismatch tag b d) := raiseFault_work _ _ _ s
theorem benchMismatch_work (b d : Nat) (s : State) : Work s (s.benchMismatch b d) := raiseFault_work _ _ _ s

/-- A record that fits its unit is its owner's; another is reported. -/
theorem fieldRecord_work (hd : RecHead) (kind : Nat) {owner : Nat → State → State} (h : ∀ n u, Work u (owner n u))
    (s : State) : Work s (s.fieldRecord hd kind owner) := by
  unfold State.fieldRecord
  split
  · exact raiseFault_work _ _ _ s
  · split
    · exact h _ s
    · exact h _ s
    · exact h _ s
    · exact h _ s
    · exact .refl s

/-- From s to t a record has been taken: besides `Touch`, the load sequence stands and every order there is was there,
with what lasts of it. -/
structure Taken (s t : State) : Prop extends Touch s t where
  orders : s.Inv → ∀ p ∈ t.book.orders, ∃ o ∈ s.book.orders, OrderKept o p
  loadSeq : t.book.loadSeq = s.book.loadSeq
  empty : s.book.orders = [] → t.book.orders = []

theorem Work.taken (h : Work s t) : Taken s t := ⟨h.toTouch, h.lasts.orders, h.loadSeq, h.empty⟩

theorem Taken.refl (s : State) : Taken s s := (Work.refl s).taken

theorem Taken.trans (h : Taken s t) (k : Taken t u) : Taken s u where
  toTouch := h.toTouch.trans k.toTouch
  orders hI p hp := by
    obtain ⟨o, ho, h1⟩ := k.orders (h.inv hI) p hp
    obtain ⟨o', ho', h2⟩ := h.orders hI o ho
    exact ⟨o', ho', h2.trans h1⟩
  loadSeq := k.loadSeq.trans h.loadSeq
  empty := k.empty ∘ h.empty

/-- The same with the later change said first. -/
theorem Taken.after (k : Taken t u) (h : Taken s t) : Taken s u := h.trans k

/-- A change that leaves the book as it is. -/
theorem Touch.taken (h : Touch s t) (hb : t.book = s.book := by rfl) : Taken s t :=
  ⟨h, fun _ p hp => ⟨p, hb ▸ hp, .refl p⟩, by rw [hb], fun g => hb ▸ g⟩

theorem fieldRecord_taken (hd : RecHead) (kind : Nat) {owner : Nat → State → State} (h : ∀ n u, Taken u (owner n u))
    (s : State) : Taken s (s.fieldRecord hd kind owner) := by
  unfold State.fieldRecord
  split
  · exact (raiseFault_work _ _ _ s).taken
  · split
    · exact h _ s
    · exact h _ s
    · exact h _ s
    · exact h _ s
    · exact .refl s

theorem fieldRecord_lasts (hd : RecHead) (kind : Nat) {owner : Nat → State → State} (h : ∀ n u, Lasts u (owner n u))
    (s : State) : Lasts s (s.fieldRecord hd kind owner) := by
  unfold State.fieldRecord
  split
  · exact (raiseFault_work _ _ _ s).lasts
  · split
    · exact h _ s
    · exact h _ s
    · exact h _ s
    · exact h _ s
    · exact .refl s

theorem overrun_work (n : Nat) (a : ArrivalFields) (d : Nat) (s : State) : Work s (s.overrun n a d) :=
  Work.after (raiseFault_work _ _ _ _) <| Work.after (updLane_work n _ fun hi l hl _ => hi.queues l hl) (send_work _ _ s)

/-- In a table of one entry per lane number, the lane read at a number is the one there. -/
theorem lane_of_mem (hi : s.Inv) {l : Lane} (hl : l ∈ s.lanes) : s.lane? l.number = some l := by
  have hp : s.lanes.Pairwise (fun x y => x.number < y.number) := by
    rw [← List.pairwise_map (f := Lane.number) (R := (· < ·)), hi.laneKeys]
    decide
  exact look_of_mem hp hl

theorem acceptArrival_taken (n : Nat) (a : ArrivalFields) (c : ItemClass) (s : State) (hnew : s.item? a.tag = none)
    (hroom : s.items.length < 320) (hq : ((s.lane? n).map (·.queue.length)).getD 0 < 4) :
    Taken s (s.acceptArrival n a c) := by
  refine Taken.after (tryAdmit_work _).taken <| Taken.after (judgeLanes_work _).taken <| Taken.after
    (updLane_work n _ fun hi l hl hn => ?_).taken <| Touch.taken
    (.of (t := { s with items := insertBy Item.tag (newItem n s.timers.dwellBudget a c) s.items }) rfl fun hi => { hi with
      tags := pairwise_insertBy hi.tags fun i hmem => by
        have := List.find?_eq_none.1 hnew i hmem
        show ¬i.tag = a.tag
        simpa using this
      tableRoom := by
        show (insertBy _ _ _).length ≤ 320
        rw [length_insertBy]
        exact hroom })
  have hl' : s.lane? n = some l := by
    have hk : s.lanes.Pairwise (fun x y => x.number < y.number) := by
      rw [← List.pairwise_map (f := Lane.number) (R := (· < ·)), show s.lanes.map Lane.number = upTo 6 from hi.laneKeys]
      decide
    rw [← hn]
    exact look_of_mem hk hl
  rw [hl'] at hq
  simpa using hq

theorem takeArrival_taken (a : ArrivalFields) (n : Nat) (s : State) : Taken s (s.takeArrival a n) := by
  unfold State.takeArrival
  split
  · exact (Work.after (raiseFault_work _ _ _ _) (send_work _ _ s)).taken
  · split
    · exact (Work.after (raiseFault_work _ _ _ _) (send_work _ _ s)).taken
    case isFalse hnew =>
      split
      · exact (overrun_work _ _ _ s).taken
      case isFalse hq =>
        split
        · exact (overrun_work _ _ _ s).taken
        case isFalse hroom =>
          refine acceptArrival_taken n a _ s (by simpa using hnew) ?_ ?_
          · exact Nat.lt_of_not_le fun h => hroom (decide_eq_true h)
          · simpa [Config.queueRoom] using hq

theorem arrivalRecord_taken (addr : Byte) (body : List Byte) (s : State) : Taken s (s.arrivalRecord addr body) :=
  fieldRecord_taken _ _ (fun n u => takeArrival_taken _ n u) s

theorem busRx_lasts (a : Assembly) (s : State) : Lasts s { s with bus := { s.bus with rx := a } } :=
  (Keeps.shows (s := s) (t := { s with bus := { s.bus with rx := a } }) ⟨rfl, rfl, fun hi => { hi with }⟩).lasts

theorem busGap_lasts (s : State) : Lasts s s.busGap := by
  unfold State.busGap
  split
  · exact .refl s
  · exact Lasts.after (raiseFault_work _ _ _ _).lasts (busRx_lasts _ s)

/-! ### Records of the sorter -/

theorem settleAt_work (p : Point) (tag : Nat) (s : State) : Work s (s.settleAt p tag) := by
  have h : Work s (if p = .buffer then s else s.returnCommon tag) :=
    Work.ite (fun _ => .refl s) fun _ => returnCommon_work tag s
  unfold State.settleAt
  dsimp only
  split
  · exact Work.ite (fun _ => h) fun _ => h.trans (returnChute_work _ _)
  all_goals exact h

theorem enter_work (loc : Location) (b : Option Nat) (tag : Nat) (s : State) : Work s (s.enter loc b tag) :=
  Work.after (entry_work _ (Nat.mod_lt _ (by decide)) _) (updItem_work tag s)

theorem dropRecord_work (tag : Nat) (s : State) : Work s (s.dropRecord tag) :=
  Work.after (judgeLanes_work _) <| Work.after (dropHeldBack_work tag _) (dropItem_work tag s)

theorem giveBack_work (i : Item) (s : State) : Work s (s.giveBack i) := by
  unfold State.giveBack
  refine Work.after (arbitrate_work _) ?_
  split
  · exact .refl s
  · exact giveChute_work _ _ s
  · exact giveCommon_work _ _ s
  · exact (giveChute_work _ _ s).trans (giveCommon_work _ _ _)

theorem leaveLoop_work (i : Item) (s : State) : Work s (s.leaveLoop i) :=
  Work.after (eitherOrder_work (giveBack_work i) tryAdmit_work _) (dropRecord_work _ s)

theorem divertSent_work (i : Item) (p : Point) (s : State) : Work s (s.divertSent i p) := by
  unfold State.divertSent
  split
  · exact Work.after (eitherOrder_work (fun u => (placeTry_work _ u).trans (settleAt_work _ _ _)) tryAdmit_work _)
      (enter_work _ _ _ s)
  · exact Work.after (eitherOrder_work (fun u => (settleAt_work _ _ u).trans (arbitrate_work _)) tryAdmit_work _)
      (enter_work _ _ _ s)
  all_goals exact leaveLoop_work i s

theorem divertElsewhere_work (i : Item) (p k : Point) (s : State) : Work s (s.divertElsewhere i p k) := by
  unfold State.divertElsewhere
  dsimp only
  split
  · exact Work.after (eitherOrder_work (fun u => (sendReturn_work _ _ u).trans (settleAt_work _ _ _)) tryAdmit_work _) <|
      Work.after (enter_work _ _ _ _) (releaseAlloc_work _ s)
  · exact Work.after (eitherOrder_work (fun u => (settleAt_work _ _ u).trans (arbitrate_work _)) tryAdmit_work _) <|
      Work.after (enter_work _ _ _ _) (releaseAlloc_work _ s)
  all_goals exact (releaseAlloc_work _ s).trans (leaveLoop_work i _)

theorem divertTracked_work (i : Item) (p : Point) (s : State) : Work s (s.divertTracked i p) := by
  unfold State.divertTracked
  split
  · exact divertSent_work i p s
  · split
    · exact divertElsewhere_work _ _ _ s
    · exact (raiseFault_work _ _ _ s).trans (divertElsewhere_work _ _ _ _)

theorem divert_work (tag : Nat) (p : Point) (s : State) : Work s (s.divert tag p) := by
  unfold State.divert
  split
  · exact tagMismatch_work _ _ s
  · split
    · exact Work.ite (fun _ => .refl s) fun _ => raiseFault_work _ _ _ s
    · exact Work.ite (fun _ => divertTracked_work _ _ s) fun _ => tagMismatch_work _ _ s

theorem sendOut_work (tag : Nat) (s : State) : Work s (s.sendOut tag) :=
  Work.after (route_work _ _ _) <| Work.after (updItem_work _ _) (releaseAlloc_work tag s)

theorem lapOut_work (i : Item) (d : Nat) (s : State) : Work s (s.lapOut i d) :=
  Work.after (raiseFault_work _ _ _ _) (sendOut_work _ s)

theorem passByDest_work (i : Item) (s : State) : Work s (s.passByDest i) := by
  have h : Work s (if s.working then s.runAllocation i.tag else s) :=
    Work.ite (fun _ => runAllocation_work _ s) fun _ => .refl s
  unfold State.passByDest
  dsimp only
  split
  · exact Work.ite (fun _ => lapOut_work _ _ s) fun _ => .refl s
  · exact Work.ite (fun _ => lapOut_work _ _ s) fun _ => .refl s
  · exact .refl s
  · exact .refl s
  · exact Work.ite (fun _ => h) fun _ => Work.ite (fun _ => h.trans (lapOut_work _ _ _)) fun _ => h

theorem passTracked_work (i : Item) (s : State) : Work s (s.passTracked i) := by
  unfold State.passTracked
  dsimp only
  have h := updItem_work (f := fun x => { x with laps := min 15 (i.laps + 1) }) i.tag s
  exact Work.after (settleAt_work _ _ _) <|
    Work.ite (fun _ => h.trans (sendOut_work _ _)) fun _ => h.trans (passByDest_work _ _)

theorem pass_work (tag : Nat) (s : State) : Work s (s.pass tag) := by
  unfold State.pass
  split
  · exact Work.after (tagMismatch_work _ _ _) (route_work _ _ s)
  · exact Work.ite (fun _ => passTracked_work _ s) fun _ => tagMismatch_work _ _ s

theorem mergeReady_work (s : State) : Work s s.mergeReady :=
  Work.after (tryAdmit_work _) (admission_work (p := s.admission.pointer) (b := true) fun hi => hi.pointer)

/-! ### Records of the buffer -/

theorem dropRelease_work (tag : Nat) (s : State) : Work s (s.dropRelease tag) :=
  arbiter_work fun hi => ⟨(List.length_filter_le _ _).trans hi.releases, hi.heldBack, hi.benchPointer⟩

theorem deliveredAt_work (b : Nat) (i : Item) (s : State) : Work s (s.deliveredAt b i) := by
  unfold State.deliveredAt
  have h := Work.after (enter_work .inChute (some b) i.tag _) (returnCommon_work i.tag s)
  dsimp only
  split
  · exact h.trans (placeTry_work _ _)
  · exact h.trans (sendReturn_work _ _ _)

theorem misdelivered_work (p : Point) (i : Item) (s : State) : Work s (s.misdelivered p i) := by
  unfold State.misdelivered
  have h := Work.after (releaseAlloc_work i.tag _) (raiseFault_work .misroute (misrouteCtx i p) (misdeliveryDetail p) s)
  dsimp only
  split
  · exact Work.after (returnChute_work _ _) <| Work.after (returnCommon_work _ _) <| Work.after (sendReturn_work _ _ _) <|
      Work.after (enter_work _ _ _ _) h
  all_goals exact Work.after (freeItem_work _ _) <| Work.after (answerWithdrawal_work _ _) h

theorem deliveredNowhere_work (p : Point) (i : Item) (s : State) : Work s (s.deliveredNowhere p i) :=
  Work.after (releaseAlloc_work i.tag _) <| Work.after (raiseFault_work _ _ _ _) (free_work _ s)

theorem answerDelivered_work (p q : Point) (i : Item) (s : State) : Work s (s.answerDelivered p q i) := by
  unfold State.answerDelivered
  split
  · split
    · exact deliveredAt_work _ _ s
    all_goals exact Work.after (freeItem_work _ _) (returnCommon_work _ s)
  · split
    · exact misdelivered_work _ _ s
    · exact deliveredNowhere_work _ _ s

theorem noEntry_work (tag : Nat) (b : Option Nat) (s : State) : Work s (s.noEntry tag b) := raiseFault_work _ _ _ s

theorem delivered_work (tag : Nat) (p : Point) (s : State) : Work s (s.delivered tag p) := by
  unfold State.delivered
  split
  · exact noEntry_work _ _ s
  · dsimp only
    refine Work.after (arbitrate_work _) ?_
    split
    · exact dropRelease_work tag s
    · exact (dropRelease_work tag s).trans (answerDelivered_work _ _ _ _)

theorem holdBack_taken (tag : Nat) (s : State) : Taken s (s.holdBack tag) := by
  unfold State.holdBack
  split
  · exact .refl s
  case isFalse h =>
    refine Touch.taken (t := { s with arbiter := { s.arbiter with heldBack := insertBy id tag s.arbiter.heldBack } })
      (arbiter_touch fun hi => ⟨hi.releases, pairwise_insertBy (key := id) hi.heldBack fun x hx => ?_, hi.benchPointer⟩)
    rintro rfl
    exact h (by simpa using hx)

theorem failedRelease_taken (q : Point) (i : Item) (s : State) : Taken s (s.failedRelease q i) := by
  unfold State.failedRelease
  dsimp only
  have h := Taken.after (holdBack_taken i.tag _) (raiseFault_work .bufferFault
    { i.ctx with slot := i.alloc.map (·.slot), bench := pointBench? q } (match q with
      | .bench _ => 1
      | .buffer | .exception | .other => 2) s).taken
  cases q with
  | bench b =>
    exact h.trans (Work.after (answerWithdrawal_work _ _) <| Work.after (updItem_work _ _) (dropChuteHold_work _ _)).taken
  | buffer => exact h
  | exception => exact h
  | other => exact h

theorem releaseFailed_taken (tag : Nat) (s : State) : Taken s (s.releaseFailed tag) := by
  unfold State.releaseFailed
  split
  · exact (noEntry_work _ _ s).taken
  · dsimp only
    refine Taken.after (arbitrate_work _).taken ?_
    split
    · exact (dropRelease_work tag s).taken
    · exact (dropRelease_work tag s).taken.trans (failedRelease_taken _ _ _)

/-! ### Records of the benches -/

theorem restaff_work (b : Nat) (s : State) : Work s (s.restaff b) := by
  unfold State.restaff
  have h := Work.after (sealTry_work b _) <| Work.after (placeTry_work b _) <|
    updBench_fields_work (f := fun x => { x with staffed := true }) b s
  dsimp only
  split
  · exact h
  · exact h.trans (serveLane_work _ _)

theorem benchOpen_work (b : Nat) (s : State) : Work s (s.benchOpen b) := by
  unfold State.benchOpen
  split
  · exact .refl s
  · split
    · exact Work.after (bindPass_work _) (updBench_fields_work b s)
    · exact .refl s
    all_goals exact Work.ite (fun _ => .refl s) fun _ => restaff_work b s

theorem benchClose_work (b : Nat) (s : State) : Work s (s.benchClose b) := by
  unfold State.benchClose
  split
  · exact .refl s
  · split
    · exact updBench_fields_work b s
    · exact .refl s
    all_goals exact updBench_fields_work b s

/-- R8: a LOADED order becomes BUILDING, or HELD when its held field is set. -/
theorem based_worked (o : Order) : OrderWorked o o.based := by
  unfold Order.based
  split
  case isFalse => exact .refl o
  case isTrue h =>
    have hl : o.state = .loaded := by simpa using h
    refine ⟨⟨rfl, rfl, rfl, rfl, rfl, rfl, rfl, id, id, id, .single ?_⟩, fun hh => ⟨hh, fun hp => ?_⟩⟩
    · show (if o.held then OrderState.held else .building) ∈ orderMoves o.state
      rw [hl]
      split <;> decide
    · have : (if o.held = true then OrderState.held else .building) = .held := hp
      rw [hh] at this
      cases this

theorem baseFitted_work (b : Nat) (s : State) : Work s (s.baseFitted b) := by
  unfold State.baseFitted
  split
  · exact .refl s
  · split
    · exact Work.after (completionCheck_work _ _) <| Work.after (placeTry_work _ _) <|
        Work.after (updOrder_work _ _ based_worked) (updBench_fields_work b s)
    · exact .refl s
    all_goals exact benchMismatch_work _ _ s

theorem fitPocket_work (b slot : Nat) (s : State) : Work s (s.fitPocket b slot) :=
  Work.after (sealTry_work _ _) <| Work.after (arbitrate_work _) <| Work.after (clearWaits_work _ _ _) (updHamper_work b s)

theorem pocketFitted_work (b : Nat) (s : State) : Work s (s.pocketFitted b) := by
  unfold State.pocketFitted
  split
  · exact .refl s
  · split
    · exact .refl s
    · split
      · exact benchMismatch_work _ _ s
      · split
        · exact fitPocket_work _ _ s
        · exact .refl s
        · exact benchMismatch_work _ _ s

theorem fromBench_work (b : Nat) (i : Item) {owner : Nat → State → State} (h : ∀ c u, Work u (owner c u)) (s : State) :
    Work s (s.fromBench b i owner) := by
  unfold State.fromBench
  split
  · exact tagBenchMismatch_work _ _ _ s
  · exact Work.ite (fun _ => h _ s) fun _ => (tagBenchMismatch_work _ _ _ s).trans (h _ _)

theorem fillUnit_work (a : Alloc) (s : State) : Work s (s.fillUnit a) :=
  Work.after (updLine_work _ _ _ _) (updHamper_work _ s fun h => (fill_places _ _ h).symm ▸ le_rfl)

theorem gateIfHeavy_work (slot n : Nat) (s : State) : Work s (s.gateIfHeavy slot n) :=
  Work.ite (fun _ => recomputeGate_work _ s) fun _ => .refl s

theorem placedAnswer_work (i : Item) (b : Nat) (s : State) : Work s (s.placedAnswer i b) := by
  unfold State.placedAnswer
  dsimp only
  have h1 := Work.after (updItem_work (f := fun x => { x with outstanding := .none }) i.tag _) (dropPlace_work b i.tag s)
  have h4 : ∀ u : State, Work u (if i.cls = .chilled then
      (u.returnChute i.tag).updItem i.tag (fun x => { x with location := .inHamper })
      else (u.returnChute i.tag).freeItem i.tag) := fun u =>
    Work.ite (fun _ => Work.after (updItem_work _ _) (returnChute_work _ u)) fun _ =>
      Work.after (freeItem_work _ _) (returnChute_work _ u)
  refine Work.after (placeTry_work b _) <| Work.after (judgeStall_work b _) ?_
  cases ha : i.alloc with
  | none => exact h1.trans (h4 _)
  | some a =>
    exact Work.after (completionCheck_work _ _) <| Work.after (gateIfHeavy_work _ _ _) <| Work.after (h4 _) <|
      Work.after (fillUnit_work a _) h1

theorem placedOvertook_work (i : Item) (b : Nat) (s : State) : Work s (s.placedOvertook i b) := by
  unfold State.placedOvertook
  dsimp only
  refine Work.after (answerWithdrawal_work _ _) ?_
  cases ha : i.alloc with
  | none => exact Work.after (sendPull_work _ _ _) <| Work.after (updItem_work _ _) (returnChute_work _ s)
  | some a =>
    exact Work.after (completionCheck_work _ _) <| Work.after (gateIfHeavy_work _ _ _) <|
      Work.after (sendPull_work _ _ _) <| Work.after (updItem_work _ _) <| Work.after (fillUnit_work a _) (returnChute_work _ s)

theorem placed_work (tag b : Nat) (s : State) : Work s (s.placed tag b) := by
  unfold State.placed
  split
  · exact tagBenchMismatch_work _ _ _ s
  · split
    · exact fromBench_work _ _ (placedAnswer_work _) s
    · exact fromBench_work _ _ (placedOvertook_work _) s
    all_goals exact tagBenchMismatch_work _ _ _ s

theorem returnedAnswer_work (i : Item) (s : State) : Work s (s.returnedAnswer i) := by
  unfold State.returnedAnswer
  dsimp only
  have h := Work.after (freeItem_work i.tag _) <| Work.after (answerWithdrawal_work i.tag _) <|
    Work.after (returnChute_work i.tag _) <| Work.after (releaseAlloc_work i.tag _) <|
    updItem_work (f := fun x => { x with outstanding := .none }) i.tag s
  split
  · exact h
  · exact h.trans (completionCheck_work _ _)

theorem returned_work (tag b : Nat) (s : State) : Work s (s.returned tag b) := by
  unfold State.returned
  split
  · exact tagBenchMismatch_work _ _ _ s
  · split
    · exact fromBench_work _ _ (fun _ => returnedAnswer_work _) s
    all_goals exact tagBenchMismatch_work _ _ _ s

theorem reportRefused_work (i : Item) (r : RefuseReason) (b : Nat) (s : State) : Work s (s.reportRefused i r b) :=
  raiseFault_work _ _ _ s

theorem refusedPlace_work (i : Item) (r : RefuseReason) (b : Nat) (s : State) : Work s (s.refusedPlace i r b) := by
  unfold State.refusedPlace
  dsimp only
  have h := Work.after (releaseAlloc_work i.tag _) <|
    Work.after (updItem_work (f := fun x => { x with outstanding := .none }) i.tag _) <|
    Work.after (dropPlace_work b i.tag _) (reportRefused_work i r b s)
  refine Work.after (placeTry_work b _) <| Work.after (judgeStall_work b _) <| Work.after (freeItem_work _ _) <|
    Work.after (returnChute_work _ _) ?_
  split
  · exact h.trans (updHamper_work _ _ fun g => (clamp_places _ g).symm ▸ le_rfl)
  · exact h

theorem placeRefused_work (tag : Nat) (r : RefuseReason) (b : Nat) (s : State) : Work s (s.placeRefused tag r b) := by
  unfold State.placeRefused
  split
  · exact tagBenchMismatch_work _ _ _ s
  · split
    · exact tagBenchMismatch_work _ _ _ s
    · split
      · exact fromBench_work _ _ (refusedPlace_work _ _) s
      · exact fromBench_work _ _ (fun c u => (reportRefused_work _ _ c u).trans (returnedAnswer_work _ _)) s
      all_goals exact tagBenchMismatch_work _ _ _ s

theorem pulledAnswer_work (i : Item) (s : State) : Work s (s.pulledAnswer i) := by
  unfold State.pulledAnswer
  dsimp only
  refine Work.after (freeItem_work _ _) ?_
  split
  · exact .refl s
  · exact Work.after (completionCheck_work _ _) <| Work.after (gateIfHeavy_work _ _ _) <| Work.after (updItem_work _ _) <|
      Work.after (updHamper_work _ _ fun g => (vacate_places _ _ _ _ g).symm ▸ le_rfl)
        (updLine_work _ _ _ s (pull_host _))

theorem pulled_work (tag b : Nat) (s : State) : Work s (s.pulled tag b) := by
  unfold State.pulled
  split
  · exact .refl s
  · split
    · exact fromBench_work _ _ (fun _ => pulledAnswer_work _) s
    all_goals exact tagBenchMismatch_work _ _ _ s

/-- The order bound to a bench is the one in its slot. -/
theorem orderAt_slot {x : Bench} {o : Order} (h : s.orderAt? x = some o) : s.order? o.slot = some o := by
  obtain ⟨n, _, hn⟩ := Option.bind_eq_some_iff.1 h
  rw [(look_some hn).2]
  exact hn

theorem sealOrder_work (b : Nat) (o : Order) (s : State) (h : s.order? o.slot = some o) (hc : o.state = .complete) :
    Work s (s.sealOrder b o) :=
  Work.after (takeSealed_work _ _ _) <| Work.after (foldl_work (fun u n => freeItem_work n u) _ _) <|
    updOrder_work_at _ s fun _ p hp => by
      obtain rfl := Option.some.inj (h.symm.trans hp)
      exact .move .sealed (by rw [hc]; decide) id

theorem hamperSealed_work (b : Nat) (s : State) : Work s (s.hamperSealed b) := by
  unfold State.hamperSealed
  split
  · exact .refl s
  · split
    · split
      · exact benchMismatch_work _ _ s
      case h_2 ho =>
        exact Work.ite (fun hc => sealOrder_work _ _ s (orderAt_slot ho) hc) fun _ => benchMismatch_work _ _ s
    · exact .refl s
    all_goals exact benchMismatch_work _ _ s

theorem cageTakes_work (n : Nat) (s : State) : Work s (s.cageTakes n) := by
  have h : Work s (s.updDispatch n DispatchLane.taken) := updDispatch_work n s
  unfold State.cageTakes
  dsimp only
  split
  · exact h
  · exact Work.ite (fun _ => h.trans (raiseNotice_work _ _)) fun _ => h

theorem cageTakes_book (n : Nat) (s : State) : (s.cageTakes n).book = s.book := by
  unfold State.cageTakes
  dsimp only
  split
  · rfl
  · split <;> rfl

theorem dispatchOrder_work (b : Nat) (o : Order) (s : State) (h : s.order? o.slot = some o) (hc : o.state = .sealed) :
    Work s (s.dispatchOrder b o) :=
  Work.after (handBack_work _ _) <| Work.after (raiseNotice_work _ _) <| Work.after
    (updOrder_work_at _ _ fun _ p hp => by
      unfold State.order? at h hp
      rw [cageTakes_book] at hp
      obtain rfl := Option.some.inj (h.symm.trans hp)
      exact .move .dispatched (by rw [hc]; decide) id) (cageTakes_work _ s)

theorem hamperOut_work (b : Nat) (s : State) : Work s (s.hamperOut b) := by
  unfold State.hamperOut
  split
  · exact .refl s
  · split
    · split
      · exact benchMismatch_work _ _ s
      case h_2 ho =>
        exact Work.ite (fun hc => dispatchOrder_work _ _ s (orderAt_slot ho) hc) fun _ => benchMismatch_work _ _ s
    all_goals exact benchMismatch_work _ _ s

theorem takeApart_work (b slot : Nat) (s : State) : Work s (s.takeApart b slot) := by
  have h := Work.after (foldl_work (fun u n => freeItem_work n u)
    ((s.updBench b (fun x => { x with unpacked := true, hamper := none })).inHamperOf slot) _)
    (updBench_fields_work (f := fun x => { x with unpacked := true, hamper := none }) b s (hh := fun _ => .inr rfl))
  unfold State.takeApart
  dsimp only
  exact Work.ite (fun hc => h.trans (becomeCancelled_work _ _ fun _ => cancelDone_moves hc)) fun _ => h

theorem unpacked_work (b : Nat) (s : State) : Work s (s.unpacked b) := by
  unfold State.unpacked
  split
  · exact .refl s
  · exact Work.ite (fun _ => takeApart_work _ _ s) fun _ => benchMismatch_work _ _ s

/-! ### The cell bus (R190) -/

/-- A record of any kind is taken by its owner. -/
theorem recordOwner_taken (kind : Nat) (body : List Byte) (n : Nat) (s : State) :
    Taken s (State.recordOwner kind body n s) := by
  unfold State.recordOwner
  split
  · exact takeArrival_taken _ n s
  · exact (mergeReady_work s).taken
  · exact (divert_work _ _ s).taken
  · exact (pass_work _ s).taken
  · exact (delivered_work _ _ s).taken
  · exact releaseFailed_taken _ s
  · exact (benchOpen_work n s).taken
  · exact (benchClose_work n s).taken
  · exact (baseFitted_work n s).taken
  · exact (pocketFitted_work n s).taken
  · exact (placed_work _ n s).taken
  · exact (placeRefused_work _ _ n s).taken
  · exact (returned_work _ n s).taken
  · exact (pulled_work _ n s).taken
  · exact (hamperSealed_work n s).taken
  · exact (hamperOut_work n s).taken
  · exact (unpacked_work n s).taken
  · exact .refl s

theorem busFrameEnds_taken (e : FrameEnd) (s : State) : Taken s (s.busFrameEnds e) := by
  unfold State.busFrameEnds
  split
  · exact (raiseFault_work _ _ _ s).taken
  · exact (raiseFault_work _ _ _ s).taken
  · split
    · exact fieldRecord_taken _ _ (recordOwner_taken _ _) s
    · exact (raiseFault_work _ _ _ s).taken
  · exact .refl s

end Sys2Proof.Machine
end

