-- ==== Sys2Proof/Laws/Cell.lean ====
section
/-! SUPPORT. Changes of the cell state, the warm restart, the cutoff check, the tick, the buffer's failed releases and the host link keep the settings, the queue of commands, the invariant, and what lasts of items and orders. -/

set_option Elab.async false

namespace Sys2Proof.Machine

open Sys2Proof

variable {s t : State}

/-! ### Changes of the cell state (R178) -/

/-- A change between two states neither of which is RESTARTING. -/
theorem setCell_lasts (c : CellState) (hs : s.cell.state ≠ .restarting) (hc : c ≠ .restarting) :
    Lasts s (s.setCell c) :=
  { Lasts.refl s with
    settings := by
      have h := raised_kept .cellState s.notices
      simp only [State.settings, State.setCell, State.raiseNotice, h.1, h.2.1]
    inv := fun hi => { hi with
      restart := by
        have h := hi.restart
        simp only [hs, iff_false] at h
        show (s.cell.mode.isSome ↔ c = .restarting) ∧ (s.cell.deadline.isSome ↔ c = .restarting)
        simp only [hc, iff_false]
        exact h
      mark := fun hm => raised_pending (hi.mark (by rw [← (raised_kept .cellState s.notices).2.2]; exact hm)) }
    cellFlag := raised_pending
    notified := fun _ => raised_self _ _ }

theorem resumeBenches_work (s : State) : Work s s.resumeBenches :=
  ((foldl_work (fun u n => placeTry_work n u) _ s).trans (foldl_work (fun u n => sealTry_work n u) _ _)).trans
    (serveAll_work _)

/-- R178: what follows the change to RUNNING. -/
theorem runningWork (s : State) : Work s (eitherOrder State.tryAdmit State.arbitrate s).bindPass.resumeBenches :=
  ((eitherOrder_work tryAdmit_work arbitrate_work s).trans (bindPass_work _)).trans (resumeBenches_work _)

theorem pausedWork (s : State) : Work s s.arbitrate.bindPass.resumeBenches :=
  ((arbitrate_work s).trans (bindPass_work _)).trans (resumeBenches_work _)

theorem drainingWork (s : State) : Work s s.arbitrate.resumeBenches := (arbitrate_work s).trans (resumeBenches_work _)

theorem enterRunning_lasts (hs : s.cell.state ≠ .restarting) : Lasts s s.enterRunning :=
  (setCell_lasts .running hs (by decide)).trans (runningWork _).lasts

theorem enterPaused_lasts (hs : s.cell.state ≠ .restarting) : Lasts s s.enterPaused :=
  (setCell_lasts .paused hs (by decide)).trans (pausedWork _).lasts

theorem enterDraining_lasts (hs : s.cell.state ≠ .restarting) : Lasts s s.enterDraining :=
  (setCell_lasts .draining hs (by decide)).trans (drainingWork _).lasts

/-! ### The warm restart (R185) -/

/-- The volatile state cleared keeps every setting and meets the invariant. -/
theorem cleared_lasts (c : Causes) (s : State) : Lasts s (s.cleared c) where
  cellFlag _ := flagIn_bit .cellState
  notified _ := flagIn_bit .cellState
  seen _ h := h
  sent := List.prefix_rfl
  items _ h := by cases h
  orders _ _ h := by cases h
  settings := by
    simp only [State.settings, State.cleared, State.restartNotices, List.map_map]
    rfl
  pending := rfl
  inv hi := { hi with
    laneKeys := by
      show (s.lanes.map _).map Lane.number = _
      rw [List.map_map]
      exact hi.laneKeys
    queues := by
      intro l hl
      obtain ⟨k, _, rfl⟩ := List.mem_map.1 hl
      exact Nat.zero_le 4
    chuteKeys := by
      show (s.chutes.map State.restartChute).map Chute.bench = _
      rw [List.map_map]
      exact hi.chuteKeys
    benchKeys := by
      show (s.benches.map State.restartBench).map Bench.number = _
      rw [List.map_map]
      exact hi.benchKeys
    places := by
      intro x hx h hh
      obtain ⟨y, _, rfl⟩ := List.mem_map.1 hx
      cases hh
    dispatchKeys := by
      show (s.dispatch.map State.restartDispatch).map DispatchLane.number = _
      rw [List.map_map]
      exact hi.dispatchKeys
    slots := .nil
    slotRange := fun _ h => by cases h
    loadSeq := by show 0 < 65536; decide
    tags := .nil
    tableRoom := Nat.zero_le _
    entries := by show 0 < 4294967296; decide
    pointer := by show 0 < 32; decide
    releases := Nat.zero_le _
    heldBack := .nil
    benchPointer := by show 1 ≤ 12 ∧ 12 ≤ 12; decide
    restart := by
      show (Option.isSome (none : Option RestartMode) ↔ (if s.cell.committed then CellState.ready else .setup) = .restarting) ∧
        (Option.isSome (none : Option Nat) ↔ (if s.cell.committed then CellState.ready else .setup) = .restarting)
      cases s.cell.committed <;> decide
    mark := fun h => by cases h }

theorem sendRestarts_work (s : State) : Work s s.sendRestarts := foldl_work (fun u x => send_work x _ u) allUnits s

theorem warmRestart_lasts (c : Causes) (s : State) : Lasts s (s.warmRestart c) :=
  ((cleared_lasts c s).trans (sendRestarts_work _).lasts).trans (judgeLanes_work _).lasts

theorem actQuiet_lasts (s : State) : Lasts s s.actQuiet := by
  unfold State.actQuiet
  split
  · split
    case h_1 h => exact setCell_lasts .ready (by rw [h]; decide) (by decide)
    case h_2 => exact warmRestart_lasts _ s
    all_goals exact .refl s
  · exact .refl s

/-- The quiet judgment that ends an event. -/
theorem judgeQuiet_lasts (s t : State) : Lasts t (State.judgeQuiet s t) := by
  unfold State.judgeQuiet
  split
  · exact .refl t
  · exact actQuiet_lasts t

/-- The judgment finds nothing to do where the parts of the quiet condition and the cell state are as they were. -/
theorem judgeQuiet_same (h : s.quietParts = t.quietParts) (hc : s.cell.state = t.cell.state) :
    State.judgeQuiet s t = t := if_pos ⟨h, hc⟩

/-- The judgment finds nothing to do in a cell that is neither DRAINING nor RESTARTING. -/
theorem judgeQuiet_idle (hd : t.cell.state ≠ .draining) (hr : t.cell.state ≠ .restarting) :
    State.judgeQuiet s t = t := by
  unfold State.judgeQuiet State.actQuiet
  split
  · rfl
  · split
    · split <;> first | contradiction | rfl
    · rfl

/-- A warm restart leaves the host link alone. -/
theorem warmRestart_link (c : Causes) (s : State) : (s.warmRestart c).link = s.link :=
  (judgeLanes_work _).link.trans (sendRestarts_work (s.cleared c)).link

theorem actQuiet_link (s : State) : s.actQuiet.link = s.link := by
  unfold State.actQuiet
  split
  · split
    · rfl
    · exact warmRestart_link _ s
    all_goals rfl
  · rfl

theorem judgeQuiet_link (s t : State) : (State.judgeQuiet s t).link = t.link := by
  unfold State.judgeQuiet
  split
  · rfl
  · exact actQuiet_link t

theorem forceRestart_lasts (s : State) : Lasts s s.forceRestart :=
  (warmRestart_lasts _ s).trans (raiseFault_work _ _ _ _).lasts

theorem judgeDeadline_lasts (s : State) : Lasts s s.judgeDeadline := by
  unfold State.judgeDeadline
  split
  · split
    · exact forceRestart_lasts s
    · exact .refl s
  · exact .refl s

/-! ### The tick -/

theorem cutWave_lasts (w : Nat) (s : State) (h : s.cutNow w = true) : Lasts s (s.cutWave w) := by
  refine ⟨(cutWave_touch w s h).toShows, ?_, fun hi p hp => ?_⟩
  · intro j hj
    refine ⟨j, ?_, .refl j⟩
    have he : (s.cutWave w).items = s.items := by
      unfold State.cutWave
      dsimp only
      split <;> rfl
    exact he ▸ hj
  · have he : (s.cutWave w).book.orders =
        s.book.orders.map (fun o => if cutMarks w o then { o with overdue := true } else o) := by
      unfold State.cutWave
      dsimp only
      split <;> rfl
    rw [he] at hp
    obtain ⟨o, ho, rfl⟩ := List.mem_map.1 hp
    refine ⟨o, ho, ?_⟩
    split
    · exact { OrderKept.refl o with overdue := fun _ => rfl, state := .refl }
    · exact .refl o

theorem cutoffCheck_lasts (s : State) (w : Nat) : Lasts s (s.cutoffCheck w) := by
  have h := cutoffCheck_touch s w
  unfold State.cutoffCheck at h ⊢
  split
  case isTrue hc => exact cutWave_lasts w s hc
  case isFalse hc =>
    rw [if_neg hc] at h
    refine h.toShows.lasts ?_ ?_ <;> split <;> rfl

theorem foldl_lasts {α : Type} {f : State → α → State} (hf : ∀ s a, Lasts s (f s a)) (xs : List α) (s : State) :
    Lasts s (xs.foldl f s) := by
  induction xs generalizing s with
  | nil => exact .refl s
  | cons x xs ih => exact (hf s x).trans (ih _)

theorem cutoffAll_lasts (s : State) : Lasts s s.cutoffAll := foldl_lasts cutoffCheck_lasts _ s

theorem advanceMinute_lasts (s : State) : Lasts s s.advanceMinute := by
  unfold State.advanceMinute
  split
  case isTrue h =>
    exact (Keeps.shows (s := s) (t := { s with clock := { s.clock with minute := s.clock.minute + 1 } })
      ⟨rfl, rfl, fun hi => { hi with minute := h }⟩).lasts
  case isFalse => exact (raiseFault_work _ _ _ s).lasts

theorem tick_lasts (s : State) : Lasts s s.tick :=
  ((((advanceMinute_lasts s).trans (cutoffAll_lasts _)).trans (eitherOrder_work runTimers_work clearHeldBack_work _).lasts).trans
    (judgeQuiet_lasts _ _)).trans (judgeDeadline_lasts _)

/-! ### Failed releases (R101) -/

theorem holdBack_lasts (tag : Nat) (s : State) : Lasts s (s.holdBack tag) := by
  have h := (holdBack_taken tag s).toShows
  unfold State.holdBack at h ⊢
  split
  · exact .refl s
  case isFalse hn =>
    rw [if_neg hn] at h
    exact h.lasts

theorem failedRelease_lasts (q : Point) (i : Item) (s : State) : Lasts s (s.failedRelease q i) := by
  unfold State.failedRelease
  dsimp only
  have h := Lasts.after (holdBack_lasts i.tag _) (raiseFault_work .bufferFault
    { i.ctx with slot := i.alloc.map (·.slot), bench := pointBench? q } (match q with
      | .bench _ => 1
      | .buffer | .exception | .other => 2) s).lasts
  cases q with
  | bench b =>
    exact h.trans (Work.after (answerWithdrawal_work _ _) <| Work.after (updItem_work _ _) (dropChuteHold_work _ _)).lasts
  | buffer => exact h
  | exception => exact h
  | other => exact h

theorem releaseFailed_lasts (tag : Nat) (s : State) : Lasts s (s.releaseFailed tag) := by
  unfold State.releaseFailed
  split
  · exact (noEntry_work _ _ s).lasts
  · dsimp only
    refine Lasts.after (arbitrate_work _).lasts ?_
    split
    · exact (dropRelease_work tag s).lasts
    · exact (dropRelease_work tag s).lasts.trans (failedRelease_lasts _ _ _)

/-! ### The host link -/

/-- A change of the host link within its room. -/
theorem link_lasts {l : Link} (h : s.Inv → l.queue.length ≤ 4 ∧ l.busyHold.length ≤ 4) : Lasts s { s with link := l } :=
  (Keeps.shows (s := s) (t := { s with link := l }) ⟨rfl, rfl, fun hi => { hi with requests := (h hi).1, busyReplies := (h hi).2 }⟩).lasts

theorem beginFrame_lasts (f : HostFrame) (s : State) : Lasts s (s.beginFrame f) :=
  link_lasts fun hi => ⟨hi.requests, hi.busyReplies⟩

theorem beginReply_lasts (s : State) : Lasts s s.beginReply := by
  unfold State.beginReply
  split
  case h_1 e es he =>
    refine Lasts.after (beginFrame_lasts _ _) (link_lasts fun hi => ⟨hi.requests, ?_⟩)
    have h := hi.busyReplies
    rw [he] at h
    exact (Nat.le_succ _).trans h
  case h_2 =>
    split
    case h_1 e es he =>
      split
      · refine Lasts.after (beginFrame_lasts _ _) (link_lasts fun hi => ⟨?_, hi.busyReplies⟩)
        have h := hi.requests
        rw [he] at h
        exact (Nat.le_succ _).trans h
      · exact .refl s
    · exact .refl s

theorem beginNotice_lasts (s : State) : Lasts s s.beginNotice :=
  Lasts.after (beginFrame_lasts _ _)
    (notices_work (s := s) (n := { s.notices with due := false }) rfl rfl (fun hi => hi.mark) fun _ => id).lasts

theorem startIfFree_lasts (s : State) : Lasts s s.startIfFree := by
  unfold State.startIfFree
  split
  · exact beginReply_lasts s
  · exact .refl s

/-- A reply to the request in its turn finds a place. -/
theorem answer_lasts (tag kind : Byte) (r : Reply) (s : State) : Lasts s (s.answer tag kind r) := by
  refine Lasts.after (startIfFree_lasts _) (link_lasts fun hi => ⟨?_, hi.busyReplies⟩)
  have h := hi.requests
  split
  · exact (by decide : 1 ≤ 4)
  case h_2 he => rw [he] at h; exact h

theorem answerBusy_lasts (tag kind : Byte) (s : State) : Lasts s (s.answerBusy tag kind) := by
  unfold State.answerBusy
  split
  case isTrue h =>
    exact Lasts.after (startIfFree_lasts _) (link_lasts fun hi => ⟨hi.requests, by simpa [Config.linkRoom] using h⟩)
  case isFalse => exact .refl s

theorem requestArrives_lasts (tag kind : Byte) (c : Instr) (s : State) :
    Lasts s (s.requestArrives tag kind c) := by
  unfold State.requestArrives
  split
  case isTrue h => exact link_lasts fun hi => ⟨by simpa [Config.linkRoom] using h, hi.busyReplies⟩
  case isFalse => exact answerBusy_lasts _ _ s

theorem hostFrameEnds_lasts (e : FrameEnd) (s : State) : Lasts s (s.hostFrameEnds e) := by
  unfold State.hostFrameEnds
  split
  · exact (raiseFault_work _ _ _ s).lasts
  · exact (raiseFault_work _ _ _ s).lasts
  · exact requestArrives_lasts _ _ _ s
  · exact .refl s

theorem hostBytes_lasts (bs : List Byte) (s : State) : Lasts s (s.hostBytes bs) := by
  induction bs generalizing s with
  | nil => exact .refl s
  | cons b bs ih =>
    unfold State.hostBytes
    refine Lasts.trans ?_ (ih _)
    dsimp only
    split
    · exact link_lasts fun hi => ⟨hi.requests, hi.busyReplies⟩
    · exact Lasts.after (hostFrameEnds_lasts _ _) (link_lasts fun hi => ⟨hi.requests, hi.busyReplies⟩)

theorem hostGap_lasts (s : State) : Lasts s s.hostGap := by
  unfold State.hostGap
  split
  · exact .refl s
  · exact Lasts.after (raiseFault_work _ _ _ _).lasts (link_lasts fun hi => ⟨hi.requests, hi.busyReplies⟩)

theorem beginNext_lasts (s : State) : Lasts s s.beginNext := by
  unfold State.beginNext
  split
  · exact beginReply_lasts s
  · split
    · dsimp only
      split
      · exact (free_work _ s).lasts.trans (beginNotice_lasts _)
      · exact (free_work _ s).lasts.trans (beginReply_lasts _)
    · exact beginNotice_lasts s

/-! ### Commands -/

/-- A request goes on: answered in its turn, after the quiet judgment, or waiting for it, or turned away as BUSY. -/
theorem request_cases (rq : ReqHead) (kind : Byte) (owner : State → Reply × State) (s : State) (c : Instr) :
    ∃ t, request c rq kind owner s = .next t ∧ (Lasts (owner s).2 t ∨ Lasts s t) := by
  unfold request
  split
  · exact ⟨_, rfl, .inl ((judgeQuiet_lasts s _).trans (answer_lasts _ _ _ _))⟩
  · exact ⟨_, rfl, .inr (requestArrives_lasts _ _ _ s)⟩

/-- A checked request does what its owner does, or changes nothing (R189). -/
theorem checked_cases (l v : Bool) (owner : State → Reply × State) (s : State) :
    checked l v owner s = owner s ∨ (checked l v owner s).2 = s := by
  unfold checked
  split
  · exact .inr rfl
  · split
    · exact .inr rfl
    · exact .inl rfl

/-- In its turn, a checked request is its owner's. -/
theorem request_taken {rq : ReqHead} {kind : Byte} {v : Bool} {owner : State → Reply × State} {c : Instr}
    (ht : s.inTurn rq.tag kind c = true) (hl : rq.lengthOk = true) (hv : v = true) :
    request c rq kind (checked rq.lengthOk v owner) s =
      .next ((State.judgeQuiet s (owner s).2).answer rq.tag kind (owner s).1) := by
  simp [request, ht, checked, hl, hv]

/-- A request on an order is its owner's when it passes the checks of R13. -/
theorem orderRequest_taken {rq : ReqHead} {kind : Byte} {v : Bool} {ref : Nat} {allowed : OrderState → Bool} {o : Order}
    {owner : Order → State → Reply × State} {c : Instr} (ht : s.inTurn rq.tag kind c = true) (hl : rq.lengthOk = true) (hv : v = true)
    (hr : 1 ≤ ref ∧ ref ≤ maxRef) (ho : s.orderOf? ref = some o) (ha : allowed o.state = true) :
    request c rq kind (orderRequest rq v ref allowed owner) s =
      .next ((State.judgeQuiet s (owner o s).2).answer rq.tag kind (owner o s).1) := by
  simp [request, ht, orderRequest, checked, hl, hv, inRange, hr, ho, ha]

end Sys2Proof.Machine
end

