-- ==== Sys2Proof/Laws/Requests.lean ====
section
/-! SUPPORT. What the owners of the requests on orders, waves, cages, faults and notices do, said once for each. -/

set_option Elab.async false

namespace Sys2Proof.Machine

open Sys2Proof

variable {s t : State}

/-! ### Orders -/

theorem bindIfWaiting_work (slot : Nat) (s : State) : Work s (s.bindIfWaiting slot) := by
  unfold State.bindIfWaiting
  split
  · exact .refl s
  · exact Work.ite (fun _ => bindPass_work s) fun _ => .refl s

/-- R1: the slot found FREE holds no order, and is one of the 64. -/
theorem freeSlot_spec {slot : Nat} (h : s.freeSlot? = some slot) :
    s.order? slot = none ∧ (∀ o ∈ s.book.orders, o.slot ≠ slot) ∧ slot < 64 := by
  have h1 : s.order? slot = none := by simpa using List.find?_some h
  refine ⟨h1, fun o ho he => ?_, ?_⟩
  · have h2 := List.find?_eq_none.1 h1 o ho
    simp [he] at h2
  · have h2 := List.mem_of_find?_eq_some h
    simpa [Config.orderSlots] using h2

/-- R14: an order put in a free slot. -/
theorem insertOrder_touch {o : Order} (h : s.freeSlot? = some o.slot) :
    Touch s { s with book :=
      { s.book with
        orders := insertBy Order.slot o s.book.orders
        loadSeq := (s.book.loadSeq + 1) % Config.loadModulus } } :=
  .of rfl fun hi => { hi with
    slots := pairwise_insertBy hi.slots (freeSlot_spec h).2.1
    slotRange := by
      intro p hp
      rcases mem_insertBy.1 hp with rfl | hp
      · exact (freeSlot_spec h).2.2
      · exact hi.slotRange p hp
    loadSeq := Nat.mod_lt _ (by decide) }

theorem acceptOrder_touch {slot : Nat} (f : LoadFields) (h : s.freeSlot? = some slot) : Touch s (s.acceptOrder slot f) := by
  unfold State.acceptOrder
  have h1 := insertOrder_touch (o := s.newOrder slot f) h
  exact Touch.after (bindPass_work _).toTouch <|
    Touch.ite (fun _ => h1.trans (raiseNotice_work _ _).toTouch) fun _ => h1

theorem loadOrder_touch (body : List Byte) (s : State) : Touch s (s.loadOrder body).2 := by
  unfold State.loadOrder
  dsimp only
  rcases checked_cases (loadLengthOk body) (loadFieldsOk (LoadFields.read body)) _ s with h | h
  · rw [h]
    split
    · exact .refl s
    · split
      · exact .refl s
      · split
        · exact .refl s
        case h_2 slot hs =>
          split
          · exact .refl s
          · exact acceptOrder_touch _ hs
  · rw [h]

theorem setQuantity_touch (n r : Nat) (o : Order) (s : State) : Touch s (s.setQuantity n r o).2 := by
  unfold State.setQuantity
  split
  · exact .refl s
  · split
    · exact .refl s
    · split
      · exact .refl s
      · split
        · exact .refl s
        · exact (updOrder_touch _ s).trans (((recomputeGate_work _ _).trans (completionCheck_work _ _)).trans
            (bindIfWaiting_work _ _)).toTouch

theorem addLine_touch (sku : Nat) (c : ItemClass) (r g : Nat) (o : Order) (s : State) :
    Touch s (s.addLine sku c r g o).2 := by
  unfold State.addLine
  repeat' (split; · exact .refl s)
  exact (updOrder_touch _ s).trans ((recomputeGate_work _ _).trans (bindIfWaiting_work _ _)).toTouch

theorem renumber_work (slot n : Nat) (s : State) : Work s (s.renumber slot n) :=
  work_items (fun i => by
    split
    · exact .refl i
    · split
      · exact .of
      · exact .refl i) s

theorem removeLine_touch (n : Nat) (o : Order) (s : State) : Touch s (s.removeLine n o).2 := by
  unfold State.removeLine
  split
  · exact .refl s
  · split
    · exact .refl s
    · split
      · exact .refl s
      · exact (updOrder_touch _ s).trans ((((renumber_work _ _ _).trans (recomputeGate_work _ _)).trans
          (completionCheck_work _ _)).trans (bindIfWaiting_work _ _)).toTouch

theorem setPriority_touch (n : Nat) (o : Order) (s : State) : Touch s (s.setPriority n o).2 :=
  (updOrder_touch _ s).trans (bindIfWaiting_work _ _).toTouch

theorem amendWave_touch (w : Nat) (o : Order) (s : State) : Touch s (s.amendWave w o).2 := by
  unfold State.amendWave
  split
  · exact .refl s
  · split
    · exact .refl s
    · exact (Touch.ite (fun _ => (updOrder_touch _ s).trans (raiseNotice_work _ _).toTouch) fun _ =>
        updOrder_touch _ s).trans (bindIfWaiting_work _ _).toTouch

/-- The order that a reference names is the one in its slot. -/
theorem orderOf_slot (hi : s.Inv) {ref : Nat} {o : Order} (h : s.orderOf? ref = some o) : s.order? o.slot = some o :=
  look_of_mem hi.slots (List.mem_of_find?_eq_some h)

/-- R19: Hold Order keeps what lasts, its order's state going along the table. -/
theorem holdOrder_lasts (o : Order) (s : State) (ho : s.Inv → s.order? o.slot = some o) :
    Lasts s (s.holdOrder o).2 := by
  have h : ∀ f : Order → Order, (∀ p, (f p).slot = p.slot) → (s.order? o.slot = some o → OrderKept o (f o)) →
      Lasts s (s.updOrder o.slot f) := fun f hs hf =>
    ⟨(updOrder_touch o.slot s hs).toShows, fun j hj => ⟨j, hj, .refl j⟩, fun hi p hp => by
      rcases mem_amend hp with hp | ⟨q, hq, hqs, rfl⟩
      · exact ⟨p, hp, .refl p⟩
      · have he : s.order? q.slot = some q := look_of_mem hi.slots hq
        rw [hqs, ho hi] at he
        obtain rfl := Option.some.inj he
        exact ⟨o, hq, hf (ho hi)⟩⟩
  unfold State.holdOrder
  split
  case h_1 hl => exact h _ (fun _ => rfl) fun _ => { OrderKept.refl o with state := .refl }
  case h_2 hb =>
    exact h _ (fun _ => rfl) fun _ => { OrderKept.refl o with state := .single (hb ▸ by decide : OrderState.held ∈ orderMoves o.state) }
  all_goals exact .refl s

theorem holdOrder_touch (o : Order) (s : State) : Touch s (s.holdOrder o).2 := by
  unfold State.holdOrder
  split <;> first | exact .refl s | exact updOrder_touch _ s

theorem resumeOrder_work (o : Order) (s : State) (ho : s.Inv → s.order? o.slot = some o) :
    Work s (s.resumeOrder o).2 := by
  unfold State.resumeOrder
  split
  · split
    · exact Work.after (bindIfWaiting_work _ _) (updOrder_work _ s fun _ => .of (held := fun _ => rfl))
    · exact .refl s
  · exact .refl s
  case h_3 hh =>
    exact Work.after (arbitrate_work _) <| Work.after (completionCheck_work _ _) <|
      updOrder_work_at _ s fun hi p hp => by
        obtain rfl := Option.some.inj ((ho hi).symm.trans hp)
        exact .move .building (by rw [hh]; decide) fun _ => rfl
  all_goals exact .refl s

theorem cancelOrder_work (o : Order) (s : State) (ho : s.Inv → s.order? o.slot = some o) :
    Work s (s.cancelOrder o).2 := by
  have hm : ∀ st, st ∈ orderMoves o.state → s.Inv → ∀ p, s.order? o.slot = some p → st ∈ orderMoves p.state :=
    fun st h hi p hp => by
      obtain rfl := Option.some.inj ((ho hi).symm.trans hp)
      exact h
  unfold State.cancelOrder
  split
  case h_5 hl =>
    split
    · exact becomeCancelled_work _ s (hm _ (by rw [hl]; decide))
    · exact enterCancelling_work _ s (hm _ (by rw [hl]; decide))
  case h_6 hl => exact enterCancelling_work _ s (hm _ (by rw [hl]; decide))
  case h_7 hl => exact enterCancelling_work _ s (hm _ (by rw [hl]; decide))
  case h_8 hl => exact enterCancelling_work _ s (hm _ (by rw [hl]; decide))
  all_goals exact .refl s

theorem retireOrder_work (o : Order) (s : State) : Work s (s.retireOrder o).2 :=
  { Touch.of (s := s) (t := (s.retireOrder o).2) rfl fun hi => { hi with
      slots := pairwise_dropKey hi.slots
      slotRange := fun o ho => hi.slotRange o (mem_dropKey.1 ho).1 } with
    waves := rfl
    loadSeq := rfl
    heldBack := fun _ h => h
    items := fun j hj => ⟨j, hj, .refl j⟩
    orders := fun _ p hp => ⟨p, (mem_dropKey.1 hp).1, .refl p⟩
    empty := fun h => by
      show dropKey Order.slot o.slot s.book.orders = []
      rw [h]
      rfl }

theorem declareShort_work (n : Nat) (o : Order) (s : State) : Work s (s.declareShort n o).2 := by
  unfold State.declareShort
  split
  · exact .refl s
  · split <;> first | exact .refl s | exact updLine_work _ _ _ s

theorem restoreLine_work (n : Nat) (o : Order) (s : State) : Work s (s.restoreLine n o).2 := by
  unfold State.restoreLine
  split
  · exact .refl s
  · split
    · exact updLine_work _ _ _ s
    · split
      · exact updLine_work _ _ _ s
      · exact .refl s
    all_goals exact .refl s

theorem closeLine_work (n : Nat) (o : Order) (s : State) : Work s (s.closeLine n o).2 := by
  unfold State.closeLine
  split
  · exact .refl s
  · split
    · exact .refl s
    all_goals
      exact Work.after (completionCheck_work _ _) <|
        Work.ite (fun _ => Work.after (recomputeGate_work _ _) (updLine_work _ _ _ s)) fun _ => updLine_work _ _ _ s

/-! ### Waves, cages -/

theorem departWave_touch (w : Nat) (s : State) (h : s.waveState w ≠ .unused) :
    Touch s (s.updWave w (fun x => { x with state := .departed })) :=
  updWave_touch (by decide) w s fun hi x hx hn hu => by
    unfold State.waveState at h
    rw [← hn, wave_of_mem hi hx] at h
    simp [hu] at h

theorem swapCage_work (n : Nat) (s : State) : Work s (s.swapCage n) :=
  Work.after (serveLane_work _ _) <| Work.after (judgeFull_work _ _ _) (updDispatch_work n s)

/-! ### The cell -/

/-- R183: the cell becomes RESTARTING. -/
theorem enterRestarting_lasts (s : State) : Lasts s s.enterRestarting.2 := by
  have h := raised_kept .cellState s.notices
  have h2 := judgeLanes_work (s.setCell .restarting)
  refine { Lasts.refl s with settings := ?_, inv := fun hi => ?_, cellFlag := ?_, notified := ?_, sent := h2.sent }
  · show (s.setCell .restarting).judgeLanes.settings = s.settings
    rw [h2.settings]
    simp only [State.settings, State.setCell, State.raiseNotice, h.1, h.2.1]
  · have hi2 := (raiseNotice_work .cellState s).inv hi
    exact { hi2 with
      laneKeys := by
        show (s.lanes.map _).map Lane.number = _
        rw [List.map_map]
        exact hi.laneKeys
      queues := by
        intro l hl
        obtain ⟨k, hk, rfl⟩ := List.mem_map.1 hl
        exact hi.queues k hk
      restart := by constructor <;> exact ⟨fun _ => rfl, fun _ => rfl⟩ }
  · exact raised_pending
  · exact fun _ => raised_self _ _

end Sys2Proof.Machine
end

