-- ==== Sys2Proof/Laws/Frames.lean ====
section
/-! SUPPORT. What the shared operations leave as it was, and what they do to one order, item or bench. -/

set_option Elab.async false

namespace Sys2Proof.Machine

open Sys2Proof

variable {s t : State}

/-! ### Fault reports -/

/-- R164 to R170: a report changes the Fault Monitor, the notices, and by a halt the cell state, the lanes and the bus. -/
theorem raiseFault_frame (k : FaultKind) (c : FaultCtx) (d : Nat) (s : State) :
    { s.raiseFault k c d with faults := s.faults, notices := s.notices, cell := s.cell, lanes := s.lanes, bus := s.bus } =
      s := by
  unfold State.raiseFault
  split
  · rfl
  · split
    · dsimp only
      generalize FaultMonitor.logged _ _ _ = m
      generalize m.actionOf _ = a
      cases a
      · rfl
      · rfl
      · rfl
      · simp only [State.applyAction, State.haltRequest]
        split <;> rfl
    · rfl

theorem applyAction_faults (a : FaultAction) (s : State) : (s.applyAction a).faults = s.faults := by
  cases a <;> first | rfl | (simp only [State.applyAction, State.haltRequest]; split <;> rfl)

/-- What a report leaves in the Fault Monitor. -/
theorem raiseFault_faults (k : FaultKind) (c : FaultCtx) (d : Nat) (s : State) :
    (s.raiseFault k c d).faults = s.reported k c d := by
  unfold State.raiseFault State.reported
  cases s.faults.entry? k with
  | none => rfl
  | some e => dsimp only; split <;> simp [applyAction_faults]

/-- A report leaves the parts of the quiet condition as they are, and the cell state, or halts the cell. -/
theorem raiseFault_quiet (k : FaultKind) (c : FaultCtx) (d : Nat) (s : State) :
    (s.raiseFault k c d).quietParts = s.quietParts ∧
      ((s.raiseFault k c d).cell.state = s.cell.state ∨ (s.raiseFault k c d).cell.state = .halted) :=
  ⟨(congrArg State.quietParts (raiseFault_frame k c d s) :), (raiseFault_work k c d s).cellState⟩

/-- An event that ends in a report and changes no part of the quiet condition needs no judgment. -/
theorem judgeQuiet_fault (k : FaultKind) (c : FaultCtx) (d : Nat) (s u : State) (hq : s.quietParts = u.quietParts)
    (hc : s.cell.state = u.cell.state) : State.judgeQuiet s (u.raiseFault k c d) = u.raiseFault k c d := by
  obtain ⟨h1, h2⟩ := raiseFault_quiet k c d u
  rcases h2 with h2 | h2
  · exact judgeQuiet_same (hq.trans h1.symm) (hc.trans h2.symm)
  · exact judgeQuiet_idle (by rw [h2]; decide) (by rw [h2]; decide)

/-! ### Tables -/

theorem modify_eq_set {α : Type} {xs : List α} {n : Nat} {x : α} (f : α → α) (h : xs[n]? = some x) :
    xs.modify n f = xs.set n (f x) := by
  induction xs generalizing n with
  | nil => simp at h
  | cons y ys ih =>
    cases n with
    | zero => simp at h; simp [h]
    | succ n => simp at h; simp [ih h]

theorem look_map {α : Type} {key : α → Nat} {f : α → α} (hf : ∀ x, key (f x) = key x) (n : Nat) (xs : List α) :
    look key n (xs.map f) = (look key n xs).map f := by
  induction xs with
  | nil => rfl
  | cons x xs ih =>
    simp only [look, List.map_cons, List.find?_cons, hf] at ih ⊢
    split <;> simp_all

/-- An order of the table is the one in its slot. -/
theorem order_of_mem (hi : s.Inv) {o : Order} (h : o ∈ s.book.orders) : s.order? o.slot = some o := look_of_mem hi.slots h

/-- A tracked item is the one of its tag. -/
theorem item_of_mem (hi : s.Inv) {i : Item} (h : i ∈ s.items) : s.item? i.tag = some i := look_of_mem hi.tags h

/-- Updating the order in a slot is putting the updated order in its place. -/
theorem updOrder_eq_withOrder (hi : s.Inv) {o : Order} (ho : s.order? o.slot = some o) (f : Order → Order)
    (hf : (f o).slot = o.slot := by rfl) : s.updOrder o.slot f = s.withOrder (f o) := by
  have : amend Order.slot o.slot f s.book.orders = s.book.orders.map (fun p => if p.slot = (f o).slot then f o else p) := by
    refine List.map_congr_left fun p hp => ?_
    by_cases h : p.slot = o.slot
    · have := order_of_mem hi hp
      rw [h, ho] at this
      obtain rfl := Option.some.inj this
      simp [hf]
    · simp [h, hf]
  simp only [State.updOrder, State.withOrder, this]

/-- Updating line n of an order is putting the updated line in its place. -/
theorem updLine_eq_withOrder (hi : s.Inv) {o : Order} (ho : s.order? o.slot = some o) {n : Nat} {l : Line}
    (hl : o.lines[n - 1]? = some l) (f : Line → Line) : s.updLine o.slot n f = s.withOrder (o.withLine n (f l)) := by
  rw [State.updLine, updOrder_eq_withOrder hi ho _ rfl, modify_eq_set f hl]
  rfl

theorem withOrder_order (hi : s.Inv) {o p : Order} (ho : s.order? o.slot = some o) (hp : p.slot = o.slot) :
    (s.withOrder p).order? o.slot = some p := by
  rw [← hp, ← updOrder_eq_withOrder hi ho (fun _ => p) hp]
  have := look_amend_same (key := Order.slot) (n := o.slot) (f := fun x => if x.slot = o.slot then p else x)
  rw [hp]
  simp only [State.order?, State.updOrder]
  have hm := (look_some ho).1
  have : look Order.slot o.slot (amend Order.slot o.slot (fun _ => p) s.book.orders) = some p := by
    have h2 : amend Order.slot o.slot (fun _ => p) s.book.orders = s.book.orders.map (fun x => if x.slot == o.slot then p else x) := rfl
    rw [h2, look_map (f := fun x => if x.slot == o.slot then p else x) (fun x => by split <;> simp_all)]
    simp only [State.order?] at ho
    rw [ho]
    simp
  exact this

/-! ### The release arbitration -/

theorem arbitrateOnce_frame (h : s.arbitrateOnce = some t) :
    { t with items := s.items, arbiter := s.arbiter, chutes := s.chutes, bus := s.bus } = s := by
  obtain ⟨_, ⟨i, _, rfl⟩ | ⟨_, _, b, _, i, _, rfl⟩⟩ := arbitrateOnce_cases h <;> rfl

/-- R95 to R97: an arbitration changes items, the arbiter, chute credits and the bus, and nothing else. -/
theorem arbitrate_frame (s : State) :
    { s.arbitrate with items := s.items, arbiter := s.arbiter, chutes := s.chutes, bus := s.bus } = s := by
  unfold State.arbitrate
  split
  · rfl
  case h_2 s1 h1 =>
    split
    · exact arbitrateOnce_frame h1
    case h_2 s2 h2 =>
      exact (congrArg (fun x : State => { x with items := s.items, arbiter := s.arbiter, chutes := s.chutes, bus := s.bus })
        (arbitrateOnce_frame h2)).trans (arbitrateOnce_frame h1)

theorem arbitrate_book (s : State) : s.arbitrate.book = s.book := (congrArg State.book (arbitrate_frame s) :)
theorem arbitrate_benches (s : State) : s.arbitrate.benches = s.benches := (congrArg State.benches (arbitrate_frame s) :)

/-! ### The top gate -/

theorem recomputeGate_order (slot k : Nat) (s : State) :
    (s.recomputeGate slot).order? k = (s.order? k).map (fun o =>
      if o.slot == slot then if o.bench != none && o.topGate != none then { o with topGate := some (gateOf o.lines) } else o
      else o) := by
  have h1 : (s.setGate slot).order? k = (s.updOrder slot (fun o =>
      if o.bench != none && o.topGate != none then { o with topGate := some (gateOf o.lines) } else o)).order? k := by
    unfold State.setGate
    split <;> rfl
  have h2 : (s.recomputeGate slot).order? k = (s.setGate slot).order? k := by
    unfold State.recomputeGate
    split
    · exact congrArg (fun b : Book => look Order.slot k b.orders) (arbitrate_book _)
    · rfl
  rw [h2, h1]
  exact look_map (fun x => by
    dsimp only
    split
    · split <;> rfl
    · rfl) k s.book.orders

/-- The completion check acts on a BUILDING order alone. -/
theorem completionCheck_other {slot : Nat} (h : ∀ o, s.order? slot = some o → o.state ≠ .building) :
    s.completionCheck slot = s := by
  unfold State.completionCheck
  split
  · rfl
  case h_2 o ho => rw [if_neg]; exact fun hc => h o ho (orderComplete_building hc)

/-! ### One item and one bench through the shared operations -/

theorem mem_oldest {xs : List Item} {i : Item} (h : s.oldest xs = some i) : i ∈ xs := by
  have key : ∀ (ys : List Item) (best : Option Item), (∀ b, best = some b → b ∈ xs) → (∀ y ∈ ys, y ∈ xs) →
      ∀ j, ys.foldl (fun best i =>
        match best with
        | none => some i
        | some b => if s.entryAge b < s.entryAge i then some i else some b) best = some j → j ∈ xs := by
    intro ys
    induction ys with
    | nil => exact fun best hb _ j hj => hb j hj
    | cons y ys ih =>
      intro best hb hy j hj
      refine ih _ ?_ (fun z hz => hy z (by simp [hz])) j hj
      intro c hc
      cases best with
      | none => simp at hc; exact hc ▸ hy y (by simp)
      | some d =>
        simp only at hc
        split at hc
        · simp at hc; exact hc ▸ hy y (by simp)
        · simp at hc; exact hc ▸ hb d rfl
  exact key xs none (by simp) (fun y hy => hy) i h

theorem updItem_item_other {tag k : Nat} {f : Item → Item} (h : k ≠ tag)
    (hf : ∀ i, (f i).tag = i.tag := by exact fun _ => rfl) : (s.updItem tag f).item? k = s.item? k :=
  look_amend_other hf h _

theorem updItem_item_same {tag : Nat} {f : Item → Item} (hf : ∀ i, (f i).tag = i.tag := by exact fun _ => rfl) :
    (s.updItem tag f).item? tag = (s.item? tag).map f := look_amend_same hf _

/-- R119, R120: no Place goes to an item that no BUILDING or HELD order has. -/
theorem placeTimes_item {b n k : Nat} {i : Item} (hi : s.Inv) (h : s.item? k = some i)
    (hq : ∀ o, s.order? o.slot = some o → o.state = .building ∨ o.state = .held → i.allocatedTo o.slot = false) :
    (s.placeTimes b n).item? k = some i := by
  induction n generalizing s with
  | zero => exact h
  | succ n ih =>
    unfold State.placeTimes
    split
    case h_1 o hm ho hh =>
      split
      case isTrue hl =>
        split
        · exact h
        case h_2 j hj =>
          split
          · exact h
          case h_2 a ha =>
            have hne : k ≠ j.tag := by
              rintro rfl
              have hm2 := List.mem_filter.1 (mem_oldest hj)
              rw [item_of_mem hi hm2.1] at h
              obtain rfl := Option.some.inj h
              unfold State.placeOrder? at ho
              split at ho
              · cases ho
              case h_2 x hx =>
                split at ho
                case isFalse => cases ho
                case isTrue =>
                  split at ho
                  · cases ho
                  case h_2 p hp =>
                    split at ho
                    case isFalse => cases ho
                    case isTrue hs =>
                      obtain rfl := Option.some.inj ho
                      obtain ⟨k, hk, hp⟩ := Option.bind_eq_some_iff.1 hp
                      have hps := (look_some hp).2
                      rw [← hps] at hp
                      have := hq p hp (by simpa using hs)
                      simp [State.placeEligible, this] at hm2
            refine ih ((issuePlace_work b j a hh hl).inv hi) ?_ hq
            exact (look_amend_other (f := fun x : Item => { x with outstanding := .place s.clock.minute })
              (fun _ => rfl) hne s.items).trans h
      case isFalse => exact h
    case h_2 => exact h

theorem placeTry_item {b k : Nat} {i : Item} (hi : s.Inv) (h : s.item? k = some i)
    (hq : ∀ o, s.order? o.slot = some o → o.state = .building ∨ o.state = .held → i.allocatedTo o.slot = false) :
    (s.placeTry b).item? k = some i := placeTimes_item hi h hq

theorem placeTimes_book (b n : Nat) (s : State) : (s.placeTimes b n).book = s.book := by
  induction n generalizing s with
  | zero => rfl
  | succ n ih =>
    unfold State.placeTimes
    split
    · split
      · split
        · rfl
        · split
          · rfl
          · rw [ih]; rfl
      · rfl
    · rfl

theorem placeTry_book (b : Nat) (s : State) : (s.placeTry b).book = s.book := placeTimes_book b _ s

/-- What Place issue keeps of a bench. -/
def standing (x : Bench) : Nat × BenchState × Bool × Bool × Option Nat := (x.number, x.state, x.staffed, x.unpacked, x.orderSlot)

theorem updHamper_standing (b : Nat) (f : Hamper → Hamper) (s : State) :
    (s.updHamper b f).benches.map standing = s.benches.map standing :=
  amend_proj (g := standing) (f := fun x : Bench => { x with hamper := x.hamper.map f }) (fun _ => rfl) s.benches

theorem placeTimes_standing (b n : Nat) (s : State) : (s.placeTimes b n).benches.map standing = s.benches.map standing := by
  induction n generalizing s with
  | zero => rfl
  | succ n ih =>
    unfold State.placeTimes
    split
    · split
      · split
        · rfl
        case h_2 i hi =>
          split
          · rfl
          case h_2 a ha =>
            exact (ih _).trans (updHamper_standing b (fun h => { h with places := h.places ++ [⟨i.tag, false⟩] })
              ((s.send (.bench b) (.place i.tag a.zone a.slotNo)).updItem i.tag
                (fun x => { x with outstanding := .place s.clock.minute })))
      · rfl
    · rfl

theorem placeTry_standing (b : Nat) (s : State) : (s.placeTry b).benches.map standing = s.benches.map standing :=
  placeTimes_standing b _ s

theorem bench_standing {b : Nat} (h : t.benches.map standing = s.benches.map standing) :
    (t.bench? b).map standing = (s.bench? b).map standing := by
  have key : ∀ xs : List Bench, (look Bench.number b xs).map standing = (xs.map standing).find? (fun p => p.1 == b) := by
    intro xs
    induction xs with
    | nil => rfl
    | cons x xs ih =>
      simp only [look, List.map_cons, List.find?_cons] at ih ⊢
      have : (standing x).1 = x.number := rfl
      rw [this]
      split
      · rfl
      · exact ih
  simp only [State.bench?, key, h]

/-- R96: the arbitration leaves an item that no BUILDING order has as it is. -/
theorem arbitrateOnce_item {k : Nat} {i : Item} (hi : s.Inv) (h : s.item? k = some i)
    (hq : ∀ a o, i.alloc = some a → s.order? a.slot = some o → o.state ≠ .building) (ht : s.arbitrateOnce = some t) :
    t.item? k = some i := by
  obtain ⟨_, ⟨j, _, rfl⟩ | ⟨_, _, b, _, j, hj, rfl⟩⟩ := arbitrateOnce_cases ht
  · exact h
  · have hm := List.mem_filter.1 (mem_oldest hj)
    have hne : k ≠ j.tag := by
      rintro rfl
      rw [item_of_mem hi hm.1] at h
      obtain rfl := Option.some.inj h
      have h2 := hm.2
      simp only [State.stagedEligible, Bool.and_eq_true] at h2
      have h3 := h2.2
      split at h3
      · simp at h3
      case h_2 a ha =>
        simp only [Bool.and_eq_true] at h3
        have h4 := h3.2
        split at h4
        · simp at h4
        case h_2 o ho => exact hq a o ha ho (by simpa using h4)
    exact (look_amend_other (f := fun x : Item => { x with hold := .both b, location := .bufferToChute })
      (fun _ => rfl) hne s.items).trans h

theorem arbitrate_item {k : Nat} {i : Item} (hi : s.Inv) (h : s.item? k = some i)
    (hq : ∀ a o, i.alloc = some a → s.order? a.slot = some o → o.state ≠ .building) : s.arbitrate.item? k = some i := by
  unfold State.arbitrate
  split
  · exact h
  case h_2 s1 h1 =>
    have e1 := arbitrateOnce_item hi h hq h1
    split
    · exact e1
    case h_2 s2 h2 =>
      have hi1 := (arbitrateOnce_work h1).inv hi
      have hb : s1.book = s.book := (congrArg State.book (arbitrateOnce_frame h1) :)
      refine arbitrateOnce_item hi1 e1 (fun a o ha ho => hq a o ha ?_) h2
      simpa only [State.order?, hb] using ho

/-- A record sent stays among those sent since. -/
theorem sent_mono {n : Nat} {e : FieldUnit × OutRecord} (h : s.bus.sent <+: t.bus.sent) (he : e ∈ s.bus.sent.drop n) :
    e ∈ t.bus.sent.drop n := (h.drop n).subset he

/-- R127: what judging a stall does. -/
theorem judgeStall_cases (b : Nat) (s : State) : s.judgeStall b = s ∨
    s.judgeStall b = (s.updBench b (fun x => { x with stalled := false })).placeTry b := by
  unfold State.judgeStall
  split
  · exact .inl rfl
  · dsimp only
    split <;> split <;> first | exact .inr rfl | exact .inl rfl

theorem judgeStall_item {b k : Nat} {i : Item} (hi : s.Inv) (h : s.item? k = some i)
    (hq : ∀ o, s.order? o.slot = some o → o.state = .building ∨ o.state = .held → i.allocatedTo o.slot = false) :
    (s.judgeStall b).item? k = some i := by
  rcases judgeStall_cases b s with e | e <;> rw [e]
  · exact h
  · exact placeTry_item (s := s.updBench b (fun x => { x with stalled := false })) ((updBench_fields_work b s).inv hi) h hq

theorem judgeStall_book (b : Nat) (s : State) : (s.judgeStall b).book = s.book := by
  rcases judgeStall_cases b s with e | e <;> rw [e]
  exact placeTry_book _ _

theorem judgeStall_standing (b : Nat) (s : State) : (s.judgeStall b).benches.map standing = s.benches.map standing := by
  rcases judgeStall_cases b s with e | e <;> rw [e]
  exact (placeTry_standing _ _).trans
    (amend_proj (g := standing) (f := fun x : Bench => { x with stalled := false }) (fun _ => rfl) s.benches)

/-- R124: what a Return does: nothing where one is outstanding, else it is sent and is the item's instruction
outstanding; a Place it replaces leaves its list, and Place issue may follow. -/
theorem sendReturn_cases (b tag : Nat) (s : State) {i : Item} (h : s.item? tag = some i) :
    ((∃ m, i.outstanding = .ret m) ∧ s.sendReturn b tag = s) ∨
    ((∀ m, i.outstanding ≠ .ret m) ∧ ∃ u : State,
      (u = s ∨ u = s.dropPlace b tag) ∧
      let v := (u.send (.bench b) (.ret tag)).updItem tag (fun x => { x with outstanding := .ret s.clock.minute })
      s.sendReturn b tag = v ∨ s.sendReturn b tag = (v.judgeStall b).placeTry b) := by
  unfold State.sendReturn
  rw [h]
  dsimp only
  split
  case h_1 m hm => exact .inl ⟨⟨m, hm⟩, rfl⟩
  case h_2 m hm => exact .inr ⟨by simp [hm], _, .inr rfl, .inr rfl⟩
  case h_3 hm => exact .inr ⟨by simp [hm], _, .inl rfl, .inl rfl⟩
  case h_4 m hm => exact .inr ⟨by simp [hm], _, .inl rfl, .inl rfl⟩

theorem sendReturn_book (b tag : Nat) (s : State) : (s.sendReturn b tag).book = s.book := by
  rcases h : s.item? tag with _ | i
  · unfold State.sendReturn; rw [h]
  · obtain ⟨_, e⟩ | ⟨_, u, hu, e | e⟩ := sendReturn_cases b tag s h
    · rw [e]
    · rw [e]; rcases hu with rfl | rfl <;> rfl
    · rw [e, placeTry_book, judgeStall_book]; rcases hu with rfl | rfl <;> rfl

theorem sendReturn_standing (b tag : Nat) (s : State) : (s.sendReturn b tag).benches.map standing = s.benches.map standing := by
  rcases h : s.item? tag with _ | i
  · unfold State.sendReturn; rw [h]
  · obtain ⟨_, e⟩ | ⟨_, u, hu, e | e⟩ := sendReturn_cases b tag s h
    · rw [e]
    · rw [e]
      rcases hu with rfl | rfl
      · rfl
      · exact updHamper_standing b _ s
    · rw [e, placeTry_standing, judgeStall_standing]
      rcases hu with rfl | rfl
      · rfl
      · exact updHamper_standing b _ s

theorem sendReturn_item_other {b tag k : Nat} {i : Item} (hi : s.Inv) (hk : k ≠ tag) (h : s.item? k = some i)
    (hq : ∀ o, s.order? o.slot = some o → o.state = .building ∨ o.state = .held → i.allocatedTo o.slot = false) :
    (s.sendReturn b tag).item? k = some i := by
  rcases ht : s.item? tag with _ | j
  · unfold State.sendReturn; rw [ht]; exact h
  · have hv : ∀ u : State, (u = s ∨ u = s.dropPlace b tag) →
        ((u.send (.bench b) (.ret tag)).updItem tag (fun x => { x with outstanding := .ret s.clock.minute })).item? k =
          some i := fun u hu => by
      refine (updItem_item_other hk).trans ?_
      rcases hu with rfl | rfl <;> exact h
    have hw : ∀ u : State, (u = s ∨ u = s.dropPlace b tag) →
        Work s ((u.send (.bench b) (.ret tag)).updItem tag (fun x => { x with outstanding := .ret s.clock.minute })) :=
      fun u hu => Work.after (updItem_work tag _) <| Work.after (send_work _ _ _) <| by
        rcases hu with rfl | rfl
        · exact .refl _
        · exact dropPlace_work _ _ _
    have hb : ∀ u : State, (u = s ∨ u = s.dropPlace b tag) → u.book = s.book := fun u hu => by rcases hu with rfl | rfl <;> rfl
    obtain ⟨_, e⟩ | ⟨_, u, hu, e | e⟩ := sendReturn_cases b tag s ht
    · rw [e]; exact h
    · rw [e]; exact hv u hu
    · rw [e]
      have q2 : ∀ o, State.order? ((u.send (.bench b) (.ret tag)).updItem tag
          (fun x => { x with outstanding := .ret s.clock.minute })) o.slot = some o → o.state = .building ∨ o.state = .held →
          i.allocatedTo o.slot = false := fun o ho => hq o (by
        have : (look Order.slot o.slot u.book.orders) = some o := ho
        rw [hb u hu] at this
        exact this)
      refine placeTry_item ((judgeStall_work _ _).inv ((hw u hu).inv hi)) (judgeStall_item ((hw u hu).inv hi) (hv u hu) q2)
        fun o ho => q2 o ?_
      simp only [State.order?, judgeStall_book] at ho
      exact ho

/-- R124: the item of a Return that no BUILDING or HELD order has. -/
theorem sendReturn_item_same {b tag : Nat} {i : Item} (hi : s.Inv) (h : s.item? tag = some i)
    (hq : ∀ o, s.order? o.slot = some o → o.state = .building ∨ o.state = .held → i.allocatedTo o.slot = false) :
    ((∃ m, i.outstanding = .ret m) ∧ (s.sendReturn b tag).item? tag = some i) ∨
    ((∀ m, i.outstanding ≠ .ret m) ∧ (s.sendReturn b tag).item? tag = some { i with outstanding := .ret s.clock.minute } ∧
      (FieldUnit.bench b, OutRecord.ret tag) ∈ (s.sendReturn b tag).bus.sent.drop s.bus.sent.length) := by
  obtain ⟨hm, e⟩ | ⟨hm, u, hu, he⟩ := sendReturn_cases b tag s h
  · exact .inl ⟨hm, by rw [e]; exact h⟩
  · refine .inr ⟨hm, ?_⟩
    have hw : Work s ((u.send (.bench b) (.ret tag)).updItem tag (fun x => { x with outstanding := .ret s.clock.minute })) :=
      Work.after (updItem_work tag _) <| Work.after (send_work _ _ _) <| by
        rcases hu with rfl | rfl
        · exact .refl _
        · exact dropPlace_work _ _ _
    have hv : ((u.send (.bench b) (.ret tag)).updItem tag (fun x => { x with outstanding := .ret s.clock.minute })).item?
        tag = some { i with outstanding := .ret s.clock.minute } := by
      refine (updItem_item_same).trans ?_
      have : (u.send (.bench b) (.ret tag)).item? tag = some i := by rcases hu with rfl | rfl <;> exact h
      rw [this]
      rfl
    have hs : (FieldUnit.bench b, OutRecord.ret tag) ∈ ((u.send (.bench b) (.ret tag)).updItem tag
        (fun x => { x with outstanding := .ret s.clock.minute })).bus.sent.drop s.bus.sent.length := by
      have : ((u.send (.bench b) (.ret tag)).updItem tag (fun x => { x with outstanding := .ret s.clock.minute })).bus.sent =
          s.bus.sent ++ [(FieldUnit.bench b, OutRecord.ret tag)] := by rcases hu with rfl | rfl <;> rfl
      rw [this]
      simp
    rcases he with e | e
    · rw [e]; exact ⟨hv, hs⟩
    · rw [e]
      have hb : u.book = s.book := by rcases hu with rfl | rfl <;> rfl
      have q2 : ∀ o, State.order? ((u.send (.bench b) (.ret tag)).updItem tag
          (fun x => { x with outstanding := .ret s.clock.minute })) o.slot = some o → o.state = .building ∨ o.state = .held →
          ({ i with outstanding := .ret s.clock.minute } : Item).allocatedTo o.slot = false := fun o ho => hq o (by
        have : (look Order.slot o.slot u.book.orders) = some o := ho
        rw [hb] at this
        exact this)
      refine ⟨placeTry_item ((judgeStall_work _ _).inv (hw.inv hi)) (judgeStall_item (hw.inv hi) hv q2) fun o ho => q2 o ?_,
        sent_mono ((placeTry_work _ _).sent) (sent_mono ((judgeStall_work _ _).sent) hs)⟩
      simp only [State.order?, judgeStall_book] at ho
      exact ho

end Sys2Proof.Machine
end

