-- ==== Sys2Proof/Laws/State.lean ====
section
/-! SUPPORT. The fields of State after each named update: one lemma per field, true by definition. -/

set_option Elab.async false

namespace Sys2Proof.Machine.State

open Sys2Proof Sys2Proof.Machine

variable (s : State)


/-! ### updItem -/

@[simp] theorem updItem_clock (tag : Nat) (f : Item → Item) : (s.updItem tag f).clock = s.clock := rfl
@[simp] theorem updItem_waves (tag : Nat) (f : Item → Item) : (s.updItem tag f).waves = s.waves := rfl
@[simp] theorem updItem_book (tag : Nat) (f : Item → Item) : (s.updItem tag f).book = s.book := rfl
@[simp] theorem updItem_items (tag : Nat) (f : Item → Item) : (s.updItem tag f).items = amend Item.tag tag f s.items := rfl
@[simp] theorem updItem_entryCounter (tag : Nat) (f : Item → Item) : (s.updItem tag f).entryCounter = s.entryCounter := rfl
@[simp] theorem updItem_lanes (tag : Nat) (f : Item → Item) : (s.updItem tag f).lanes = s.lanes := rfl
@[simp] theorem updItem_admission (tag : Nat) (f : Item → Item) : (s.updItem tag f).admission = s.admission := rfl
@[simp] theorem updItem_loop (tag : Nat) (f : Item → Item) : (s.updItem tag f).loop = s.loop := rfl
@[simp] theorem updItem_rushFloor (tag : Nat) (f : Item → Item) : (s.updItem tag f).rushFloor = s.rushFloor := rfl
@[simp] theorem updItem_chutes (tag : Nat) (f : Item → Item) : (s.updItem tag f).chutes = s.chutes := rfl
@[simp] theorem updItem_pool (tag : Nat) (f : Item → Item) : (s.updItem tag f).pool = s.pool := rfl
@[simp] theorem updItem_arbiter (tag : Nat) (f : Item → Item) : (s.updItem tag f).arbiter = s.arbiter := rfl
@[simp] theorem updItem_benches (tag : Nat) (f : Item → Item) : (s.updItem tag f).benches = s.benches := rfl
@[simp] theorem updItem_templates (tag : Nat) (f : Item → Item) : (s.updItem tag f).templates = s.templates := rfl
@[simp] theorem updItem_timers (tag : Nat) (f : Item → Item) : (s.updItem tag f).timers = s.timers := rfl
@[simp] theorem updItem_groups (tag : Nat) (f : Item → Item) : (s.updItem tag f).groups = s.groups := rfl
@[simp] theorem updItem_dispatch (tag : Nat) (f : Item → Item) : (s.updItem tag f).dispatch = s.dispatch := rfl
@[simp] theorem updItem_lateLane (tag : Nat) (f : Item → Item) : (s.updItem tag f).lateLane = s.lateLane := rfl
@[simp] theorem updItem_faults (tag : Nat) (f : Item → Item) : (s.updItem tag f).faults = s.faults := rfl
@[simp] theorem updItem_cell (tag : Nat) (f : Item → Item) : (s.updItem tag f).cell = s.cell := rfl
@[simp] theorem updItem_notices (tag : Nat) (f : Item → Item) : (s.updItem tag f).notices = s.notices := rfl
@[simp] theorem updItem_link (tag : Nat) (f : Item → Item) : (s.updItem tag f).link = s.link := rfl
@[simp] theorem updItem_bus (tag : Nat) (f : Item → Item) : (s.updItem tag f).bus = s.bus := rfl
@[simp] theorem updItem_freeCount (tag : Nat) (f : Item → Item) : (s.updItem tag f).freeCount = s.freeCount := rfl
@[simp] theorem updItem_pending (tag : Nat) (f : Item → Item) : (s.updItem tag f).pending = s.pending := rfl

/-! ### updOrder -/

@[simp] theorem updOrder_clock (slot : Nat) (f : Order → Order) : (s.updOrder slot f).clock = s.clock := rfl
@[simp] theorem updOrder_waves (slot : Nat) (f : Order → Order) : (s.updOrder slot f).waves = s.waves := rfl
@[simp] theorem updOrder_book (slot : Nat) (f : Order → Order) : (s.updOrder slot f).book = { s.book with orders := amend Order.slot slot f s.book.orders } := rfl
@[simp] theorem updOrder_items (slot : Nat) (f : Order → Order) : (s.updOrder slot f).items = s.items := rfl
@[simp] theorem updOrder_entryCounter (slot : Nat) (f : Order → Order) : (s.updOrder slot f).entryCounter = s.entryCounter := rfl
@[simp] theorem updOrder_lanes (slot : Nat) (f : Order → Order) : (s.updOrder slot f).lanes = s.lanes := rfl
@[simp] theorem updOrder_admission (slot : Nat) (f : Order → Order) : (s.updOrder slot f).admission = s.admission := rfl
@[simp] theorem updOrder_loop (slot : Nat) (f : Order → Order) : (s.updOrder slot f).loop = s.loop := rfl
@[simp] theorem updOrder_rushFloor (slot : Nat) (f : Order → Order) : (s.updOrder slot f).rushFloor = s.rushFloor := rfl
@[simp] theorem updOrder_chutes (slot : Nat) (f : Order → Order) : (s.updOrder slot f).chutes = s.chutes := rfl
@[simp] theorem updOrder_pool (slot : Nat) (f : Order → Order) : (s.updOrder slot f).pool = s.pool := rfl
@[simp] theorem updOrder_arbiter (slot : Nat) (f : Order → Order) : (s.updOrder slot f).arbiter = s.arbiter := rfl
@[simp] theorem updOrder_benches (slot : Nat) (f : Order → Order) : (s.updOrder slot f).benches = s.benches := rfl
@[simp] theorem updOrder_templates (slot : Nat) (f : Order → Order) : (s.updOrder slot f).templates = s.templates := rfl
@[simp] theorem updOrder_timers (slot : Nat) (f : Order → Order) : (s.updOrder slot f).timers = s.timers := rfl
@[simp] theorem updOrder_groups (slot : Nat) (f : Order → Order) : (s.updOrder slot f).groups = s.groups := rfl
@[simp] theorem updOrder_dispatch (slot : Nat) (f : Order → Order) : (s.updOrder slot f).dispatch = s.dispatch := rfl
@[simp] theorem updOrder_lateLane (slot : Nat) (f : Order → Order) : (s.updOrder slot f).lateLane = s.lateLane := rfl
@[simp] theorem updOrder_faults (slot : Nat) (f : Order → Order) : (s.updOrder slot f).faults = s.faults := rfl
@[simp] theorem updOrder_cell (slot : Nat) (f : Order → Order) : (s.updOrder slot f).cell = s.cell := rfl
@[simp] theorem updOrder_notices (slot : Nat) (f : Order → Order) : (s.updOrder slot f).notices = s.notices := rfl
@[simp] theorem updOrder_link (slot : Nat) (f : Order → Order) : (s.updOrder slot f).link = s.link := rfl
@[simp] theorem updOrder_bus (slot : Nat) (f : Order → Order) : (s.updOrder slot f).bus = s.bus := rfl
@[simp] theorem updOrder_freeCount (slot : Nat) (f : Order → Order) : (s.updOrder slot f).freeCount = s.freeCount := rfl
@[simp] theorem updOrder_pending (slot : Nat) (f : Order → Order) : (s.updOrder slot f).pending = s.pending := rfl

/-! ### updBench -/

@[simp] theorem updBench_clock (b : Nat) (f : Bench → Bench) : (s.updBench b f).clock = s.clock := rfl
@[simp] theorem updBench_waves (b : Nat) (f : Bench → Bench) : (s.updBench b f).waves = s.waves := rfl
@[simp] theorem updBench_book (b : Nat) (f : Bench → Bench) : (s.updBench b f).book = s.book := rfl
@[simp] theorem updBench_items (b : Nat) (f : Bench → Bench) : (s.updBench b f).items = s.items := rfl
@[simp] theorem updBench_entryCounter (b : Nat) (f : Bench → Bench) : (s.updBench b f).entryCounter = s.entryCounter := rfl
@[simp] theorem updBench_lanes (b : Nat) (f : Bench → Bench) : (s.updBench b f).lanes = s.lanes := rfl
@[simp] theorem updBench_admission (b : Nat) (f : Bench → Bench) : (s.updBench b f).admission = s.admission := rfl
@[simp] theorem updBench_loop (b : Nat) (f : Bench → Bench) : (s.updBench b f).loop = s.loop := rfl
@[simp] theorem updBench_rushFloor (b : Nat) (f : Bench → Bench) : (s.updBench b f).rushFloor = s.rushFloor := rfl
@[simp] theorem updBench_chutes (b : Nat) (f : Bench → Bench) : (s.updBench b f).chutes = s.chutes := rfl
@[simp] theorem updBench_pool (b : Nat) (f : Bench → Bench) : (s.updBench b f).pool = s.pool := rfl
@[simp] theorem updBench_arbiter (b : Nat) (f : Bench → Bench) : (s.updBench b f).arbiter = s.arbiter := rfl
@[simp] theorem updBench_benches (b : Nat) (f : Bench → Bench) : (s.updBench b f).benches = amend Bench.number b f s.benches := rfl
@[simp] theorem updBench_templates (b : Nat) (f : Bench → Bench) : (s.updBench b f).templates = s.templates := rfl
@[simp] theorem updBench_timers (b : Nat) (f : Bench → Bench) : (s.updBench b f).timers = s.timers := rfl
@[simp] theorem updBench_groups (b : Nat) (f : Bench → Bench) : (s.updBench b f).groups = s.groups := rfl
@[simp] theorem updBench_dispatch (b : Nat) (f : Bench → Bench) : (s.updBench b f).dispatch = s.dispatch := rfl
@[simp] theorem updBench_lateLane (b : Nat) (f : Bench → Bench) : (s.updBench b f).lateLane = s.lateLane := rfl
@[simp] theorem updBench_faults (b : Nat) (f : Bench → Bench) : (s.updBench b f).faults = s.faults := rfl
@[simp] theorem updBench_cell (b : Nat) (f : Bench → Bench) : (s.updBench b f).cell = s.cell := rfl
@[simp] theorem updBench_notices (b : Nat) (f : Bench → Bench) : (s.updBench b f).notices = s.notices := rfl
@[simp] theorem updBench_link (b : Nat) (f : Bench → Bench) : (s.updBench b f).link = s.link := rfl
@[simp] theorem updBench_bus (b : Nat) (f : Bench → Bench) : (s.updBench b f).bus = s.bus := rfl
@[simp] theorem updBench_freeCount (b : Nat) (f : Bench → Bench) : (s.updBench b f).freeCount = s.freeCount := rfl
@[simp] theorem updBench_pending (b : Nat) (f : Bench → Bench) : (s.updBench b f).pending = s.pending := rfl

/-! ### updChute -/

@[simp] theorem updChute_clock (b : Nat) (f : Chute → Chute) : (s.updChute b f).clock = s.clock := rfl
@[simp] theorem updChute_waves (b : Nat) (f : Chute → Chute) : (s.updChute b f).waves = s.waves := rfl
@[simp] theorem updChute_book (b : Nat) (f : Chute → Chute) : (s.updChute b f).book = s.book := rfl
@[simp] theorem updChute_items (b : Nat) (f : Chute → Chute) : (s.updChute b f).items = s.items := rfl
@[simp] theorem updChute_entryCounter (b : Nat) (f : Chute → Chute) : (s.updChute b f).entryCounter = s.entryCounter := rfl
@[simp] theorem updChute_lanes (b : Nat) (f : Chute → Chute) : (s.updChute b f).lanes = s.lanes := rfl
@[simp] theorem updChute_admission (b : Nat) (f : Chute → Chute) : (s.updChute b f).admission = s.admission := rfl
@[simp] theorem updChute_loop (b : Nat) (f : Chute → Chute) : (s.updChute b f).loop = s.loop := rfl
@[simp] theorem updChute_rushFloor (b : Nat) (f : Chute → Chute) : (s.updChute b f).rushFloor = s.rushFloor := rfl
@[simp] theorem updChute_chutes (b : Nat) (f : Chute → Chute) : (s.updChute b f).chutes = amend Chute.bench b f s.chutes := rfl
@[simp] theorem updChute_pool (b : Nat) (f : Chute → Chute) : (s.updChute b f).pool = s.pool := rfl
@[simp] theorem updChute_arbiter (b : Nat) (f : Chute → Chute) : (s.updChute b f).arbiter = s.arbiter := rfl
@[simp] theorem updChute_benches (b : Nat) (f : Chute → Chute) : (s.updChute b f).benches = s.benches := rfl
@[simp] theorem updChute_templates (b : Nat) (f : Chute → Chute) : (s.updChute b f).templates = s.templates := rfl
@[simp] theorem updChute_timers (b : Nat) (f : Chute → Chute) : (s.updChute b f).timers = s.timers := rfl
@[simp] theorem updChute_groups (b : Nat) (f : Chute → Chute) : (s.updChute b f).groups = s.groups := rfl
@[simp] theorem updChute_dispatch (b : Nat) (f : Chute → Chute) : (s.updChute b f).dispatch = s.dispatch := rfl
@[simp] theorem updChute_lateLane (b : Nat) (f : Chute → Chute) : (s.updChute b f).lateLane = s.lateLane := rfl
@[simp] theorem updChute_faults (b : Nat) (f : Chute → Chute) : (s.updChute b f).faults = s.faults := rfl
@[simp] theorem updChute_cell (b : Nat) (f : Chute → Chute) : (s.updChute b f).cell = s.cell := rfl
@[simp] theorem updChute_notices (b : Nat) (f : Chute → Chute) : (s.updChute b f).notices = s.notices := rfl
@[simp] theorem updChute_link (b : Nat) (f : Chute → Chute) : (s.updChute b f).link = s.link := rfl
@[simp] theorem updChute_bus (b : Nat) (f : Chute → Chute) : (s.updChute b f).bus = s.bus := rfl
@[simp] theorem updChute_freeCount (b : Nat) (f : Chute → Chute) : (s.updChute b f).freeCount = s.freeCount := rfl
@[simp] theorem updChute_pending (b : Nat) (f : Chute → Chute) : (s.updChute b f).pending = s.pending := rfl

/-! ### updLane -/

@[simp] theorem updLane_clock (n : Nat) (f : Lane → Lane) : (s.updLane n f).clock = s.clock := rfl
@[simp] theorem updLane_waves (n : Nat) (f : Lane → Lane) : (s.updLane n f).waves = s.waves := rfl
@[simp] theorem updLane_book (n : Nat) (f : Lane → Lane) : (s.updLane n f).book = s.book := rfl
@[simp] theorem updLane_items (n : Nat) (f : Lane → Lane) : (s.updLane n f).items = s.items := rfl
@[simp] theorem updLane_entryCounter (n : Nat) (f : Lane → Lane) : (s.updLane n f).entryCounter = s.entryCounter := rfl
@[simp] theorem updLane_lanes (n : Nat) (f : Lane → Lane) : (s.updLane n f).lanes = amend Lane.number n f s.lanes := rfl
@[simp] theorem updLane_admission (n : Nat) (f : Lane → Lane) : (s.updLane n f).admission = s.admission := rfl
@[simp] theorem updLane_loop (n : Nat) (f : Lane → Lane) : (s.updLane n f).loop = s.loop := rfl
@[simp] theorem updLane_rushFloor (n : Nat) (f : Lane → Lane) : (s.updLane n f).rushFloor = s.rushFloor := rfl
@[simp] theorem updLane_chutes (n : Nat) (f : Lane → Lane) : (s.updLane n f).chutes = s.chutes := rfl
@[simp] theorem updLane_pool (n : Nat) (f : Lane → Lane) : (s.updLane n f).pool = s.pool := rfl
@[simp] theorem updLane_arbiter (n : Nat) (f : Lane → Lane) : (s.updLane n f).arbiter = s.arbiter := rfl
@[simp] theorem updLane_benches (n : Nat) (f : Lane → Lane) : (s.updLane n f).benches = s.benches := rfl
@[simp] theorem updLane_templates (n : Nat) (f : Lane → Lane) : (s.updLane n f).templates = s.templates := rfl
@[simp] theorem updLane_timers (n : Nat) (f : Lane → Lane) : (s.updLane n f).timers = s.timers := rfl
@[simp] theorem updLane_groups (n : Nat) (f : Lane → Lane) : (s.updLane n f).groups = s.groups := rfl
@[simp] theorem updLane_dispatch (n : Nat) (f : Lane → Lane) : (s.updLane n f).dispatch = s.dispatch := rfl
@[simp] theorem updLane_lateLane (n : Nat) (f : Lane → Lane) : (s.updLane n f).lateLane = s.lateLane := rfl
@[simp] theorem updLane_faults (n : Nat) (f : Lane → Lane) : (s.updLane n f).faults = s.faults := rfl
@[simp] theorem updLane_cell (n : Nat) (f : Lane → Lane) : (s.updLane n f).cell = s.cell := rfl
@[simp] theorem updLane_notices (n : Nat) (f : Lane → Lane) : (s.updLane n f).notices = s.notices := rfl
@[simp] theorem updLane_link (n : Nat) (f : Lane → Lane) : (s.updLane n f).link = s.link := rfl
@[simp] theorem updLane_bus (n : Nat) (f : Lane → Lane) : (s.updLane n f).bus = s.bus := rfl
@[simp] theorem updLane_freeCount (n : Nat) (f : Lane → Lane) : (s.updLane n f).freeCount = s.freeCount := rfl
@[simp] theorem updLane_pending (n : Nat) (f : Lane → Lane) : (s.updLane n f).pending = s.pending := rfl

/-! ### updWave -/

@[simp] theorem updWave_clock (n : Nat) (f : Wave → Wave) : (s.updWave n f).clock = s.clock := rfl
@[simp] theorem updWave_waves (n : Nat) (f : Wave → Wave) : (s.updWave n f).waves = amend Wave.number n f s.waves := rfl
@[simp] theorem updWave_book (n : Nat) (f : Wave → Wave) : (s.updWave n f).book = s.book := rfl
@[simp] theorem updWave_items (n : Nat) (f : Wave → Wave) : (s.updWave n f).items = s.items := rfl
@[simp] theorem updWave_entryCounter (n : Nat) (f : Wave → Wave) : (s.updWave n f).entryCounter = s.entryCounter := rfl
@[simp] theorem updWave_lanes (n : Nat) (f : Wave → Wave) : (s.updWave n f).lanes = s.lanes := rfl
@[simp] theorem updWave_admission (n : Nat) (f : Wave → Wave) : (s.updWave n f).admission = s.admission := rfl
@[simp] theorem updWave_loop (n : Nat) (f : Wave → Wave) : (s.updWave n f).loop = s.loop := rfl
@[simp] theorem updWave_rushFloor (n : Nat) (f : Wave → Wave) : (s.updWave n f).rushFloor = s.rushFloor := rfl
@[simp] theorem updWave_chutes (n : Nat) (f : Wave → Wave) : (s.updWave n f).chutes = s.chutes := rfl
@[simp] theorem updWave_pool (n : Nat) (f : Wave → Wave) : (s.updWave n f).pool = s.pool := rfl
@[simp] theorem updWave_arbiter (n : Nat) (f : Wave → Wave) : (s.updWave n f).arbiter = s.arbiter := rfl
@[simp] theorem updWave_benches (n : Nat) (f : Wave → Wave) : (s.updWave n f).benches = s.benches := rfl
@[simp] theorem updWave_templates (n : Nat) (f : Wave → Wave) : (s.updWave n f).templates = s.templates := rfl
@[simp] theorem updWave_timers (n : Nat) (f : Wave → Wave) : (s.updWave n f).timers = s.timers := rfl
@[simp] theorem updWave_groups (n : Nat) (f : Wave → Wave) : (s.updWave n f).groups = s.groups := rfl
@[simp] theorem updWave_dispatch (n : Nat) (f : Wave → Wave) : (s.updWave n f).dispatch = s.dispatch := rfl
@[simp] theorem updWave_lateLane (n : Nat) (f : Wave → Wave) : (s.updWave n f).lateLane = s.lateLane := rfl
@[simp] theorem updWave_faults (n : Nat) (f : Wave → Wave) : (s.updWave n f).faults = s.faults := rfl
@[simp] theorem updWave_cell (n : Nat) (f : Wave → Wave) : (s.updWave n f).cell = s.cell := rfl
@[simp] theorem updWave_notices (n : Nat) (f : Wave → Wave) : (s.updWave n f).notices = s.notices := rfl
@[simp] theorem updWave_link (n : Nat) (f : Wave → Wave) : (s.updWave n f).link = s.link := rfl
@[simp] theorem updWave_bus (n : Nat) (f : Wave → Wave) : (s.updWave n f).bus = s.bus := rfl
@[simp] theorem updWave_freeCount (n : Nat) (f : Wave → Wave) : (s.updWave n f).freeCount = s.freeCount := rfl
@[simp] theorem updWave_pending (n : Nat) (f : Wave → Wave) : (s.updWave n f).pending = s.pending := rfl

/-! ### updDispatch -/

@[simp] theorem updDispatch_clock (n : Nat) (f : DispatchLane → DispatchLane) : (s.updDispatch n f).clock = s.clock := rfl
@[simp] theorem updDispatch_waves (n : Nat) (f : DispatchLane → DispatchLane) : (s.updDispatch n f).waves = s.waves := rfl
@[simp] theorem updDispatch_book (n : Nat) (f : DispatchLane → DispatchLane) : (s.updDispatch n f).book = s.book := rfl
@[simp] theorem updDispatch_items (n : Nat) (f : DispatchLane → DispatchLane) : (s.updDispatch n f).items = s.items := rfl
@[simp] theorem updDispatch_entryCounter (n : Nat) (f : DispatchLane → DispatchLane) : (s.updDispatch n f).entryCounter = s.entryCounter := rfl
@[simp] theorem updDispatch_lanes (n : Nat) (f : DispatchLane → DispatchLane) : (s.updDispatch n f).lanes = s.lanes := rfl
@[simp] theorem updDispatch_admission (n : Nat) (f : DispatchLane → DispatchLane) : (s.updDispatch n f).admission = s.admission := rfl
@[simp] theorem updDispatch_loop (n : Nat) (f : DispatchLane → DispatchLane) : (s.updDispatch n f).loop = s.loop := rfl
@[simp] theorem updDispatch_rushFloor (n : Nat) (f : DispatchLane → DispatchLane) : (s.updDispatch n f).rushFloor = s.rushFloor := rfl
@[simp] theorem updDispatch_chutes (n : Nat) (f : DispatchLane → DispatchLane) : (s.updDispatch n f).chutes = s.chutes := rfl
@[simp] theorem updDispatch_pool (n : Nat) (f : DispatchLane → DispatchLane) : (s.updDispatch n f).pool = s.pool := rfl
@[simp] theorem updDispatch_arbiter (n : Nat) (f : DispatchLane → DispatchLane) : (s.updDispatch n f).arbiter = s.arbiter := rfl
@[simp] theorem updDispatch_benches (n : Nat) (f : DispatchLane → DispatchLane) : (s.updDispatch n f).benches = s.benches := rfl
@[simp] theorem updDispatch_templates (n : Nat) (f : DispatchLane → DispatchLane) : (s.updDispatch n f).templates = s.templates := rfl
@[simp] theorem updDispatch_timers (n : Nat) (f : DispatchLane → DispatchLane) : (s.updDispatch n f).timers = s.timers := rfl
@[simp] theorem updDispatch_groups (n : Nat) (f : DispatchLane → DispatchLane) : (s.updDispatch n f).groups = s.groups := rfl
@[simp] theorem updDispatch_dispatch (n : Nat) (f : DispatchLane → DispatchLane) : (s.updDispatch n f).dispatch = amend DispatchLane.number n f s.dispatch := rfl
@[simp] theorem updDispatch_lateLane (n : Nat) (f : DispatchLane → DispatchLane) : (s.updDispatch n f).lateLane = s.lateLane := rfl
@[simp] theorem updDispatch_faults (n : Nat) (f : DispatchLane → DispatchLane) : (s.updDispatch n f).faults = s.faults := rfl
@[simp] theorem updDispatch_cell (n : Nat) (f : DispatchLane → DispatchLane) : (s.updDispatch n f).cell = s.cell := rfl
@[simp] theorem updDispatch_notices (n : Nat) (f : DispatchLane → DispatchLane) : (s.updDispatch n f).notices = s.notices := rfl
@[simp] theorem updDispatch_link (n : Nat) (f : DispatchLane → DispatchLane) : (s.updDispatch n f).link = s.link := rfl
@[simp] theorem updDispatch_bus (n : Nat) (f : DispatchLane → DispatchLane) : (s.updDispatch n f).bus = s.bus := rfl
@[simp] theorem updDispatch_freeCount (n : Nat) (f : DispatchLane → DispatchLane) : (s.updDispatch n f).freeCount = s.freeCount := rfl
@[simp] theorem updDispatch_pending (n : Nat) (f : DispatchLane → DispatchLane) : (s.updDispatch n f).pending = s.pending := rfl

/-! ### updHamper -/

@[simp] theorem updHamper_clock (b : Nat) (f : Hamper → Hamper) : (s.updHamper b f).clock = s.clock := rfl
@[simp] theorem updHamper_waves (b : Nat) (f : Hamper → Hamper) : (s.updHamper b f).waves = s.waves := rfl
@[simp] theorem updHamper_book (b : Nat) (f : Hamper → Hamper) : (s.updHamper b f).book = s.book := rfl
@[simp] theorem updHamper_items (b : Nat) (f : Hamper → Hamper) : (s.updHamper b f).items = s.items := rfl
@[simp] theorem updHamper_entryCounter (b : Nat) (f : Hamper → Hamper) : (s.updHamper b f).entryCounter = s.entryCounter := rfl
@[simp] theorem updHamper_lanes (b : Nat) (f : Hamper → Hamper) : (s.updHamper b f).lanes = s.lanes := rfl
@[simp] theorem updHamper_admission (b : Nat) (f : Hamper → Hamper) : (s.updHamper b f).admission = s.admission := rfl
@[simp] theorem updHamper_loop (b : Nat) (f : Hamper → Hamper) : (s.updHamper b f).loop = s.loop := rfl
@[simp] theorem updHamper_rushFloor (b : Nat) (f : Hamper → Hamper) : (s.updHamper b f).rushFloor = s.rushFloor := rfl
@[simp] theorem updHamper_chutes (b : Nat) (f : Hamper → Hamper) : (s.updHamper b f).chutes = s.chutes := rfl
@[simp] theorem updHamper_pool (b : Nat) (f : Hamper → Hamper) : (s.updHamper b f).pool = s.pool := rfl
@[simp] theorem updHamper_arbiter (b : Nat) (f : Hamper → Hamper) : (s.updHamper b f).arbiter = s.arbiter := rfl
@[simp] theorem updHamper_benches (b : Nat) (f : Hamper → Hamper) : (s.updHamper b f).benches = amend Bench.number b (fun x => { x with hamper := x.hamper.map f }) s.benches := rfl
@[simp] theorem updHamper_templates (b : Nat) (f : Hamper → Hamper) : (s.updHamper b f).templates = s.templates := rfl
@[simp] theorem updHamper_timers (b : Nat) (f : Hamper → Hamper) : (s.updHamper b f).timers = s.timers := rfl
@[simp] theorem updHamper_groups (b : Nat) (f : Hamper → Hamper) : (s.updHamper b f).groups = s.groups := rfl
@[simp] theorem updHamper_dispatch (b : Nat) (f : Hamper → Hamper) : (s.updHamper b f).dispatch = s.dispatch := rfl
@[simp] theorem updHamper_lateLane (b : Nat) (f : Hamper → Hamper) : (s.updHamper b f).lateLane = s.lateLane := rfl
@[simp] theorem updHamper_faults (b : Nat) (f : Hamper → Hamper) : (s.updHamper b f).faults = s.faults := rfl
@[simp] theorem updHamper_cell (b : Nat) (f : Hamper → Hamper) : (s.updHamper b f).cell = s.cell := rfl
@[simp] theorem updHamper_notices (b : Nat) (f : Hamper → Hamper) : (s.updHamper b f).notices = s.notices := rfl
@[simp] theorem updHamper_link (b : Nat) (f : Hamper → Hamper) : (s.updHamper b f).link = s.link := rfl
@[simp] theorem updHamper_bus (b : Nat) (f : Hamper → Hamper) : (s.updHamper b f).bus = s.bus := rfl
@[simp] theorem updHamper_freeCount (b : Nat) (f : Hamper → Hamper) : (s.updHamper b f).freeCount = s.freeCount := rfl
@[simp] theorem updHamper_pending (b : Nat) (f : Hamper → Hamper) : (s.updHamper b f).pending = s.pending := rfl

/-! ### updLine -/

@[simp] theorem updLine_clock (slot n : Nat) (f : Line → Line) : (s.updLine slot n f).clock = s.clock := rfl
@[simp] theorem updLine_waves (slot n : Nat) (f : Line → Line) : (s.updLine slot n f).waves = s.waves := rfl
@[simp] theorem updLine_book (slot n : Nat) (f : Line → Line) : (s.updLine slot n f).book = { s.book with orders := amend Order.slot slot (fun o => { o with lines := o.lines.modify (n - 1) f }) s.book.orders } := rfl
@[simp] theorem updLine_items (slot n : Nat) (f : Line → Line) : (s.updLine slot n f).items = s.items := rfl
@[simp] theorem updLine_entryCounter (slot n : Nat) (f : Line → Line) : (s.updLine slot n f).entryCounter = s.entryCounter := rfl
@[simp] theorem updLine_lanes (slot n : Nat) (f : Line → Line) : (s.updLine slot n f).lanes = s.lanes := rfl
@[simp] theorem updLine_admission (slot n : Nat) (f : Line → Line) : (s.updLine slot n f).admission = s.admission := rfl
@[simp] theorem updLine_loop (slot n : Nat) (f : Line → Line) : (s.updLine slot n f).loop = s.loop := rfl
@[simp] theorem updLine_rushFloor (slot n : Nat) (f : Line → Line) : (s.updLine slot n f).rushFloor = s.rushFloor := rfl
@[simp] theorem updLine_chutes (slot n : Nat) (f : Line → Line) : (s.updLine slot n f).chutes = s.chutes := rfl
@[simp] theorem updLine_pool (slot n : Nat) (f : Line → Line) : (s.updLine slot n f).pool = s.pool := rfl
@[simp] theorem updLine_arbiter (slot n : Nat) (f : Line → Line) : (s.updLine slot n f).arbiter = s.arbiter := rfl
@[simp] theorem updLine_benches (slot n : Nat) (f : Line → Line) : (s.updLine slot n f).benches = s.benches := rfl
@[simp] theorem updLine_templates (slot n : Nat) (f : Line → Line) : (s.updLine slot n f).templates = s.templates := rfl
@[simp] theorem updLine_timers (slot n : Nat) (f : Line → Line) : (s.updLine slot n f).timers = s.timers := rfl
@[simp] theorem updLine_groups (slot n : Nat) (f : Line → Line) : (s.updLine slot n f).groups = s.groups := rfl
@[simp] theorem updLine_dispatch (slot n : Nat) (f : Line → Line) : (s.updLine slot n f).dispatch = s.dispatch := rfl
@[simp] theorem updLine_lateLane (slot n : Nat) (f : Line → Line) : (s.updLine slot n f).lateLane = s.lateLane := rfl
@[simp] theorem updLine_faults (slot n : Nat) (f : Line → Line) : (s.updLine slot n f).faults = s.faults := rfl
@[simp] theorem updLine_cell (slot n : Nat) (f : Line → Line) : (s.updLine slot n f).cell = s.cell := rfl
@[simp] theorem updLine_notices (slot n : Nat) (f : Line → Line) : (s.updLine slot n f).notices = s.notices := rfl
@[simp] theorem updLine_link (slot n : Nat) (f : Line → Line) : (s.updLine slot n f).link = s.link := rfl
@[simp] theorem updLine_bus (slot n : Nat) (f : Line → Line) : (s.updLine slot n f).bus = s.bus := rfl
@[simp] theorem updLine_freeCount (slot n : Nat) (f : Line → Line) : (s.updLine slot n f).freeCount = s.freeCount := rfl
@[simp] theorem updLine_pending (slot n : Nat) (f : Line → Line) : (s.updLine slot n f).pending = s.pending := rfl

/-! ### send -/

@[simp] theorem send_clock (u : FieldUnit) (r : OutRecord) : (s.send u r).clock = s.clock := rfl
@[simp] theorem send_waves (u : FieldUnit) (r : OutRecord) : (s.send u r).waves = s.waves := rfl
@[simp] theorem send_book (u : FieldUnit) (r : OutRecord) : (s.send u r).book = s.book := rfl
@[simp] theorem send_items (u : FieldUnit) (r : OutRecord) : (s.send u r).items = s.items := rfl
@[simp] theorem send_entryCounter (u : FieldUnit) (r : OutRecord) : (s.send u r).entryCounter = s.entryCounter := rfl
@[simp] theorem send_lanes (u : FieldUnit) (r : OutRecord) : (s.send u r).lanes = s.lanes := rfl
@[simp] theorem send_admission (u : FieldUnit) (r : OutRecord) : (s.send u r).admission = s.admission := rfl
@[simp] theorem send_loop (u : FieldUnit) (r : OutRecord) : (s.send u r).loop = s.loop := rfl
@[simp] theorem send_rushFloor (u : FieldUnit) (r : OutRecord) : (s.send u r).rushFloor = s.rushFloor := rfl
@[simp] theorem send_chutes (u : FieldUnit) (r : OutRecord) : (s.send u r).chutes = s.chutes := rfl
@[simp] theorem send_pool (u : FieldUnit) (r : OutRecord) : (s.send u r).pool = s.pool := rfl
@[simp] theorem send_arbiter (u : FieldUnit) (r : OutRecord) : (s.send u r).arbiter = s.arbiter := rfl
@[simp] theorem send_benches (u : FieldUnit) (r : OutRecord) : (s.send u r).benches = s.benches := rfl
@[simp] theorem send_templates (u : FieldUnit) (r : OutRecord) : (s.send u r).templates = s.templates := rfl
@[simp] theorem send_timers (u : FieldUnit) (r : OutRecord) : (s.send u r).timers = s.timers := rfl
@[simp] theorem send_groups (u : FieldUnit) (r : OutRecord) : (s.send u r).groups = s.groups := rfl
@[simp] theorem send_dispatch (u : FieldUnit) (r : OutRecord) : (s.send u r).dispatch = s.dispatch := rfl
@[simp] theorem send_lateLane (u : FieldUnit) (r : OutRecord) : (s.send u r).lateLane = s.lateLane := rfl
@[simp] theorem send_faults (u : FieldUnit) (r : OutRecord) : (s.send u r).faults = s.faults := rfl
@[simp] theorem send_cell (u : FieldUnit) (r : OutRecord) : (s.send u r).cell = s.cell := rfl
@[simp] theorem send_notices (u : FieldUnit) (r : OutRecord) : (s.send u r).notices = s.notices := rfl
@[simp] theorem send_link (u : FieldUnit) (r : OutRecord) : (s.send u r).link = s.link := rfl
@[simp] theorem send_bus (u : FieldUnit) (r : OutRecord) : (s.send u r).bus = { s.bus with sent := s.bus.sent ++ [(u, r)] } := rfl
@[simp] theorem send_freeCount (u : FieldUnit) (r : OutRecord) : (s.send u r).freeCount = s.freeCount := rfl
@[simp] theorem send_pending (u : FieldUnit) (r : OutRecord) : (s.send u r).pending = s.pending := rfl

/-! ### route -/

@[simp] theorem route_clock (tag : Nat) (p : Option Point) : (s.route tag p).clock = s.clock := rfl
@[simp] theorem route_waves (tag : Nat) (p : Option Point) : (s.route tag p).waves = s.waves := rfl
@[simp] theorem route_book (tag : Nat) (p : Option Point) : (s.route tag p).book = s.book := rfl
@[simp] theorem route_items (tag : Nat) (p : Option Point) : (s.route tag p).items = s.items := rfl
@[simp] theorem route_entryCounter (tag : Nat) (p : Option Point) : (s.route tag p).entryCounter = s.entryCounter := rfl
@[simp] theorem route_lanes (tag : Nat) (p : Option Point) : (s.route tag p).lanes = s.lanes := rfl
@[simp] theorem route_admission (tag : Nat) (p : Option Point) : (s.route tag p).admission = s.admission := rfl
@[simp] theorem route_loop (tag : Nat) (p : Option Point) : (s.route tag p).loop = s.loop := rfl
@[simp] theorem route_rushFloor (tag : Nat) (p : Option Point) : (s.route tag p).rushFloor = s.rushFloor := rfl
@[simp] theorem route_chutes (tag : Nat) (p : Option Point) : (s.route tag p).chutes = s.chutes := rfl
@[simp] theorem route_pool (tag : Nat) (p : Option Point) : (s.route tag p).pool = s.pool := rfl
@[simp] theorem route_arbiter (tag : Nat) (p : Option Point) : (s.route tag p).arbiter = s.arbiter := rfl
@[simp] theorem route_benches (tag : Nat) (p : Option Point) : (s.route tag p).benches = s.benches := rfl
@[simp] theorem route_templates (tag : Nat) (p : Option Point) : (s.route tag p).templates = s.templates := rfl
@[simp] theorem route_timers (tag : Nat) (p : Option Point) : (s.route tag p).timers = s.timers := rfl
@[simp] theorem route_groups (tag : Nat) (p : Option Point) : (s.route tag p).groups = s.groups := rfl
@[simp] theorem route_dispatch (tag : Nat) (p : Option Point) : (s.route tag p).dispatch = s.dispatch := rfl
@[simp] theorem route_lateLane (tag : Nat) (p : Option Point) : (s.route tag p).lateLane = s.lateLane := rfl
@[simp] theorem route_faults (tag : Nat) (p : Option Point) : (s.route tag p).faults = s.faults := rfl
@[simp] theorem route_cell (tag : Nat) (p : Option Point) : (s.route tag p).cell = s.cell := rfl
@[simp] theorem route_notices (tag : Nat) (p : Option Point) : (s.route tag p).notices = s.notices := rfl
@[simp] theorem route_link (tag : Nat) (p : Option Point) : (s.route tag p).link = s.link := rfl
@[simp] theorem route_bus (tag : Nat) (p : Option Point) : (s.route tag p).bus = { s.bus with sent := s.bus.sent ++ [(.sorter, .route tag p)] } := rfl
@[simp] theorem route_freeCount (tag : Nat) (p : Option Point) : (s.route tag p).freeCount = s.freeCount := rfl
@[simp] theorem route_pending (tag : Nat) (p : Option Point) : (s.route tag p).pending = s.pending := rfl

/-! ### raiseNotice -/

@[simp] theorem raiseNotice_clock (f : NoticeFlag) : (s.raiseNotice f).clock = s.clock := rfl
@[simp] theorem raiseNotice_waves (f : NoticeFlag) : (s.raiseNotice f).waves = s.waves := rfl
@[simp] theorem raiseNotice_book (f : NoticeFlag) : (s.raiseNotice f).book = s.book := rfl
@[simp] theorem raiseNotice_items (f : NoticeFlag) : (s.raiseNotice f).items = s.items := rfl
@[simp] theorem raiseNotice_entryCounter (f : NoticeFlag) : (s.raiseNotice f).entryCounter = s.entryCounter := rfl
@[simp] theorem raiseNotice_lanes (f : NoticeFlag) : (s.raiseNotice f).lanes = s.lanes := rfl
@[simp] theorem raiseNotice_admission (f : NoticeFlag) : (s.raiseNotice f).admission = s.admission := rfl
@[simp] theorem raiseNotice_loop (f : NoticeFlag) : (s.raiseNotice f).loop = s.loop := rfl
@[simp] theorem raiseNotice_rushFloor (f : NoticeFlag) : (s.raiseNotice f).rushFloor = s.rushFloor := rfl
@[simp] theorem raiseNotice_chutes (f : NoticeFlag) : (s.raiseNotice f).chutes = s.chutes := rfl
@[simp] theorem raiseNotice_pool (f : NoticeFlag) : (s.raiseNotice f).pool = s.pool := rfl
@[simp] theorem raiseNotice_arbiter (f : NoticeFlag) : (s.raiseNotice f).arbiter = s.arbiter := rfl
@[simp] theorem raiseNotice_benches (f : NoticeFlag) : (s.raiseNotice f).benches = s.benches := rfl
@[simp] theorem raiseNotice_templates (f : NoticeFlag) : (s.raiseNotice f).templates = s.templates := rfl
@[simp] theorem raiseNotice_timers (f : NoticeFlag) : (s.raiseNotice f).timers = s.timers := rfl
@[simp] theorem raiseNotice_groups (f : NoticeFlag) : (s.raiseNotice f).groups = s.groups := rfl
@[simp] theorem raiseNotice_dispatch (f : NoticeFlag) : (s.raiseNotice f).dispatch = s.dispatch := rfl
@[simp] theorem raiseNotice_lateLane (f : NoticeFlag) : (s.raiseNotice f).lateLane = s.lateLane := rfl
@[simp] theorem raiseNotice_faults (f : NoticeFlag) : (s.raiseNotice f).faults = s.faults := rfl
@[simp] theorem raiseNotice_cell (f : NoticeFlag) : (s.raiseNotice f).cell = s.cell := rfl
@[simp] theorem raiseNotice_notices (f : NoticeFlag) : (s.raiseNotice f).notices = s.notices.raised f := rfl
@[simp] theorem raiseNotice_link (f : NoticeFlag) : (s.raiseNotice f).link = s.link := rfl
@[simp] theorem raiseNotice_bus (f : NoticeFlag) : (s.raiseNotice f).bus = s.bus := rfl
@[simp] theorem raiseNotice_freeCount (f : NoticeFlag) : (s.raiseNotice f).freeCount = s.freeCount := rfl
@[simp] theorem raiseNotice_pending (f : NoticeFlag) : (s.raiseNotice f).pending = s.pending := rfl

/-! ### setCell -/

@[simp] theorem setCell_clock (c : CellState) : (s.setCell c).clock = s.clock := rfl
@[simp] theorem setCell_waves (c : CellState) : (s.setCell c).waves = s.waves := rfl
@[simp] theorem setCell_book (c : CellState) : (s.setCell c).book = s.book := rfl
@[simp] theorem setCell_items (c : CellState) : (s.setCell c).items = s.items := rfl
@[simp] theorem setCell_entryCounter (c : CellState) : (s.setCell c).entryCounter = s.entryCounter := rfl
@[simp] theorem setCell_lanes (c : CellState) : (s.setCell c).lanes = s.lanes := rfl
@[simp] theorem setCell_admission (c : CellState) : (s.setCell c).admission = s.admission := rfl
@[simp] theorem setCell_loop (c : CellState) : (s.setCell c).loop = s.loop := rfl
@[simp] theorem setCell_rushFloor (c : CellState) : (s.setCell c).rushFloor = s.rushFloor := rfl
@[simp] theorem setCell_chutes (c : CellState) : (s.setCell c).chutes = s.chutes := rfl
@[simp] theorem setCell_pool (c : CellState) : (s.setCell c).pool = s.pool := rfl
@[simp] theorem setCell_arbiter (c : CellState) : (s.setCell c).arbiter = s.arbiter := rfl
@[simp] theorem setCell_benches (c : CellState) : (s.setCell c).benches = s.benches := rfl
@[simp] theorem setCell_templates (c : CellState) : (s.setCell c).templates = s.templates := rfl
@[simp] theorem setCell_timers (c : CellState) : (s.setCell c).timers = s.timers := rfl
@[simp] theorem setCell_groups (c : CellState) : (s.setCell c).groups = s.groups := rfl
@[simp] theorem setCell_dispatch (c : CellState) : (s.setCell c).dispatch = s.dispatch := rfl
@[simp] theorem setCell_lateLane (c : CellState) : (s.setCell c).lateLane = s.lateLane := rfl
@[simp] theorem setCell_faults (c : CellState) : (s.setCell c).faults = s.faults := rfl
@[simp] theorem setCell_cell (c : CellState) : (s.setCell c).cell = { s.cell with state := c } := rfl
@[simp] theorem setCell_notices (c : CellState) : (s.setCell c).notices = s.notices.raised .cellState := rfl
@[simp] theorem setCell_link (c : CellState) : (s.setCell c).link = s.link := rfl
@[simp] theorem setCell_bus (c : CellState) : (s.setCell c).bus = s.bus := rfl
@[simp] theorem setCell_freeCount (c : CellState) : (s.setCell c).freeCount = s.freeCount := rfl
@[simp] theorem setCell_pending (c : CellState) : (s.setCell c).pending = s.pending := rfl

/-! ### withPending -/

@[simp] theorem withPending_clock (q : List Instr) : (s.withPending q).clock = s.clock := rfl
@[simp] theorem withPending_waves (q : List Instr) : (s.withPending q).waves = s.waves := rfl
@[simp] theorem withPending_book (q : List Instr) : (s.withPending q).book = s.book := rfl
@[simp] theorem withPending_items (q : List Instr) : (s.withPending q).items = s.items := rfl
@[simp] theorem withPending_entryCounter (q : List Instr) : (s.withPending q).entryCounter = s.entryCounter := rfl
@[simp] theorem withPending_lanes (q : List Instr) : (s.withPending q).lanes = s.lanes := rfl
@[simp] theorem withPending_admission (q : List Instr) : (s.withPending q).admission = s.admission := rfl
@[simp] theorem withPending_loop (q : List Instr) : (s.withPending q).loop = s.loop := rfl
@[simp] theorem withPending_rushFloor (q : List Instr) : (s.withPending q).rushFloor = s.rushFloor := rfl
@[simp] theorem withPending_chutes (q : List Instr) : (s.withPending q).chutes = s.chutes := rfl
@[simp] theorem withPending_pool (q : List Instr) : (s.withPending q).pool = s.pool := rfl
@[simp] theorem withPending_arbiter (q : List Instr) : (s.withPending q).arbiter = s.arbiter := rfl
@[simp] theorem withPending_benches (q : List Instr) : (s.withPending q).benches = s.benches := rfl
@[simp] theorem withPending_templates (q : List Instr) : (s.withPending q).templates = s.templates := rfl
@[simp] theorem withPending_timers (q : List Instr) : (s.withPending q).timers = s.timers := rfl
@[simp] theorem withPending_groups (q : List Instr) : (s.withPending q).groups = s.groups := rfl
@[simp] theorem withPending_dispatch (q : List Instr) : (s.withPending q).dispatch = s.dispatch := rfl
@[simp] theorem withPending_lateLane (q : List Instr) : (s.withPending q).lateLane = s.lateLane := rfl
@[simp] theorem withPending_faults (q : List Instr) : (s.withPending q).faults = s.faults := rfl
@[simp] theorem withPending_cell (q : List Instr) : (s.withPending q).cell = s.cell := rfl
@[simp] theorem withPending_notices (q : List Instr) : (s.withPending q).notices = s.notices := rfl
@[simp] theorem withPending_link (q : List Instr) : (s.withPending q).link = s.link := rfl
@[simp] theorem withPending_bus (q : List Instr) : (s.withPending q).bus = s.bus := rfl
@[simp] theorem withPending_freeCount (q : List Instr) : (s.withPending q).freeCount = s.freeCount := rfl
@[simp] theorem withPending_pending (q : List Instr) : (s.withPending q).pending = q := rfl

end Sys2Proof.Machine.State
end

