-- ==== Sys2Proof/Laws/Choices.lean ====
section
/-! SUPPORT. Credits returned, items freed, and what the choices of the blocks choose. -/

set_option Elab.async false

namespace Sys2Proof.Machine

open Sys2Proof

variable {s t u : State} {c : Instr}

/-! ### Tables as maps and filters -/

/-- Unequal, as a Bool. -/
theorem bne_decide {n m : Nat} : (n != m) = decide (n ≠ m) := by simp [bne, Bool.beq_eq_decide_eq]

/-- Dropping a key is filtering. -/
theorem dropKey_eq {α} (key : α → Nat) (n : Nat) (xs : List α) :
    dropKey key n xs = xs.filter (fun x => decide (key x ≠ n)) := by
  unfold dropKey; congr 1; funext x; exact bne_decide

/-- Amending a key is mapping. -/
theorem amend_eq {α} (key : α → Nat) (n : Nat) (f : α → α) (xs : List α) :
    amend key n f xs = xs.map (fun x => if key x = n then f x else x) := by
  unfold amend; congr 1; funext x; simp

/-- A Bool that says a proposition. -/
theorem eq_decide_of_iff {p : Prop} [Decidable p] {b : Bool} (h : b = true ↔ p) : b = decide p := by
  rw [Bool.eq_iff_iff, h, decide_eq_true_iff]

/-! ### Credits (R91) -/

/-- Returning chute credits. -/
theorem credited_chute (s : State) (vu b : Nat) : s.giveChute b vu = s.credited vu (some b) none := by
  simp only [State.giveChute, State.updChute, State.credited, amend_eq]
  congr 1
  refine List.map_congr_left fun c _ => ?_
  by_cases h : c.bench = b
  · simp [h]
  · simp [h, Ne.symm h]

/-- Returning common credits. -/
theorem credited_common (s : State) (vu b : Nat) : s.giveCommon b vu = s.credited vu none (some b) := by
  simp only [State.giveCommon, State.updChute, State.credited, amend_eq]
  congr 1
  refine List.map_congr_left fun c _ => ?_
  by_cases h : c.bench = b
  · simp [h]
  · simp [h, Ne.symm h]

/-- Chute credits, then common credits. -/
theorem credited_both (s : State) (vu : Nat) (b c : Nat) : (s.credited vu (some b) none).credited vu none (some
    c) = s.credited vu (some b) (some c) := by
  simp only [State.credited, List.map_map]
  congr 1

/-- Common credits, then chute credits. -/
theorem credited_both' (s : State) (vu : Nat) (b c : Nat) : (s.credited vu none (some c)).credited vu (some b)
    none = s.credited vu (some b) (some c) := by
  simp only [State.credited, List.map_map]
  congr 1

/-- No credits. -/
theorem credited_none (s : State) (vu : Nat) : s.credited vu none none = s := by
  simp only [State.credited]
  have : s.chutes.map (fun c : Chute => c) = s.chutes := List.map_id' _
  simp

/-- R91: what giving an item's credits back does. -/
theorem giveBack_eq (i : Item) (s : State) : s.giveBack i = (s.credited i.vu i.hold.chuteAt
    i.hold.commonAt).arbitrate := by
  unfold State.giveBack
  cases i.hold <;> simp only [Hold.chuteAt, Hold.commonAt, credited_none, credited_chute, credited_common, credited_both]

/-- Dropping a record just amended. -/
theorem drop_amend (tag : Nat) (f : Item → Item) (hf : ∀ i, (f i).tag = i.tag) (xs : List Item) :
    (amend Item.tag tag f xs).filter (fun j => decide (j.tag ≠ tag)) = xs.filter (fun j => decide (j.tag ≠ tag)) := by
  induction xs with
  | nil => rfl
  | cons x xs ih =>
    simp only [amend, List.map_cons, List.filter_cons] at ih ⊢
    by_cases h : x.tag = tag
    · have e : (if (x.tag == tag) = true then f x else x) = f x := by simp [h]
      rw [e]; simp only [hf, h]; simpa using ih
    · have e : (x.tag == tag) = false := by simp [h]
      simp only [e, Bool.false_eq_true, if_false]; simp only [ne_eq]; rw [ih]

/-- R42: what freeing an item record does. -/
theorem freeItem_eq {s : State} {i : Item} {tag : Nat} (hi : s.item? tag = some i) :
    s.freeItem tag = ({ s.credited i.vu i.hold.chuteAt i.hold.commonAt with
      items := s.items.filter (fun j => decide (j.tag ≠ tag))
      arbiter := { s.arbiter with heldBack := s.arbiter.heldBack.filter (fun k => decide (k ≠ tag)) } } : State).judgeLanes.arbitrate := by
  have hfil : ∀ (xs : List Nat), xs.filter (fun k => k != tag) = xs.filter (fun k => decide (k ≠ tag)) := fun xs => by congr 1; funext k; exact bne_decide
  unfold State.freeItem
  dsimp only
  simp only [dropKey_eq, hfil]
  congr 2
  unfold State.returnCommon
  rw [hi]; dsimp only
  cases hh : i.hold with
  | none =>
    simp only []
    have : s.dropChuteHold tag = s := by unfold State.dropChuteHold; rw [hi]; simp only [hh]
    rw [this]; simp only [Hold.chuteAt, Hold.commonAt, credited_none]
  | chute b =>
    simp only []
    have : s.dropChuteHold tag = (s.giveChute b i.vu).updItem tag (fun x => { x with hold := .none }) := by unfold State.dropChuteHold; rw [hi]; simp only [hh]
    rw [this]; simp only [Hold.chuteAt, Hold.commonAt, credited_chute, State.updItem_items, State.updItem_arbiter]
    show State.mk .. = State.mk ..
    simp only [State.mk.injEq]
    exact ⟨rfl, rfl, rfl, by exact drop_amend tag _ (by exact fun _ => rfl) s.items, rfl, rfl, rfl, rfl, rfl, rfl, rfl, rfl, rfl, rfl, rfl, rfl, rfl, rfl, rfl, rfl, rfl, rfl, rfl, rfl, rfl⟩
  | common b =>
    simp only []
    have hi2 : ((s.giveCommon b i.vu).updItem tag (fun x => { x with hold := .none })).item? tag = some { i with hold := .none } := by
      rw [updItem_item_same]; show Option.map _ (s.item? tag) = _; rw [hi]; rfl
    have : ((s.giveCommon b i.vu).updItem tag (fun x => { x with hold := .none })).dropChuteHold tag = (s.giveCommon b i.vu).updItem tag (fun x => { x with hold := .none }) := by unfold State.dropChuteHold; rw [hi2]
    rw [this]; simp only [Hold.chuteAt, Hold.commonAt, credited_common, State.updItem_items, State.updItem_arbiter]
    show State.mk .. = State.mk ..
    simp only [State.mk.injEq]
    exact ⟨rfl, rfl, rfl, by exact drop_amend tag _ (by exact fun _ => rfl) s.items, rfl, rfl, rfl, rfl, rfl, rfl, rfl, rfl, rfl, rfl, rfl, rfl, rfl, rfl, rfl, rfl, rfl, rfl, rfl, rfl, rfl⟩
  | both b =>
    simp only []
    have hi2 : ((s.giveCommon b i.vu).updItem tag (fun x => { x with hold := .chute b })).item? tag = some { i with hold := .chute b } := by
      rw [updItem_item_same]; show Option.map _ (s.item? tag) = _; rw [hi]; rfl
    have : ((s.giveCommon b i.vu).updItem tag (fun x => { x with hold := .chute b })).dropChuteHold tag = (((s.giveCommon b i.vu).updItem tag (fun x => { x with hold := .chute b })).giveChute b i.vu).updItem tag (fun x => { x with hold := .none }) := by unfold State.dropChuteHold; rw [hi2]
    rw [this]; simp only [Hold.chuteAt, Hold.commonAt, credited_common, credited_chute, State.updItem_items, State.updItem_arbiter]
    have e : ((s.credited i.vu none (some b)).updItem tag (fun x => { x with hold := .chute b })).credited i.vu (some b) none = ((s.credited i.vu none (some b)).credited i.vu (some b) none).updItem tag (fun x => { x with hold := .chute b }) := rfl
    rw [e, credited_both']
    show State.mk .. = State.mk ..
    simp only [State.mk.injEq]
    exact ⟨rfl, rfl, rfl, by
      show (amend Item.tag tag _ (amend Item.tag tag _ s.items)).filter _ = _
      exact (drop_amend tag _ (by exact fun _ => rfl) _).trans (drop_amend tag _ (by exact fun _ => rfl) s.items), rfl, rfl, rfl, rfl, rfl, rfl, rfl, rfl, rfl, rfl, rfl, rfl, rfl, rfl, rfl, rfl, rfl, rfl, rfl, rfl, rfl⟩

/-- R41: what entering a location does. -/
theorem enter_eq (loc : Location) (b : Option Nat) (tag : Nat) (v : State) : v.enter loc b tag = { v with
          items := v.items.map (fun j : Item => if j.tag = tag then
            { j with location := loc, locBench := b, dest := none, entrySeq := v.entryCounter } else j)
          entryCounter := (v.entryCounter + 1) % 4294967296 } := by
  simp only [State.enter, State.updItem, amend_eq, Config.entryModulus]

/-! ### Repeated tries -/

/-- Tries repeated until none is left, where each lowers a measure. -/
theorem chain {step : State → Option State} {it : Nat → State → State} {rel : State → State → Prop}
   (h0 : ∀ s, it 0 s = s) (h1 : ∀ n s, it (n+1) s = match step s with | none => s | some u => it n u)
   (hrel : ∀ t u, rel t u ↔ step t = some u) (m : State → Nat) (hm : ∀ t u, step t = some u → m u + 1 ≤ m t) :
   ∀ n s, m s ≤ n → Relation.ReflTransGen rel s (it n s) ∧ ∀ u, ¬rel (it n s) u := by
  intro n
  induction n with
  | zero =>
    intro s hs
    rw [h0]
    refine ⟨.refl, fun u hu => ?_⟩
    have := hm _ _ ((hrel _ _).1 hu); omega
  | succ n ih =>
    intro s hs
    rw [h1]
    cases h : step s with
    | none => exact ⟨.refl, fun u hu => by have := (hrel _ _).1 hu; rw [h] at this; simp at this⟩
    | some u =>
      have := hm _ _ h
      obtain ⟨a, b⟩ := ih u (by omega)
      exact ⟨.head ((hrel _ _).2 h) a, b⟩

/-- R95, R120: the oldest of a list is one of its oldest. -/
theorem oldest_spec (s : State) (xs : List Item) (i : Item) (h : s.oldest xs = some i) :
    i ∈ xs ∧ ∀ j ∈ xs, s.entryAge j ≤ s.entryAge i := by
  refine ⟨mem_oldest h, ?_⟩
  have key : ∀ (ys : List Item) (b : Item) (i : Item), ys.foldl (fun best i => match best with | none => some i | some b => if s.entryAge b < s.entryAge i then some i else some b) (some b) = some i → s.entryAge b ≤ s.entryAge i ∧ ∀ j ∈ ys, s.entryAge j ≤ s.entryAge i := by
    intro ys
    induction ys with
    | nil => intro b i h; simp at h; subst h; simp
    | cons y ys ih =>
      intro b i h
      rw [List.foldl_cons] at h
      dsimp only at h
      split at h
      · obtain ⟨h1, h2⟩ := ih _ _ h
        refine ⟨by omega, fun j hj => ?_⟩
        rcases List.mem_cons.1 hj with rfl | hj
        · exact h1
        · exact h2 j hj
      · obtain ⟨h1, h2⟩ := ih _ _ h
        refine ⟨h1, fun j hj => ?_⟩
        rcases List.mem_cons.1 hj with rfl | hj
        · omega
        · exact h2 j hj
  cases xs with
  | nil => simp
  | cons x xs =>
    obtain ⟨h1, h2⟩ := key xs x i h
    intro j hj
    rcases List.mem_cons.1 hj with rfl | hj
    · exact h1
    · exact h2 j hj

/-- R74, R78: the best of the candidates by a strict order. -/
theorem bestOf_spec (before : Candidate → Candidate → Bool) (ht : ∀ a b c, before a b = true →
    before b c = true → before a c = true) (hr : ∀ a, before a a = false) (cs : List Candidate) :
   (bestOf before cs = none → cs = []) ∧ ∀ c, bestOf before cs = some c → c ∈ cs ∧ ∀ d ∈ cs, before d c = false := by
  have key : ∀ (ys seen : List Candidate) (b : Candidate), b ∈ seen → (∀ d ∈ seen, before d b = false) →
      ∃ c, ys.foldl (fun best c => match best with | none => some c | some d => if before c d then some c else some d) (some b) = some c ∧ c ∈ seen ++ ys ∧ ∀ d ∈ seen ++ ys, before d c = false := by
    intro ys
    induction ys with
    | nil => intro seen b hb hs; exact ⟨b, rfl, by simpa using hb, by simpa using hs⟩
    | cons y ys ih =>
      intro seen b hb hs
      rw [List.foldl_cons]
      dsimp only
      rw [List.append_cons]
      split
      · rename_i h
        refine ih (seen ++ [y]) y (by simp) (fun d hd => ?_)
        rcases List.mem_append.1 hd with hd | hd
        · by_contra hc
          have := ht d y b (by simpa using hc) h
          rw [hs d hd] at this; simp at this
        · simp at hd; subst hd; exact hr _
      · rename_i h
        refine ih (seen ++ [y]) b (by simp [hb]) (fun d hd => ?_)
        rcases List.mem_append.1 hd with hd | hd
        · exact hs d hd
        · simp at hd; subst hd; simpa using h
  cases cs with
  | nil => exact ⟨fun _ => rfl, fun c h => by simp [bestOf] at h⟩
  | cons x xs =>
    obtain ⟨c, h1, h2, h3⟩ := key xs [x] x (by simp) (by simpa using hr x)
    have : bestOf before (x :: xs) = some c := h1
    rw [this]
    refine ⟨fun h => by simp at h, fun d hd => ?_⟩
    simp at hd; subst hd; exact ⟨h2, h3⟩

/-- The first that is found. -/
theorem findSome_iff {α β} (f : α → Option β) (xs : List α) (y : β) : xs.findSome? f = some y ↔ ∃ (k :
    Nat) (x : α), xs[k]? = some x ∧ (∀ j < k, ∀ z, xs[j]? = some z → f z = none) ∧ f x = some y := by
  induction xs with
  | nil => simp
  | cons x xs ih =>
    rw [List.findSome?_cons]
    cases h : f x with
    | some w =>
      simp only [Option.some.injEq]
      constructor
      · rintro rfl; exact ⟨0, x, rfl, by simp, h⟩
      · rintro ⟨k, z, h1, h2, h3⟩
        cases k with
        | zero => simp at h1; subst h1; rw [h] at h3; simpa using h3
        | succ k => have := h2 0 (by omega) x rfl; rw [h] at this; simp at this
    | none =>
      dsimp only
      rw [ih]
      constructor
      · rintro ⟨k, z, h1, h2, h3⟩
        refine ⟨k + 1, z, h1, fun j hj w hw => ?_, h3⟩
        cases j with
        | zero => simp at hw; subst hw; exact h
        | succ j => exact h2 j (by omega) w hw
      · rintro ⟨k, z, h1, h2, h3⟩
        cases k with
        | zero => simp at h1; subst h1; rw [h] at h3; simp at h3
        | succ k => exact ⟨k, z, h1, fun j hj w hw => h2 (j + 1) (by omega) w hw, h3⟩

/-! ### Admission (R51 to R53) -/

/-- Entries that name no lane with a tag are passed over. -/
theorem scanEntries_skip (es : List Nat) (rest : List Nat) (s : State) (h :
    ∀ e ∈ es, ∀ l, s.lane? (s.admission.schedule[e]?.getD 0) = some l → l.queue = []) :
   State.scanEntries (es ++ rest) s = State.scanEntries rest s := by
  induction es with
  | nil => rfl
  | cons e es ih =>
    rw [List.cons_append, State.scanEntries]
    have ih' := ih (fun e he => h e (List.mem_cons_of_mem _ he))
    cases hl : s.lane? (s.admission.schedule[e]?.getD 0) with
    | none => exact ih'
    | some l =>
      have hq := h e List.mem_cons_self l hl
      have : l.number = s.admission.schedule[e]?.getD 0 := (look_some hl).2
      dsimp only
      rw [hq, State.rejectExpired, this, hl]
      simp only [Option.bind_some, hq, List.head?_nil]
      exact ih'

/-- An expired head is rejected. -/
theorem rejectExpired_head (n : Nat) (tag : Nat) (rest : List Nat) (s : State) (h : s.itemExpired tag = true) :
   State.rejectExpired n (tag :: rest) s = State.rejectExpired n rest (s.rejectHead n tag) := by
  rw [State.rejectExpired, if_pos h]

/-- A map that makes none. -/
theorem countP_map_le {α} (p : α → Bool) (f : α → α) (hf : ∀ x, p (f x) = true →
    p x = true) (xs : List α) : (xs.map f).countP p ≤ xs.countP p := by
  rw [List.countP_map]
  exact List.countP_mono_left fun x _ h => hf x h

/-- What work behind an admission leaves: the lane queues, the admission, the cell and the loop as they are, and no item joined to the loop. -/
structure Quietly (v w : State) : Prop where
  lanes : w.lanes.map (fun l => (l.number, l.queue)) = v.lanes.map (fun l => (l.number, l.queue))
  admission : w.admission = v.admission
  cell : w.cell = v.cell
  loop : w.loop = v.loop
  occ : w.occupancy ≤ v.occupancy

/-- Nothing done. -/
theorem Quietly.refl (v : State) : Quietly v v := ⟨rfl, rfl, rfl, rfl, le_refl _⟩

/-- One after another. -/
theorem Quietly.trans {u v w : State} (a : Quietly u v) (b : Quietly v w) : Quietly u w :=
  ⟨b.1.trans a.1, b.2.trans a.2, b.3.trans a.3, b.4.trans a.4, b.5.trans a.5⟩

/-- An item changed that does not join the loop. -/
theorem updItem_quietly {tag f} (s : State) (hf : ∀ x : Item, (f x).location = .onLoop →
    x.location = .onLoop) : Quietly s (s.updItem tag f) := by
  refine ⟨rfl, rfl, rfl, rfl, countP_map_le _ _ ?_ _⟩
  intro x h
  split at h
  · simp only [beq_iff_eq] at h ⊢; exact hf x h
  · exact h

/-- One release. -/
theorem arbitrateOnce_quietly {v w : State} (h : v.arbitrateOnce = some w) : Quietly v w := by
    unfold State.arbitrateOnce at h
    split at h
    · simp at h
    · split at h
      · simp at h; subst h; exact ⟨rfl, rfl, rfl, rfl, le_refl _⟩
      · split at h
        · obtain ⟨b, hb, h⟩ := List.exists_of_findSome?_eq_some h
          simp at h; obtain ⟨i, _, rfl⟩ := h
          have := updItem_quietly (tag := i.tag) (f := fun x : Item => { x with hold := .both b, location := .bufferToChute }) (({ v with arbiter := { v.arbiter with releases := v.arbiter.releases ++ [(i.tag, Point.bench b)], pointer := b } }.takeChute b i.vu)) (fun x h => by simp at h)
          exact ⟨this.1, this.2, this.3, this.4, this.5⟩
        · simp at h

/-- An arbitration. -/
theorem arbitrate_quietly (v : State) : Quietly v v.arbitrate := by
  unfold State.arbitrate
  split
  · exact .refl v
  · rename_i s1 h1
    split
    · exact arbitrateOnce_quietly h1
    · rename_i s2 h2
      exact (arbitrateOnce_quietly h1).trans (arbitrateOnce_quietly h2)

/-- An item freed. -/
theorem freeItem_quietly (u : State) (tag : Nat) : Quietly u (u.freeItem tag) := by
  have rc : ∀ v : State, Quietly v (v.returnCommon tag) := by
    intro v; unfold State.returnCommon; split
    · exact .refl v
    · split
      · exact (show Quietly v (v.giveCommon _ _) from ⟨rfl, rfl, rfl, rfl, le_refl _⟩).trans (updItem_quietly _ (fun _ h => h))
      · exact (show Quietly v (v.giveCommon _ _) from ⟨rfl, rfl, rfl, rfl, le_refl _⟩).trans (updItem_quietly _ (fun _ h => h))
      · exact .refl v
      · exact .refl v
  have rd : ∀ v : State, Quietly v (v.dropChuteHold tag) := by
    intro v; unfold State.dropChuteHold; split
    · exact .refl v
    · split
      · exact (show Quietly v (v.giveChute _ _) from ⟨rfl, rfl, rfl, rfl, le_refl _⟩).trans (updItem_quietly _ (fun _ h => h))
      · exact (show Quietly v (v.giveChute _ _) from ⟨rfl, rfl, rfl, rfl, le_refl _⟩).trans (updItem_quietly _ (fun _ h => h))
      · exact .refl v
      · exact .refl v
  have jl : ∀ v : State, Quietly v v.judgeLanes := by
    intro v
    refine ⟨?_, rfl, rfl, rfl, le_refl _⟩
    simp only [State.judgeLanes, List.map_map]
    rfl
  refine ((rc u).trans (rd _)).trans (.trans ?_ ((jl _).trans (arbitrate_quietly _)))
  refine ⟨rfl, rfl, rfl, rfl, ?_⟩
  exact List.Sublist.countP_le List.filter_sublist

/-- A lane's queue read where the queues stand. -/
theorem lane_queue {s t : State} (h : t.lanes.map (fun l => (l.number,
    l.queue)) = s.lanes.map (fun l => (l.number, l.queue))) (n : Nat) :
   (t.lane? n).map (fun l => (l.number, l.queue)) = (s.lane? n).map (fun l => (l.number, l.queue)) := by
  have key : ∀ xs : List Lane, (look Lane.number n xs).map (fun l => (l.number, l.queue)) = (xs.map (fun l => (l.number, l.queue))).find? (fun p => p.1 == n) := by
    intro xs
    unfold look
    rw [List.find?_map]; rfl
  simp only [State.lane?]
  rw [key, key, h]

end Sys2Proof.Machine
end

