-- ==== Sys2Proof/Laws/Replies.lean ====
section
/-! SUPPORT. What a request answers once its checks are known, and the checks that follow an amendment. -/

set_option Elab.async false

namespace Sys2Proof.Machine

open Sys2Proof

variable {s t u : State} {c : Instr}

/-! ### Replies -/

/-- A reply changes the host link alone. -/
theorem answer_link (s : State) (tag kind : Byte) (r : Reply) : { s.answer tag kind r with link := s.link } = s := by
  unfold State.answer State.startIfFree State.beginReply State.beginFrame
  dsimp only
  repeat' split
  all_goals rfl

/-- A BUSY reply changes the host link alone. -/
theorem answerBusy_link (s : State) (tag kind : Byte)  : { s.answerBusy tag kind with link := s.link } = s := by
  unfold State.answerBusy State.startIfFree State.beginReply State.beginFrame
  dsimp only
  repeat' split
  all_goals rfl

/-- The entries stand once each. -/
theorem distinct_iff (xs : List Nat) : distinct xs = true ↔ xs.Nodup := by
  induction xs with
  | nil => simp [distinct]
  | cons x xs ih => simp [distinct, ih]

/-- Nothing has changed: nothing is judged. -/
theorem judgeQuiet_self (s : State) : State.judgeQuiet s s = s := judgeQuiet_same rfl rfl

/-- A request handed over, its owner's answer known. -/
theorem request_reply {rq : ReqHead} {kind : Byte} {owner : State → Reply × State} {s t : State} {r : Reply}
   (hi : s.inTurn rq.tag kind c = true) (ho : owner s = (r, t)) :
   request c rq kind owner s = .next ((State.judgeQuiet s t).answer rq.tag kind r) := by
  simp only [request, hi, if_true, ho]

/-- A request handed over whose owner changes no part of the quiet condition. -/
theorem request_next {rq : ReqHead} {kind : Byte} {owner : State → Reply × State} {s t : State} {r : Reply}
   (hi : s.inTurn rq.tag kind c = true) (ho : owner s = (r, t)) (hq : s.quietParts = t.quietParts) (hc : s.cell.state = t.cell.state) :
   request c rq kind owner s = .next (t.answer rq.tag kind r) := by
  simp only [request, hi, if_true, ho, judgeQuiet_same hq hc]

/-- A request handed over whose owner changes nothing. -/
theorem request_same {rq : ReqHead} {kind : Byte} {owner : State → Reply × State} {s : State} {r : Reply}
   (hi : s.inTurn rq.tag kind c = true) (ho : owner s = (r, s)) :
   request c rq kind owner s = .next (s.answer rq.tag kind r) := request_next hi ho rfl rfl

/-- The owner of a request of the right length with its fields in range. -/
theorem checked_ok {l v : Bool} {owner : State → Reply × State} {s : State} (hl : l = true) (hv : v = true) :
    checked l v owner s = owner s := by
  subst hl hv; rfl

/-- A field out of range. -/
theorem checked_bad {l v : Bool} {owner : State → Reply × State} {s : State} (hl : l = true) (hv : v = false) :
    checked l v owner s = (⟨.badValue, .none⟩, s) := by
  subst hl hv; rfl

/-- A wrong length. -/
theorem checked_len {l v : Bool} {owner : State → Reply × State} {s : State} (hl : l = false) :
    checked l v owner s = (⟨.badLength, .none⟩, s) := by
  subst hl; rfl

/-- The range. -/
theorem inRange_iff {lo hi n : Nat} : inRange lo hi n = true ↔ lo ≤ n ∧ n ≤ hi := by simp [inRange]

/-- The range of a field that may be absent. -/
theorem optInRange_iff {lo hi} {o : Option Nat} : optInRange lo hi o = true ↔ ∀ n, o = some n → lo ≤ n ∧ n ≤ hi := by
  cases o <;> simp [optInRange, inRange]

/-- A request that is handed over is in its turn and has the right length. -/
theorem takes_iff {rq : ReqHead} {kind : Byte} (hc : requestOf c = some (rq, kind)) :
    s.Takes c ↔ s.inTurn rq.tag kind c = true ∧ rq.lengthOk = true := by
  rw [State.Takes, hc]

/-- A request on an order that passes its checks is its owner's. -/
theorem orderRequest_owner {s : State} {rq : ReqHead} {kind : Byte} {ref : Nat} {o : Order} {v : Bool} {al :
    OrderState → Bool} {owner : Order → State → Reply × State}
  (h : s.Names c ref o) (hc : requestOf c = some (rq, kind)) (hv : v = true) (ha : al o.state = true) : orderRequest rq v ref al owner s = owner o s := by
  obtain ⟨ht, h1, h2, ho⟩ := h
  obtain ⟨-, hl⟩ := takes_iff hc |>.1 ht
  subst hv
  simp [orderRequest, checked, hl, inRange, maxRef, h1, h2, ho, ha]

/-- A record that fits, of the sorter or the buffer. -/
theorem fieldRecord_fits {hd : RecHead} {kind : Nat} {u : FieldUnit} {owner : Nat → State →
    State} {s : State} (h : RecFits hd kind u) (hu : u = .sorter ∨ u = .buffer) :
  State.fieldRecord hd kind owner s = owner 0 s := by
  obtain ⟨h1, h2, h3⟩ := h
  rcases hu with rfl | rfl <;> simp [State.fieldRecord, recordFault, h1, h2, h3]

/-- The event of such a record. -/
theorem event_fits {hd : RecHead} {kind : Nat} {u : FieldUnit} {owner : Nat → State →
    State} {s t : State} (h : RecFits hd kind u) (hu : u = .sorter ∨ u = .buffer) (ho : owner 0 s = t) :
  event (State.fieldRecord hd kind owner) s = s.ends t := by
  simp only [event, State.ends, fieldRecord_fits h hu, ho]

/-! ### The checks that follow an amendment -/

/-- No other state goes to LOADED. -/
theorem reaches_loaded {a : OrderState} (h : OrderReaches a .loaded) : a = .loaded := by
  cases Relation.ReflTransGen.cases_tail h with
  | inl h => exact h.symm
  | inr h => obtain ⟨b, _, hb⟩ := h; cases b <;> simp [orderMoves] at hb

/-- An order put in the place of the one in its slot. -/
theorem withOrder_inv {s : State} {o p : Order} (hi : s.Inv) (ho : s.order? o.slot = some o) (hp :
    p.slot = o.slot) : (s.withOrder p).Inv := by
  have h1 := updOrder_eq_withOrder hi ho (fun x => if x.slot = o.slot then p else x) (by simp [hp])
  simp only [if_true] at h1
  rw [← h1]
  exact (updOrder_touch o.slot s (fun x => by split <;> simp_all)).inv hi

/-- An unbound order has no gate to open. -/
theorem recomputeGate_unbound {s : State} {slot : Nat} (h : ∀ o, s.order? slot = some o →
    o.bench = none) (hi : s.Inv) : s.recomputeGate slot = s := by
  have hg : s.gateOpens slot = false := by
    unfold State.gateOpens; split
    · rfl
    case h_2 o ho => simp [h o ho]
  have hs : s.setGate slot = s := by
    unfold State.setGate
    rw [hg]
    simp only [Bool.false_eq_true, if_false, State.updOrder]
    have : ∀ f : Order → Order, (∀ o ∈ s.book.orders, o.slot = slot → f o = o) → amend Order.slot slot f s.book.orders = s.book.orders := by
      intro f hf
      conv => rhs; rw [← List.map_id s.book.orders]
      refine List.map_congr_left fun x hx => ?_
      split
      case isTrue h => exact hf x hx (by simpa using h)
      · rfl
    rw [this]
    intro o ho hsl
    have := h o (hsl ▸ order_of_mem hi ho)
    simp [this]
  unfold State.recomputeGate
  rw [hg]; simpa using hs

/-- Binding after a change of the order in a slot. -/
theorem bindIfWaiting_eq {t : State} {slot : Nat} {p : Order} (h : t.order? slot = some p) :
    t.bindIfWaiting slot = if p.isWaiting then t.bindPass else t := by
  simp only [State.bindIfWaiting, h]

/-- R25: the waiting list. -/
theorem isWaiting_iff {o : Order} : o.isWaiting = true ↔ o.state = .loaded ∧ o.held = false ∧ o.bench = none := by
  simp [Order.isWaiting, and_assoc]

/-- Gate, completion and binding after a change of the order in a slot: only one of them has work to do. -/
theorem checks_then_bind {t : State} {slot : Nat} {p : Order} (hi : t.Inv) (hp : t.order? slot = some p) :
  ((t.recomputeGate slot).completionCheck slot).bindIfWaiting slot = if p.isWaiting then t.bindPass else (t.recomputeGate slot).completionCheck slot := by
  by_cases hw : p.isWaiting = true
  · have := isWaiting_iff.1 hw
    rw [recomputeGate_unbound (fun o ho => by rw [hp] at ho; simp at ho; rw [← ho]; exact this.2.2) hi,
      completionCheck_other (fun o ho => by rw [hp] at ho; simp at ho; rw [← ho, this.1]; simp), bindIfWaiting_eq hp]
  · rw [if_neg hw]
    by_cases hl : p.state = .loaded
    · have hg : (t.recomputeGate slot).order? slot = some (if p.bench != none && p.topGate != none then { p with topGate := some (gateOf p.lines) } else p) := by
        rw [recomputeGate_order, hp]
        have : p.slot = slot := (look_some hp).2
        simp [this]
      rw [completionCheck_other (fun o ho => by rw [hg] at ho; simp at ho; rw [← ho]; split <;> simp [hl]), bindIfWaiting_eq hg, if_neg]
      intro h; apply hw
      have h2 := isWaiting_iff.1 h
      rw [isWaiting_iff]
      split at h2 <;> exact h2
    · have wk := (recomputeGate_work slot t).trans (completionCheck_work slot _)
      unfold State.bindIfWaiting
      split
      · rfl
      case h_2 q hq =>
        rw [if_neg]
        intro h
        have hm := look_some hq
        obtain ⟨o, ho, hk⟩ := wk.orders hi q hm.1
        have h3 : t.order? slot = some o := by
          have := order_of_mem hi ho; rw [← hk.slot, hm.2] at this; exact this
        rw [hp] at h3; simp at h3; subst h3
        have := hk.state
        rw [(isWaiting_iff.1 h).1] at this
        exact hl (reaches_loaded this)

/-- Gate and binding after a change of the order in a slot. -/
theorem gate_then_bind {t : State} {slot : Nat} {p : Order} (hi : t.Inv) (hp : t.order? slot = some p) :
  (t.recomputeGate slot).bindIfWaiting slot = if p.isWaiting then t.bindPass else t.recomputeGate slot := by
  by_cases hw : p.isWaiting = true
  · have := isWaiting_iff.1 hw
    rw [recomputeGate_unbound (fun o ho => by rw [hp] at ho; simp at ho; rw [← ho]; exact this.2.2) hi, bindIfWaiting_eq hp]
  · have hg : (t.recomputeGate slot).order? slot = some (if p.bench != none && p.topGate != none then { p with topGate := some (gateOf p.lines) } else p) := by
        rw [recomputeGate_order, hp]
        have : p.slot = slot := (look_some hp).2
        simp [this]
    rw [bindIfWaiting_eq hg, if_neg, if_neg hw]
    intro h; apply hw
    have h2 := isWaiting_iff.1 h
    rw [isWaiting_iff]
    split at h2 <;> exact h2

end Sys2Proof.Machine
end

