-- ==== Sys2Proof/Laws/Restart.lean ====
section
/-! SUPPORT. The warm restart, the quiet judgment and the parts of a tick, each said once. -/

set_option Elab.async false

namespace Sys2Proof.Machine

open Sys2Proof

variable {s t u : State} {c : Instr}

/-! ### The warm restart (R185) -/

/-- The Cell Restart records change the bus alone. -/
theorem sendRestarts_frame (s : State) : { s.sendRestarts with bus := s.bus } = s := by
  unfold State.sendRestarts
  generalize allUnits = xs
  have : ∀ (xs : List FieldUnit) (u : State), { (xs.foldl (fun t u => t.send u .cellRestart) u) with bus := s.bus } = { u with bus := s.bus } := by
    intro xs
    induction xs with
    | nil => intro u; rfl
    | cons x xs ih => intro u; rw [List.foldl_cons, ih]; rfl
  exact this xs s

/-- Judging the lane signals changes lanes and bus alone. -/
theorem judgeLanes_frame (s : State) : { s.judgeLanes with lanes := s.lanes, bus := s.bus } = s := rfl

/-- The cell after a warm restart. -/
theorem warmRestart_cell (c : Causes) (s : State) : (s.warmRestart c).cell = (s.cleared c).cell :=
  (congrArg State.cell (judgeLanes_frame (s.cleared c).sendRestarts) :).trans (congrArg State.cell (sendRestarts_frame (s.cleared c)) :)

/-- The clock stands. -/
theorem warmRestart_clock (c : Causes) (s : State) : (s.warmRestart c).clock = s.clock :=
  (congrArg State.clock (judgeLanes_frame (s.cleared c).sendRestarts) :).trans (congrArg State.clock (sendRestarts_frame (s.cleared c)) :)

/-- The book is empty. -/
theorem warmRestart_book (c : Causes) (s : State) : (s.warmRestart c).book = ⟨[], 0⟩ :=
  (congrArg State.book (judgeLanes_frame (s.cleared c).sendRestarts) :).trans (congrArg State.book (sendRestarts_frame (s.cleared c)) :)

/-- The state after a warm restart. -/
theorem warmRestart_state (c : Causes) (s : State) : (s.warmRestart c).cell.state =
    if s.cell.committed then .ready else .setup := by
  rw [warmRestart_cell]; rfl

/-- What the quiet judgment may do (R181, R184). -/
theorem actQuiet_cases (u : State) : u.actQuiet = u ∨ (u.cell.state = .draining ∧ u.actQuiet = u.setCell .ready) ∨
    (u.cell.state = .restarting ∧ u.actQuiet = u.warmRestart .ofBoundary) := by
  unfold State.actQuiet
  by_cases hq : u.quiet = true
  · rw [if_pos hq]
    cases h : u.cell.state <;> simp
  · rw [if_neg hq]; exact .inl rfl

/-! ### The cell bus (R190) -/

/-- From s to t cell bus frames have been received: besides `Shows`, the clock and the host link stand, every order there
is was there with what lasts of it, the load sequence stands or the book is empty, and an empty book stays empty; the
cell has been halted, or has acted on the quiet condition. -/
structure Received (s t : State) : Prop extends Shows s t where
  clock : t.clock = s.clock
  link : t.link = s.link
  orders : s.Inv → ∀ p ∈ t.book.orders, ∃ o ∈ s.book.orders, OrderKept o p
  loadSeq : t.book.loadSeq = s.book.loadSeq ∨ t.book = ⟨[], 0⟩
  empty : s.book = ⟨[], 0⟩ → t.book = ⟨[], 0⟩
  cell : t.cell.state = s.cell.state ∨ (s.cell.state, t.cell.state) ∈ commonCellMoves ∨
    (s.cell.state, t.cell.state) ∈ quietCellMoves

theorem Received.refl (s : State) : Received s s :=
  ⟨.refl s, rfl, rfl, fun _ p hp => ⟨p, hp, .refl p⟩, .inl rfl, id, .inl rfl⟩

theorem Received.trans (h : Received s t) (k : Received t u) : Received s u where
  toShows := h.toShows.trans k.toShows
  clock := k.clock.trans h.clock
  link := k.link.trans h.link
  orders hI p hp := by
    obtain ⟨o, ho, h1⟩ := k.orders (h.inv hI) p hp
    obtain ⟨o', ho', h2⟩ := h.orders hI o ho
    exact ⟨o', ho', h2.trans h1⟩
  loadSeq := by
    rcases k.loadSeq with hk | hk
    · rcases h.loadSeq with hh | hh
      · exact .inl (hk.trans hh)
      · exact .inr (k.empty hh)
    · exact .inr hk
  empty := k.empty ∘ h.empty
  cell := by
    have h1 := h.cell
    have h2 := k.cell
    revert h1 h2
    generalize s.cell.state = a, t.cell.state = b, u.cell.state = c
    cases a <;> cases b <;> cases c <;> decide

theorem Taken.received (h : Taken s t) : Received s t where
  toShows := h.toShows
  clock := h.clock
  link := h.link
  orders := h.orders
  loadSeq := .inl h.loadSeq
  empty hb := by
    have h1 := h.loadSeq
    rw [hb] at h1
    exact congr (congrArg Book.mk (h.empty (by rw [hb]))) h1
  cell := by
    rcases h.toTouch.cellCases with hc | ⟨hc, hs⟩
    · exact .inl hc
    · rw [hc]
      rcases hs with hs | hs | hs | hs <;> rw [hs] <;> exact .inr (.inl (by decide))

theorem actQuiet_received (s : State) : Received s s.actQuiet := by
  refine ⟨(actQuiet_lasts s).toShows, ?_, actQuiet_link s, (actQuiet_lasts s).orders, ?_, ?_, ?_⟩ <;>
    rcases actQuiet_cases s with h | ⟨hs, h⟩ | ⟨hs, h⟩ <;> rw [h]
  · rfl
  · exact warmRestart_clock _ s
  · exact .inl rfl
  · exact .inl rfl
  · exact .inr (warmRestart_book _ s)
  · exact id
  · exact id
  · exact fun _ => warmRestart_book _ s
  · exact .inl rfl
  · rw [hs]
    exact .inr (.inr (by decide : (CellState.draining, CellState.ready) ∈ quietCellMoves))
  · rw [hs, warmRestart_state]
    cases s.cell.committed <;> exact .inr (.inr (by decide))

theorem judgeQuiet_received (s t : State) : Received t (State.judgeQuiet s t) := by
  unfold State.judgeQuiet
  split
  · exact .refl t
  · exact actQuiet_received t

theorem busRx_received (a : Assembly) (s : State) : Received s { s with bus := { s.bus with rx := a } } :=
  ⟨(busRx_lasts a s).toShows, rfl, rfl, (busRx_lasts a s).orders, .inl rfl, id, .inl rfl⟩

theorem busGap_received (s : State) : Received s s.busGap := by
  unfold State.busGap
  split
  · exact .refl s
  · exact (busRx_received _ s).trans (raiseFault_work _ _ _ _).taken.received

theorem busBytes_received (bs : List Byte) (s : State) : Received s (s.busBytes bs) := by
  induction bs generalizing s with
  | nil => exact .refl s
  | cons b bs ih =>
    unfold State.busBytes
    refine Received.trans ?_ (ih _)
    dsimp only
    split
    · exact busRx_received _ s
    · exact ((busRx_received _ s).trans (busFrameEnds_taken _ _).received).trans (judgeQuiet_received _ _)

/-! ### Runs of bytes without an Arrival (R190, R195) -/

/-- A record that is no Arrival keeps what lasts of every item. -/
theorem recordOwner_lasts {kind : Nat} (h : kind ≠ 0x01) (body : List Byte) (n : Nat) (s : State) :
    Lasts s (State.recordOwner kind body n s) := by
  unfold State.recordOwner
  split
  · exact absurd rfl h
  · exact (mergeReady_work s).lasts
  · exact (divert_work _ _ s).lasts
  · exact (pass_work _ s).lasts
  · exact (delivered_work _ _ s).lasts
  · exact releaseFailed_lasts _ s
  · exact (benchOpen_work n s).lasts
  · exact (benchClose_work n s).lasts
  · exact (baseFitted_work n s).lasts
  · exact (pocketFitted_work n s).lasts
  · exact (placed_work _ n s).lasts
  · exact (placeRefused_work _ _ n s).lasts
  · exact (returned_work _ n s).lasts
  · exact (pulled_work _ n s).lasts
  · exact (hamperSealed_work n s).lasts
  · exact (hamperOut_work n s).lasts
  · exact (unpacked_work n s).lasts
  · exact .refl s

theorem busFrameEnds_lasts {e : FrameEnd} (h : ∀ addr tag body, e ≠ .good (addr :: tag :: 0x01 :: body)) (s : State) :
    Lasts s (s.busFrameEnds e) := by
  unfold State.busFrameEnds
  split
  · exact (raiseFault_work _ _ _ s).lasts
  · exact (raiseFault_work _ _ _ s).lasts
  · rename_i addr tag kind body
    split
    · refine fieldRecord_lasts _ _ (fun n u => recordOwner_lasts (fun hk => ?_) body n u) s
      exact h addr tag body (by rw [show kind = 0x01 from BitVec.eq_of_toNat_eq hk])
    · exact (raiseFault_work _ _ _ s).lasts
  · exact .refl s

/-- R204: a frame being assembled on the cell bus is not disturbed by what the quiet condition does. -/
theorem judgeQuiet_rx (s t : State) : (State.judgeQuiet s t).bus.rx = t.bus.rx := by
  unfold State.judgeQuiet
  split
  · rfl
  · rcases actQuiet_cases t with h | ⟨-, h⟩ | ⟨-, h⟩ <;> rw [h]
    · rfl
    · exact (judgeLanes_work _).rx.trans (sendRestarts_work (t.cleared .ofBoundary)).rx

theorem busBytes_lasts (bs : List Byte) (s : State)
    (h : ∀ addr tag body, FrameEnd.good (addr :: tag :: 0x01 :: body) ∉ framesIn 3 1027 s.bus.rx bs) :
    Lasts s (s.busBytes bs) := by
  induction bs generalizing s with
  | nil => exact .refl s
  | cons b bs ih =>
    unfold State.busBytes
    simp only [framesIn, List.mem_append, Option.mem_toList, not_or] at h
    dsimp only
    split
    · exact (busRx_lasts _ s).trans (ih _ fun addr tag body => (h addr tag body).2)
    · rename_i e he
      refine (((busRx_lasts _ s).trans (busFrameEnds_lasts (fun addr tag body g => ?_) _)).trans
        (judgeQuiet_lasts _ _)).trans (ih _ fun addr tag body => ?_)
      · exact (h addr tag body).1 (g ▸ he)
      · rw [judgeQuiet_rx, (busFrameEnds_taken _ _).rx]
        exact (h addr tag body).2

/-! ### The cutoff check (R29) -/

/-- The waves after one is cut. -/
theorem cutWave_wave (n m : Nat) : (s.cutWave n).wave? m = if m =
    n then (s.wave? m).map (fun x => { x with state := .cut }) else s.wave? m := by
  have e : (s.cutWave n).waves = (s.updWave n (fun x => { x with state := .cut })).waves := by
    unfold State.cutWave
    dsimp only
    split <;> rfl
  unfold State.wave?
  rw [e]
  split
  · rename_i h; subst h; exact look_amend_same (by intro x; rfl) _
  · rename_i h; exact look_amend_other (by intro x; rfl) h _

/-- R29: a wave after its cutoff check. -/
def cutChecked (s : State) (w : Wave) : Wave := { w with state :=
        match w.state with
        | .planned => if w.cutoff.getD 0 ≤ s.clock.minute then .cut else .planned
        | .cut => if w.cutoff.getD 0 ≤ s.clock.minute then .cut else .planned
        | .unused => .unused
        | .departed => .departed }

/-- The waves after a cutoff check. -/
theorem cutoffCheck_wave (n m : Nat) (hc : s.clock.isSet = true) :
    (s.cutoffCheck n).wave? m = if m = n then (s.wave? m).map (cutChecked s) else s.wave? m := by
  unfold State.cutoffCheck
  by_cases hcut : s.cutNow n = true
  · rw [if_pos hcut, cutWave_wave]
    split
    · rename_i h; subst h
      unfold State.cutNow at hcut
      cases hw : s.wave? m with
      | none => rfl
      | some x =>
        simp only [hw, hc, Bool.true_and, Bool.and_eq_true, beq_iff_eq, State.reached, decide_eq_true_eq] at hcut
        simp [cutChecked, hcut.1, hcut.2]
    · rfl
  · rw [if_neg hcut]
    by_cases hun : s.uncutNow n = true
    · rw [if_pos hun]
      by_cases h : m = n
      · subst h; rw [if_pos rfl]
        refine (look_amend_same (by intro x; rfl) _).trans ?_
        show (s.wave? m).map _ = _
        unfold State.uncutNow at hun
        cases hw : s.wave? m with
        | none => rfl
        | some x =>
          simp only [hw, hc, Bool.true_and, Bool.and_eq_true, beq_iff_eq, State.reached, Bool.not_eq_true', decide_eq_false_iff_not] at hun
          simp [cutChecked, hun.1, hun.2]
      · rw [if_neg h]; exact look_amend_other (by intro x; rfl) h _
    · rw [if_neg hun]
      split
      · rename_i h; subst h
        cases hw : s.wave? m with
        | none => rfl
        | some x =>
          unfold State.cutNow at hcut; unfold State.uncutNow at hun
          simp only [hw, hc, Bool.true_and, State.reached] at hun hcut
          simp only [Option.map_some, Option.some.injEq]
          rcases x with ⟨a, st, l, cu⟩
          cases st <;> simp_all [cutChecked]
      · rfl

/-! ### Expiry (R143) -/

/-- A CHILLED item whose deadline is reached. -/
def Due (s : State) (i : Item) : Prop := i.cls = .chilled ∧ ∃ d, i.deadline = some d ∧ d ≤ s.clock.minute

/-- The dwell pass finds the items due and not yet marked. -/
theorem due_iff (i : Item) : s.dwellDue i = true ↔ Due s i ∧ i.expired = false := by
  unfold State.dwellDue Due State.reached
  cases i.deadline with
  | none => simp
  | some _ => simp; tauto

/-- Work leaves what is due. -/
theorem due_kept {i j : Item} (h : Work s t) (k : ItemKept i j) : Due t j ↔ Due s i := by
  unfold Due; rw [k.cls, k.deadline, h.clock]

/-- An item the dwell pass handles is marked. -/
theorem expireItem_marks (hi : s.Inv) (tag : Nat) (j) (hj : j ∈ (s.expireItem tag).items) (ht :
    j.tag = tag) (hd : Due (s.expireItem tag) j) : j.expired = true := by
  obtain ⟨i, hi', hk⟩ := (expireItem_work tag s).items j hj
  have hd' := (due_kept (expireItem_work tag s) hk).1 hd
  by_cases he : i.expired = true
  · exact hk.expired he
  · have e : s.item? tag = some i := by rw [← ht, hk.tag]; exact item_of_mem hi hi'
    unfold State.expireItem at hj
    rw [e] at hj
    have : s.dwellDue i = true := (due_iff i).2 ⟨hd', by simpa using he⟩
    simp only [this, if_true] at hj
    have w := Work.after (withdrawExpired_work i _) (raiseFault_work .dwellExpired { i.ctx with slot := i.alloc.map (·.slot), bench := i.alloc.map (·.bench) } (s.dwellDetail i) (s.updItem tag (fun x => { x with expired := true })))
    obtain ⟨i2, hi2, hk2⟩ := w.items j hj
    apply hk2.expired
    obtain ⟨q, hq, rfl⟩ := List.mem_map.1 hi2
    have h2 := hk2.tag
    by_cases hqt : q.tag = tag
    · have : (q.tag == tag) = true := by simpa using hqt
      simp [this]
    · exfalso
      have : (q.tag == tag) = false := by simpa using hqt
      simp only [this] at h2
      exact hqt (h2.symm.trans ht)

end Sys2Proof.Machine
end

