-- ==== Sys2Proof/WellFormed.lean ====
section
/-! DEFINITION. Well-formed commands: every operand fits the field that carries it (R197 to R201), and the numbers of a block's own step name a part of the block. -/

namespace Sys2Proof

/-- A number fits a field of `bytes` bytes (R197). -/
def fitsIn (bytes n : Nat) : Bool := decide (n < 256 ^ bytes)

/-- A present value of an optional field is not the all-ones value, which stands for absent (R197). -/
def optFitsIn (bytes : Nat) : Option Nat → Bool
  | none => true
  | some n => decide (n + 1 < 256 ^ bytes)

/-- A body is 0 to 1,024 bytes (R198, R199). -/
def bodyFits (body : List Byte) : Bool := decide (body.length ≤ 1024)

/-- A number between two others, both included. -/
def within (lo hi n : Nat) : Bool := decide (lo ≤ n ∧ n ≤ hi)

/-- A request with no enumerated field has none out of its values. -/
def ReqHead.plain (rq : ReqHead) : Bool := rq.valueOk

/-- A bench of a point is one of the twelve; every other value is `other` (R57). -/
def Point.wellFormed : Point → Bool
  | .bench n => within 1 12 n
  | .buffer => true
  | .exception => true
  | .other => true

def ZonePlan.fits (z : ZonePlan) : Bool := fitsIn 1 z.slots && fitsIn 2 z.capacity

def TemplatePlan.fits (p : TemplatePlan) : Bool :=
  fitsIn 1 p.sizeClass && fitsIn 2 p.massLimit && p.base.fits && p.middle.fits && p.top.fits && p.pocket.fits

def MapField.fits (f : MapField) : Bool := fitsIn 1 f.code && fitsIn 1 f.severity

/-- A reference and a line number. -/
def orderLineFits (ref line : Nat) : Bool := fitsIn 4 ref && fitsIn 1 line

/-- Whether the operands of a command fit the record that carries it. -/
def Instr.wellFormed : Instr → Bool
  | .powerUp | .minuteTick | .clockLimit | .shortagePass | .restartForced | .boundaryRestart | .drainComplete
  | .linkFrame _ | .linkByteGap | .cellBusFrame _ | .cellBusByteGap | .unknownKind _ _ | .busy _ | .noticeFrame
  | .admitHead | .binding | .bufferRelease | .requestQueued _ | .transmitterFree | .misaddressedRecord _ _
  | .mergeReady _ | .benchOpen _ | .benchClose _ | .baseFitted _ | .pocketFitted _ | .hamperSealed _ | .hamperOut _
  | .unpacked _ => true
  | .waveCut w => within 1 8 w
  | .dwellExpired t | .placeTimeout t => within 1 65534 t
  | .placeItem b | .sealHamper b => within 1 12 b
  | .hamperRelease l => within 1 4 l
  | .getIdentity rq | .getCellStatus rq | .commitSetup rq | .startCell rq | .pauseCell rq | .stopCell rq
  | .clearHalt rq | .getRestartCauses rq | .clearRestartCauses rq | .getCounters rq | .getNotices rq => rq.plain
  | .restartCellImmediate _ | .restartCellAtBoundary _ | .setAttentionPolarity _ _ | .listOrders _ _ _ _ => true
  | .setClock rq _ | .setNoticeEnable rq _ | .acknowledgeNotices rq _ => rq.plain
  | .setWave rq w l _ => rq.plain && fitsIn 1 w && fitsIn 1 l
  | .departWave rq w => rq.plain && fitsIn 1 w
  | .getWave rq w => rq.plain && optFitsIn 1 w
  | .loadOrder _ body | .arrival _ body => bodyFits body
  | .setQuantity _ ref line required => orderLineFits ref line && fitsIn 1 required
  | .addLine _ ref sku cls required group =>
    fitsIn 4 ref && fitsIn 3 sku && fitsIn 1 cls && fitsIn 1 required && fitsIn 1 group
  | .removeLine _ ref line => orderLineFits ref line
  | .setPriority _ ref p => fitsIn 4 ref && fitsIn 1 p
  | .amendSetWave _ ref w => fitsIn 4 ref && fitsIn 1 w
  | .holdOrder rq ref | .resumeOrder rq ref | .cancelOrder rq ref | .retireOrder rq ref | .getOrder rq ref =>
    rq.plain && fitsIn 4 ref
  | .declareShort rq ref line | .restoreLine rq ref line | .closeLine rq ref line => rq.plain && orderLineFits ref line
  | .setTemplate rq n p => rq.plain && fitsIn 1 n && p.fits
  | .setBenchProfile _ b _ _ largest items vu => fitsIn 1 b && optFitsIn 1 largest && optFitsIn 1 items && optFitsIn 2 vu
  | .setCommonPool rq items vu => rq.plain && fitsIn 1 items && fitsIn 2 vu
  | .setCommonCap rq b items vu => rq.plain && optFitsIn 1 b && fitsIn 1 items && fitsIn 2 vu
  | .setLaneProfile rq lane v => rq.plain && fitsIn 1 lane && v.all (fitsIn 1)
  | .setAdmissionSchedule rq es => rq.plain && es.all (fitsIn 1)
  | .setLoop rq c l => rq.plain && optFitsIn 1 c && optFitsIn 1 l
  | .setTimers rq d s p r => rq.plain && optFitsIn 1 d && optFitsIn 1 s && optFitsIn 1 p && optFitsIn 1 r
  | .setSubstitutionGroup rq g count skus => rq.plain && fitsIn 1 g && fitsIn 1 count && skus.all (fitsIn 3)
  | .setRushFloor rq n | .setLateLane rq n | .cageSwapped rq n | .clearCounter rq n => rq.plain && fitsIn 1 n
  | .setDispatchLane rq n c m => rq.plain && fitsIn 1 n && optFitsIn 1 c && optFitsIn 1 m
  | .getItem rq t => rq.plain && match t with
    | none => true
    | some n => fitsIn 2 n
  | .getBench rq b | .getStaging rq b => rq.plain && match b with
    | none => true
    | some n => fitsIn 1 n
  | .setFaultMap _ count es _ _ _ => fitsIn 1 count && es.all MapField.fits
  | .setCounterSelect rq n codes => rq.plain && fitsIn 1 n && codes.all (fitsIn 1)
  | .getFaultRecords rq s | .clearFaultRecords rq s => rq.plain && optFitsIn 1 s
  | .divertDone _ tag p | .delivered _ tag p => fitsIn 2 tag && p.wellFormed
  | .loopPass _ tag | .releaseFailed _ tag | .placed _ tag | .placeRefused _ tag _ | .returned _ tag | .pulled _ tag =>
    fitsIn 2 tag

end Sys2Proof
end

