-- ==== Sys2Proof/Tests/Slice0.lean ====
section
/-! SUPPORT. Tests: ill-formed commands, values worked out from the spec, one step of each family on small states, and for each statement with hypotheses a state and operands that meet them. -/

set_option Elab.async false

namespace Sys2Proof.Tests

open Sys2Proof Sys2Proof.Machine

/-! ### Ill-formed commands, one for each check of WellFormed -/

def rq : ReqHead := ⟨1, true, true⟩
def rqShort : ReqHead := ⟨1, false, true⟩
def rqOdd : ReqHead := ⟨1, true, false⟩
def plan : TemplatePlan := ⟨2, 8000, ⟨2, 100⟩, ⟨2, 100⟩, ⟨2, 50⟩, ⟨2, 50⟩⟩

/-- Each refused by one check of `Instr.wellFormed`: a wave, tag, bench and dispatch lane that no part of the block
has; a field too wide for its bytes; an absent value written as a number; a flag of `valueOk` where the request has no
enumerated field; a body above 1,024 bytes; a bench above 12 as a point. -/
def illFormed : List Instr :=
  [.waveCut 9, .waveCut 0, .dwellExpired 65535, .placeTimeout 0, .placeItem 13, .sealHamper 0, .hamperRelease 5,
   .getIdentity rqOdd, .setClock rqOdd 0, .setWave rq 256 1 0, .setWave rq 1 256 0, .departWave rq 256,
   .getWave rq (some 255), .loadOrder 1 (List.replicate 1025 0), .arrival 1 (List.replicate 1025 0),
   .setQuantity rq 4294967296 1 1, .setQuantity rq 1 256 1, .setQuantity rq 1 1 256, .addLine rq 1 16777216 0 1 0,
   .addLine rq 1 1 256 1 0, .addLine rq 1 1 0 256 0, .addLine rq 1 1 0 1 256, .removeLine rq 1 256,
   .setPriority rq 1 256, .amendSetWave rq 1 256, .holdOrder rq 4294967296, .declareShort rq 1 256,
   .setTemplate rq 256 plan, .setTemplate rq 1 { plan with massLimit := 65536 },
   .setTemplate rq 1 { plan with pocket := ⟨256, 0⟩ }, .setBenchProfile rq 256 none none none none none,
   .setBenchProfile rq 1 none none (some 255) none none, .setBenchProfile rq 1 none none none none (some 65535),
   .setCommonPool rq 1 65536, .setCommonCap rq (some 255) 1 1, .setLaneProfile rq 1 [256],
   .setAdmissionSchedule rq [256], .setLoop rq (some 255) none, .setTimers rq none none none (some 255),
   .setSubstitutionGroup rq 1 256 [], .setSubstitutionGroup rq 1 1 [16777216], .setRushFloor rq 256,
   .setDispatchLane rq 1 none (some 255), .getItem rq (some 65536), .getBench rq (some 256), .setFaultMap rq 256 [] none none none,
   .setFaultMap rq 1 [⟨256, true, 0⟩] none none none, .setCounterSelect rq 1 [256], .getFaultRecords rq (some 255),
   .divertDone ⟨0x10, true⟩ 1 (.bench 13), .delivered ⟨0x11, true⟩ 65536 .exception, .loopPass ⟨0x10, true⟩ 65536]

theorem test_ill_formed_refused : illFormed.all (fun c => !c.wellFormed) = true := by decide +kernel

/-! ### Values worked out in the spec -/

/-- R188: "The check value of this code over the nine ASCII bytes 123456789 is 0x29B1". -/
theorem test_crc_check_value : crc16 [0x31, 0x32, 0x33, 0x34, 0x35, 0x36, 0x37, 0x38, 0x39] = 0x29B1#16 := by
  decide +kernel

/-- The table gives no row any bits. -/
theorem test_no_row_has_bits : decodeTableWord 16 0 = none ∧ State.reset.withFetchWord 16 0 = State.reset := ⟨rfl, rfl⟩

/-! ### Small states -/

def line (sku : Nat) (c : ItemClass) (required committed : Nat) (st : LineState := .opened) (group : Nat := 0) : Line :=
  ⟨sku, c, required, committed, 0, 0, group, st, false, 90⟩

def order (slot : Nat) (st : OrderState) (bench : Option Nat) (lines : List Line) : Order where
  slot := slot
  ref := slot + 1000
  loadSeq := slot
  priority := 1
  wave := 1
  template := 1
  state := st
  held := false
  bench := bench
  overdue := false
  late := false
  topGate := bench.map (fun _ => .opened)
  fragileBegun := false
  withdrawals := 0
  lines := lines
  sealMinute := none
  dispatchLane := none

def item (tag sku : Nat) (c : ItemClass) (loc : Location) : Item where
  tag := tag
  sku := sku
  cls := c
  mass := 500
  vu := 10
  lane := 1
  chillExit := none
  deadline := none
  expired := false
  location := loc
  locBench := none
  withdrawal := none
  laps := 0
  dest := none
  alloc := none
  wait := .none
  hold := .none
  outstanding := .none
  entrySeq := 0

def zone (capacity slots : Nat) : ZoneRec := ⟨capacity, capacity, false, 0, List.replicate slots .free⟩

/-- A hamper of `plan`, empty. -/
def hamper : Hamper := ⟨1, 8000, 0, zone 100 2, zone 100 2, zone 50 2, zone 50 2, false, .none, []⟩

def bench (b : Nat) (st : BenchState) (slot : Option Nat := none) (h : Option Hamper := none) : Bench :=
  ⟨b, st, true, false, true, true, 4, slot, false, h⟩

/-- The part RUNNING at minute 100 with wave 1 PLANNED, wave 2 CUT, wave 3 DEPARTED, and template 1 defined, holding
the given orders, items and benches. -/
def mill (orders : List Order) (items : List Item) (benches : List Bench) : State :=
  { State.reset with
    clock := ⟨100, true⟩
    waves := [⟨1, .planned, some 1, some 200⟩, ⟨2, .cut, some 2, some 50⟩, ⟨3, .departed, some 3, some 40⟩,
      ⟨4, .planned, some 4, some 100⟩] ++ State.reset.waves.drop 4
    book := ⟨orders, 50⟩
    items := items
    benches := State.reset.benches.map (fun x => (look Bench.number x.number benches).getD x)
    templates := ⟨1, some plan⟩ :: State.reset.templates.tail
    cell := { State.reset.cell with state := .running, committed := true } }

/-- The state after a command. -/
def after (c : Instr) (s : State) : State :=
  match exec c s with
  | .next t => t
  | _ => s

/-- The body of the last reply begun. -/
def lastReply (s : State) : Option (Status × ReplyBody) :=
  match s.link.sent.getLast? with
  | some (.reply _ _ r) => some (r.status, r.body)
  | _ => none

def sorterHead : RecHead := ⟨0x10, true⟩
def bufferHead : RecHead := ⟨0x11, true⟩
def benchHead (b : Nat) : RecHead := ⟨BitVec.ofNat 8 (0x20 + b), true⟩

/-! ### The spec's worked examples -/

/-- Chapter 1, "one binding pass": slot 4 binds to bench 3, slot 11 to bench 7, slot 9 goes on waiting. -/
theorem test_binding_pass :
    let o (slot prio seq : Nat) (w : Nat) (c : ItemClass) : Order :=
      { order slot .loaded none [line 7 c 2 0] with priority := prio, loadSeq := seq, wave := w }
    let s : State := { mill [o 4 2 65530 1 .ambient, o 9 2 12 1 .ambient, o 11 3 30 2 .chilled] []
        [{ bench 3 .idle with chilledCapable := false }, bench 7 .idle] with
      book := ⟨[o 4 2 65530 1 .ambient, o 9 2 12 1 .ambient, o 11 3 30 2 .chilled], 40⟩
      waves := [⟨1, .planned, some 1, some 1300⟩, ⟨2, .planned, some 2, some 1420⟩] ++ State.reset.waves.drop 2 }
    let t := after .binding s
    t.book.orders.map (fun o => (o.slot, o.bench)) = [(4, some 3), (9, none), (11, some 7)] ∧
      t.bus.sent = [(.bench 3, .fitBase 1), (.bench 7, .fitBase 1)] ∧
      (t.waiting.map (·.slot)) = [9] := by
  decide +kernel

/-- Chapter 2, "one afternoon of three waves", minute 660: wave 1 is cut, slot 0 is OVERDUE, SEALED slot 1 is not. -/
theorem test_wave_cut_at_tick :
    let s : State := { mill [order 0 .building (some 1) [line 7 .ambient 2 1], order 1 .sealed (some 2) [line 8 .ambient 1 1]] [] [] with
      clock := ⟨659, true⟩
      waves := [⟨1, .planned, some 1, some 660⟩] ++ State.reset.waves.drop 1 }
    let t := after .minuteTick s
    t.clock.minute = 660 ∧ t.waveState 1 = .cut ∧ t.book.orders.map (·.overdue) = [true, false] ∧
      flagIn t.notices.pending .waveCut = true ∧ flagIn t.notices.pending .orderOverdue = true := by
  decide +kernel

/-- The same, minute 665: Set Wave of a CUT wave with a later cutoff makes it PLANNED again, and the reply says so. -/
theorem test_set_wave_reopens :
    let s : State := { mill [] [] [] with clock := ⟨665, true⟩, waves := [⟨1, .cut, some 1, some 660⟩] ++ State.reset.waves.drop 1 }
    let t := after (.setWave rq 1 1 690) s
    t.wave? 1 = some ⟨1, .planned, some 1, some 690⟩ ∧ lastReply t = some (.ok, .waveState .planned) := by
  decide +kernel

/-- Chapter 3, "one admission scan": tag 51 is rejected, tag 58 admitted, the pointer goes to 7 and the flag is clear. -/
theorem test_admission_scan :
    let s : State := { mill [] [{ item 51 1 .chilled .atLane with expired := true }, item 58 2 .ambient .atLane,
        item 62 3 .ambient .atLane] [] with
      lanes := State.reset.lanes.map (fun l =>
        { l with queue := if l.number = 1 then [51, 58] else if l.number = 3 then [62] else [] })
      admission := ⟨defaultSchedule, 4, false⟩ }
    let t := after (.mergeReady sorterHead) s
    t.items.map (·.tag) = [58, 62] ∧ t.admission.pointer = 7 ∧ t.admission.mergeFree = false ∧
      t.bus.sent = [(.lane 1, .laneReject 51 .expired), (.lane 1, .admitTag 58), (.sorter, .route 58 none)] := by
  decide +kernel

/-- Orders A, B and C of chapter 4, "one item, three orders": tag 905 at the minute 1,000. -/
def threeOrders : State :=
  let o (slot prio w b : Nat) (l : Line) (required committed : Nat) : Order :=
    { order slot .building (some b) [l, line 1 .heavy (required - l.required) (committed - l.committed)] with
      priority := prio, wave := w }
  { mill [o 3 1 3 10 (line 40112 .ambient 2 0) 20 0, o 12 1 1 2 (line 40112 .ambient 3 1) 10 4,
      o 20 2 2 6 (line 40112 .ambient 2 1) 6 5] [{ item 905 40112 .ambient .onLoop with mass := 850, vu := 25, lane := 3 }]
      [bench 10 .building (some 3) (some { hamper with middle := zone 400 8, base := zone 100 6 }),
        bench 2 .building (some 12) (some { hamper with middle := zone 300 8, base := zone 100 4 }),
        bench 6 .building (some 20) (some { hamper with middle := zone 300 8 })] with
    clock := ⟨1000, true⟩
    waves := [⟨1, .planned, some 1, some 1180⟩, ⟨2, .planned, some 2, some 1900⟩, ⟨3, .cut, some 3, some 950⟩] ++
      State.reset.waves.drop 3 }

/-- The scores 5,128 of C, 4,524 of A and 2,796 of B. -/
theorem test_scores : threeOrders.book.orders.map threeOrders.score = [5128, 4524, 2796] := by decide +kernel

/-- C wins: its line, hamper, chute and the item record after the commit. -/
theorem test_direct_commit :
    let t := threeOrders.runAllocation 905
    (t.item? 905).map (fun i => (i.alloc, i.hold, i.dest)) =
        some (some ⟨3, 1, 10, 0, .middle, 7⟩, .chute 10, some (.bench 10)) ∧
      ((t.order? 3).bind (·.lines[0]?)).map (fun l => (l.committed, l.state, l.lastProgress)) = some (1, .opened, 1000) ∧
      (t.hamper? 10).map (fun h => (h.mass, h.middle.committed)) = some (850, 25) ∧
      (t.chute? 10).map (fun c => (c.freeItems, c.freeVu)) = some (5, 275) ∧
      t.bus.sent = [(.sorter, .route 905 (some (.bench 10)))] := by
  decide +kernel

/-- The same item with bench 10 full: A takes it on common credits. -/
theorem test_common_commit :
    let s : State := { threeOrders with
      pool := ⟨32, 1600, 12, 610⟩
      chutes := State.reset.chutes.map (fun c : Chute =>
        if c.bench = 10 then { c with freeItems := 0, heldItems := 8, heldVu := 310 }
        else if c.bench = 2 then { c with freeItems := 1, freeVu := 20, heldItems := 2, heldVu := 75 } else c) }
    let t := s.runAllocation 905
    (t.item? 905).map (fun i => (i.hold, i.dest)) = some (.common 2, some .buffer) ∧ t.pool = ⟨32, 1600, 11, 585⟩ ∧
      (t.chute? 2).map (fun c => (c.heldItems, c.heldVu)) = some (3, 100) := by
  decide +kernel

/-- Chapter 4, "a substitute chosen by rank": G at rank 1 goes before F at rank 2 though F's score is greater. -/
theorem test_substitute_by_rank :
    let o (slot b : Nat) (prio : Nat) (l : Line) : Order := { order slot .building (some b) [l] with priority := prio }
    let x (b slot : Nat) : Bench := bench b .building (some slot) (some { hamper with pocketZone := zone 60 4 })
    let s : State := { mill [o 22 9 2 (line 71008 .chilled 12 7 .short 9), o 40 12 1 (line 71020 .chilled 6 2 .short 14)]
        [{ item 2017 71005 .chilled .onLoop with lane := 5, vu := 12 }] [x 9 22, x 12 40] with
      groups := State.reset.groups.map (fun g : Group => { g with skus :=
        if g.number = 9 then [71002, 71005, 71010] else if g.number = 14 then [71005, 71006] else [] }) }
    let t := s.runAllocation 2017
    (t.item? 2017).map (fun i => (i.alloc.map (fun a => (a.slot, a.line, a.rank)), i.wait, i.hold)) =
        some (some (40, 1, 1), .pocket, .common 12) ∧
      (t.hamper? 12).map (·.pocket) = some .requested ∧
      t.bus.sent = [(.sorter, .route 2017 (some .buffer)), (.bench 12, .fitPocket)] := by
  decide +kernel

/-- Chapter 5, "two places on the release list": 90 to EXCEPTION, then 80 to bench 5, and the pointer to 5. -/
theorem test_two_places :
    let staged (tag slot b : Nat) (w : WaitCause) : Item :=
      { item tag 7 .ambient .inBuffer with alloc := some ⟨slot, 1, b, 0, .middle, 3⟩, wait := w, hold := .common b }
    let s : State := { mill [order 1 .building (some 2) [line 7 .ambient 3 2], order 2 .building (some 4) [line 7 .ambient 3 1],
          order 3 .building (some 5) [line 7 .ambient 3 1]]
        [staged 70 1 2 .none, { staged 71 1 2 .none with entrySeq := 1 }, staged 75 2 4 .topGate, staged 80 3 5 .none,
          item 90 9 .ambient .inBuffer] [] with
      entryCounter := 2
      arbiter := ⟨[], [], 3⟩ }
    let t := after .bufferRelease s
    t.arbiter = ⟨[(90, .exception), (80, .bench 5)], [], 5⟩ ∧
      (after (.delivered bufferHead 90 .exception) t).arbiter = ⟨[(80, .bench 5), (70, .bench 2)], [], 2⟩ := by
  decide +kernel

/-- Chapter 6, "a zone clamped by NO_ROOM": MIDDLE after Place Refused of tag 905 with NO_ROOM. -/
theorem test_no_room_clamps :
    let i := { item 905 7 .ambient .inChute with
      vu := 25, locBench := some 2, alloc := some ⟨12, 1, 2, 0, .middle, 3⟩, hold := .chute 2, outstanding := .place 99 }
    let s : State := mill [order 12 .building (some 2) [line 7 .ambient 4 4]] [i]
      [bench 2 .building (some 12) (some { hamper with
        mass := 3000, middle := ⟨300, 300, false, 165, [.reserved, .filled]⟩, places := [⟨905, false⟩] })]
    let t := after (.placeRefused (benchHead 2) 905 .noRoom) s
    (t.hamper? 2).map (fun h => (h.middle.committed, h.middle.capacity, h.middle.clamped)) = some (140, 140, true) ∧
      t.items = [] ∧ ((t.order? 12).bind (·.lines[0]?)).map (·.committed) = some 3 := by
  decide +kernel

/-- Chapter 8, "a cage fills and is swapped": lanes and marks after Sealed at bench 8 and at bench 6. -/
theorem test_cage_fills :
    let o (slot b w : Nat) : Order := { order slot .complete (some b) [line 7 .ambient 1 1] with wave := w }
    let s : State := { mill [o 20 8 5, o 31 6 7] [] [bench 8 .sealing (some 20) (some hamper), bench 6 .sealing (some 31) (some hamper)] with
      waves := State.reset.waves.map (fun w => if w.number = 5 then ⟨5, .planned, some 2, some 300⟩
        else if w.number = 7 then ⟨7, .departed, some 1, some 50⟩ else w)
      dispatch := State.reset.dispatch.map (fun d => if d.number = 2 then ⟨2, 3, 1, 1, 3, false, []⟩
        else if d.number = 4 then { d with count := 6 } else d) }
    let t := after (.hamperSealed (benchHead 8)) s
    let u := after (.hamperSealed (benchHead 6)) s
    t.dispatchLane? 2 = some ⟨2, 3, 1, 2, 3, true, []⟩ ∧ flagIn t.notices.pending .cageFull = true ∧
      (t.bench? 8).map (·.state) = some .releasing ∧ (u.order? 31).map (fun p => (p.late, p.dispatchLane)) = some (true, some 4) ∧
      (u.faults.severities.filterMap (·.first)).map (fun r => (r.kind, r.detail)) = [(.lateHamper, 7)] := by
  decide +kernel

/-- The same, Hamper Out at bench 8 (CAGE_MATCH) and Cage Swapped, whose reply carries 3. -/
theorem test_cage_match_and_swap :
    let o : Order := { order 20 .sealed (some 8) [line 7 .ambient 1 1] with dispatchLane := some 2 }
    let s : State := { mill [o] [] [bench 8 .releasing (some 20) (some hamper)] with
      dispatch := State.reset.dispatch.map (fun d => if d.number = 2 then ⟨2, 3, 2, 1, 3, true, []⟩ else d) }
    let t := after (.hamperOut (benchHead 8)) s
    let u := after (.cageSwapped rq 2) t
    t.dispatchLane? 2 = some ⟨2, 3, 3, 0, 3, true, []⟩ ∧ flagIn t.notices.pending .cageMatch = true ∧
      (t.bench? 8).map (·.state) = some .idle ∧ (t.order? 20).map (·.state) = some .dispatched ∧
      u.dispatchLane? 2 = some ⟨2, 3, 0, 0, 3, false, []⟩ ∧ lastReply u = some (.ok, .cageCount 3) := by
  decide +kernel

/-- R200: an Arrival body written out byte by byte, tag 0x1234 of SKU 40,112, joins lane 3's queue with 25 VU. -/
theorem test_arrival_bytes :
    let t := after (.arrival 3 [0x34, 0x12, 0xB0, 0x9C, 0x00, 0x00, 0x52, 0x03, 0x7E, 0x09, 0xFF, 0xFF]) (mill [] [] [])
    t.items.map (fun i => (i.tag, i.sku, i.cls, i.mass, i.vu, i.lane)) = [(0x1234, 40112, .ambient, 850, 25, 3)] ∧
      (t.lane? 3).map (·.queue) = some [0x1234] := by
  decide +kernel

/-- R190, R200: the same Arrival as a cell bus frame, byte by byte, with its tag byte 0: the frame acts as its record. -/
theorem test_arrival_frame :
    let body : List Byte := [0x34, 0x12, 0xB0, 0x9C, 0x00, 0x00, 0x52, 0x03, 0x7E, 0x09, 0xFF, 0xFF]
    let t := after (.cellBusFrame (busFrameBytes 3 0 0x01 body)) (mill [] [] [])
    t.items = (after (.arrival 3 body) (mill [] [] [])).items ∧ (t.lane? 3).map (·.queue) = some [0x1234] := by
  decide +kernel

/-- R201: a Load Order body written out byte by byte takes slot 0. -/
theorem test_load_order_bytes :
    let t := after (.loadOrder 5 [0x78, 0x56, 0x34, 0x12, 2, 1, 1, 1, 0xB0, 0x9C, 0x00, 2, 3, 31]) (mill [] [] [])
    t.book.orders.map (fun o => (o.slot, o.ref, o.priority, o.loadSeq)) = [(0, 0x12345678, 2, 50)] ∧
      t.book.orders.map (fun o => o.lines) = [[⟨40112, .fragile, 3, 0, 0, 0, 31, .opened, false, 100⟩]] ∧
      lastReply t = some (.ok, .slot 0) := by
  decide +kernel

/-- R187, R188, R194: a Get Identity frame, byte by byte, is queued; its reply, and that of one with a body. -/
theorem test_identity_frame :
    let s : State := after (.requestQueued (hostFrameBytes 7 0x01 [])) State.reset
    let t : State := after (.requestQueued (hostFrameBytes 7 0x01 [0])) State.reset
    s.link.queue = [⟨7, 0x01, .waiting (.getIdentity ⟨7, true, true⟩)⟩] ∧
      lastReply (after (.getIdentity ⟨7, true, true⟩) s) = some (.ok, .identity 0x0D5B 0x0C12 3) ∧
      lastReply (after (.getIdentity ⟨7, false, true⟩) t) = some (.badLength, .none) := by
  decide +kernel

/-- R188, R189, R201: a Load Order frame is queued with its body; a Load Order of the same tag with another body is not its
hand-over and joins the queue behind it; its own hand-over then answers it, and the other is the oldest. -/
theorem test_load_order_frame :
    let body : List Byte := [0x78, 0x56, 0x34, 0x12, 2, 1, 1, 1, 0xB0, 0x9C, 0x00, 2, 3, 31]
    let s : State := after (.requestQueued (hostFrameBytes 5 0x20 body)) (mill [] [] [])
    let t := after (.loadOrder 5 []) s
    let u := after (.loadOrder 5 body) t
    s.link.queue = [⟨5, 0x20, .waiting (.loadOrder 5 body)⟩] ∧ t.book = s.book ∧
      t.link.queue = s.link.queue ++ [⟨5, 0x20, .waiting (.loadOrder 5 [])⟩] ∧ lastReply u = some (.ok, .slot 0) ∧
      u.link.queue = [⟨5, 0x20, .waiting (.loadOrder 5 [])⟩] := by
  decide +kernel

/-- R197, with the widths of R200 and R202: a tag and a SKU least significant byte first, a class by its code, an absent
zone and an absent minute all ones. -/
theorem test_field_bytes : OutRecord.body (.admitTag 0x1234) = [0x34, 0x12] ∧ skuBytes 0x0A0B0C = [0x0C, 0x0B, 0x0A] ∧
    classBytes .chilled = [3] ∧ zoneBytesOpt none = [0xFF] ∧ minuteBytesOpt none = [0xFF, 0xFF] := by decide +kernel

/-- R197: what a field of a request may be: absent where it is all ones in its width. -/
theorem test_absent_fields : presentIn 1 255 = none ∧ presentIn 1 254 = some 254 ∧ presentIn 2 255 = some 255 ∧
    presentIn 2 65535 = none := by decide +kernel

/-- R197: the selection of kinds 1, 9 and 17 in 3 bytes, whatever the widths of the other fields. -/
theorem test_select_set_bytes : kindSetBytes (kindSetOf [1, 9, 17]) = [0x01, 0x01, 0x01] := by decide +kernel

/-- R190, R195, R199, R202: Place of tag 20 in slot 3 of MIDDLE at bench 1, as the part's pair carries it. -/
theorem test_place_frame :
    let covered : List Byte := [7, 0, 0x21, 0, 0xA2, 20, 0, 1, 3]
    outFrameBytes (.bench 1) (.place 20 .middle 3) = 0xA5 :: (covered ++ crcBytes covered) := by decide +kernel


/-! ### Witnesses: for each statement with hypotheses, states and operands that meet them -/

/-- The invariant as one closed check. -/
def invCheck (s : State) : Bool := decide (
  (s.waves.map Wave.number = upTo 8 ∧ s.lanes.map Lane.number = upTo 6 ∧ s.chutes.map Chute.bench = upTo 12 ∧
    s.benches.map Bench.number = upTo 12 ∧ s.templates.map Template.number = upTo 8 ∧ s.groups.map Group.number = upTo 31 ∧
    s.dispatch.map DispatchLane.number = upTo 4 ∧ s.faults.map.map MapEntry.kind = FaultKind.all ∧
    s.faults.severities.map Severity.number = [0, 1, 2] ∧ s.faults.counters.map Counter.number = [1, 2]) ∧
  ((∀ w ∈ s.waves, (w.state = .unused ↔ w.lane = none) ∧ (w.state = .unused ↔ w.cutoff = none)) ∧
    (∀ l ∈ s.lanes, l.queue.length ≤ 4) ∧ (∀ x ∈ s.benches, ∀ h ∈ x.hamper, h.places.length ≤ 4) ∧
    (∀ c ∈ s.faults.counters, c.value ≤ 127) ∧ s.book.orders.Pairwise (fun o p => o.slot < p.slot) ∧
    (∀ o ∈ s.book.orders, o.slot < 64) ∧ s.book.loadSeq < 65536 ∧ s.items.Pairwise (fun i j => i.tag < j.tag) ∧
    s.items.length ≤ 320 ∧ s.entryCounter < 4294967296) ∧
  (s.admission.schedule.length = 32 ∧ s.admission.pointer < 32 ∧ s.arbiter.releases.length ≤ 2 ∧
    s.arbiter.heldBack.Pairwise (· < ·) ∧ (1 ≤ s.arbiter.pointer ∧ s.arbiter.pointer ≤ 12) ∧ s.clock.minute ≤ 65535 ∧
    ((s.cell.mode.isSome ↔ s.cell.state = .restarting) ∧ (s.cell.deadline.isSome ↔ s.cell.state = .restarting)) ∧
    (s.notices.mark = true → flagIn s.notices.pending .faultNotice = true) ∧ s.link.queue.length ≤ 4 ∧
    s.link.busyHold.length ≤ 4))

theorem inv_of_check {s : State} (h : invCheck s = true) : s.Inv := by
  obtain ⟨⟨a1, a2, a3, a4, a5, a6, a7, a8, a9, a10⟩, ⟨b1, b2, b3, b4, b5, b6, b7, b8, b9, b10⟩,
    c1, c2, c3, c4, c5, c6, c7, c8, c9, c10⟩ := of_decide_eq_true h
  exact ⟨a1, b1, a2, b2, a3, a4, fun x hx y hy => b3 x hx y hy, a5, a6, a7, a8, a9, a10, b4, b5, b6, b7, b8, b9, b10,
    c1, c2, c3, c4, c5, c6, c7, c8, c9, c10⟩

/-- A part at work: orders in each state, items at each place, benches at work. -/
def hall : State :=
  mill [order 0 .loaded none [line 7 .ambient 2 0],
      order 1 .building (some 1) [line 7 .ambient 2 1, line 8 .ambient 3 0 .short, line 9 .heavy 2 0, line 10 .ambient 1 0 .closed,
        { line 11 .ambient 2 2 .filled with shortMark := true }, line 12 .ambient 2 2 .filled],
      { order 2 .held (some 2) [line 7 .ambient 2 1] with held := true, wave := 2 },
      order 3 .complete (some 3) [line 7 .ambient 1 1], order 4 .sealed (some 4) [line 7 .ambient 1 1],
      order 5 .dispatched none [line 7 .ambient 1 1], order 6 .cancelling (some 6) [line 7 .ambient 1 0],
      { order 7 .loaded none [line 7 .ambient 1 0, line 5 .ambient 1 0] with held := true },
      order 8 .cancelled none [line 7 .ambient 1 0]]
    [{ item 20 7 .ambient .inChute with
        locBench := some 1, alloc := some ⟨1, 1, 1, 0, .middle, 3⟩, hold := .chute 1, outstanding := .place 95 },
      { item 21 7 .chilled .onLoop with deadline := some 100, dest := some (.bench 1), alloc := some ⟨1, 2, 1, 0, .pocket, 7⟩ },
      { item 22 7 .chilled .inChute with deadline := some 99, locBench := some 1 },
      { item 23 7 .chilled .inHamper with deadline := some 98, locBench := some 2, alloc := some ⟨2, 1, 2, 0, .pocket, 7⟩ },
      item 24 7 .ambient .atLane,
      { item 25 7 .ambient .bufferToChute with alloc := some ⟨1, 3, 1, 0, .middle, 4⟩, hold := .both 1 }]
    [bench 1 .building (some 1) (some { hamper with places := [⟨20, false⟩] }), bench 2 .building (some 2) (some hamper),
      bench 3 .sealing (some 3) (some hamper), bench 4 .holding (some 4) (some hamper), bench 6 .unpacking (some 6) (some hamper),
      bench 12 .idle]

theorem hall_inv : hall.Inv := inv_of_check (by decide +kernel)

/-- The part in another cell state. -/
def inCell (c : CellState) (s : State) : State :=
  { s with cell := { s.cell with
    state := c
    mode := if c = .restarting then some .atBoundary else none
    deadline := if c = .restarting then some 100 else none } }

/-- The part with the link at work: the transmitter busy, and the given queue and BUSY replies. -/
def linked (q : List QueuedRequest) (b : List (Byte × Byte)) (tx : Option HostFrame) (s : State) : State :=
  { s with link := ⟨none, q, b, tx, []⟩ }

def waitingRequest (tag : Byte) : QueuedRequest := ⟨tag, 0x01, .waiting (.getIdentity ⟨tag, true, true⟩)⟩
def madeReply (tag : Byte) : QueuedRequest := ⟨tag, 0x01, .answered ⟨.ok, .none⟩⟩

/-- Every request of the right length is handed over where the queue is empty. -/
theorem takes {s : State} {c : Instr} {r : ReqHead} {kind : Byte} (h : s.link.queue = [])
    (hc : requestOf c = some (r, kind)) (hl : r.lengthOk = true) : s.Takes c :=
  (takes_iff hc).2 ⟨by simp [State.inTurn, h], hl⟩
def busyTx : Option HostFrame := some (.notice 0 0)

theorem witness_StepRunsFrontCommand :
    { hall with pending := [.binding, .powerUp] }.pending = .binding :: [.powerUp] ∧ hall.pending = [] := ⟨rfl, rfl⟩

theorem witness_EveryStepKeepsInvariant : hall.Inv ∧ ∃ t, step hall = .next t := ⟨hall_inv, _, rfl⟩

theorem witness_SettingsChangeOnlyByTheirRequests :
    configures .minuteTick = false ∧ ∃ t, exec .minuteTick hall = .next t := ⟨rfl, _, rfl⟩

theorem witness_OrdersLastAndMoveAlongTheTable : hall.Inv ∧ (∃ t, exec (.holdOrder rq 1001) hall = .next t ∧ t.book.orders ≠ []) :=
  ⟨hall_inv, after (.holdOrder rq 1001) hall, rfl, by decide +kernel⟩

/-- A command of one block, and a run of bytes: a Merge Ready whole, and a bad tag byte. -/
theorem witness_TrackedItemsKeepWhatArrivalGave : (∃ t, exec .admitHead hall = .next t ∧ t.items ≠ []) ∧
    (let run := busFrameBytes 0x10 0 0x10 [] ++ busFrameBytes 1 1 0x10 []
     (∃ t, exec (.cellBusFrame run) hall = .next t) ∧
      framesIn 3 1027 hall.bus.rx run = [.good [0x10, 0, 0x10], .good [1, 1, 0x10]]) ∧
    framesIn 3 1027 none (busFrameBytes 1 0 0x01 []) = [.good [1, 0, 1]] :=
  ⟨⟨after .admitHead hall, rfl, by decide +kernel⟩, ⟨⟨_, rfl⟩, by decide +kernel⟩, by decide +kernel⟩

theorem witness_CellStateChangeIsNotified :
    ∃ t, exec (.pauseCell rq) hall = .next t ∧ t.cell.state ≠ hall.cell.state :=
  ⟨after (.pauseCell rq) hall, rfl, by decide +kernel⟩

/-- Moves of each kind: by a table, by the quiet condition, at a restart's boundary, and at once. -/
theorem witness_CellMovesOnlyByTheTables :
    ∀ p ∈ [(CellState.paused, Instr.startCell rq, CellState.running), (.running, .pauseCell rq, .paused),
      (.draining, .drainComplete, .ready), (.restarting, .boundaryRestart, .ready), (.running, .restartCellAtBoundary rq, .ready),
      (.restarting, .restartCellAtBoundary rq, .restarting)],
      ∃ t, exec p.2.1 (inCell p.1 (mill [] [] [])) = .next t ∧ t.cell.state = p.2.2 := by
  intro p hp
  simp only [List.mem_cons, List.not_mem_nil, or_false] at hp
  obtain rfl | rfl | rfl | rfl | rfl | rfl := hp <;> exact ⟨_, rfl, by decide +kernel⟩

theorem witness_ClockLoadCounterAndSeenSetChangeByTheirEvents : ∃ t, exec .bufferRelease hall = .next t ∧
    kindIn (hall.raiseFault .noHome FaultCtx.empty 0).faults.seen .noHome = true :=
  ⟨after .bufferRelease hall, rfl, by decide +kernel⟩

/-- Quiet and not quiet, a deadline reached, a field out of its values, each cell state; events that change the occupancy
or the cell state, and one that changes neither. -/
theorem witness_RestartsAndDrainCompleteTakeEffect :
    let empty := mill [] [] []
    (hall.Takes (.restartCellImmediate rq) ∧ rq.valueOk = true ∧ hall.Takes (.restartCellAtBoundary rqOdd) ∧
      rqOdd.valueOk = false) ∧
    ((inCell .restarting empty).quiet = true ∧ (inCell .draining empty).quiet = true) ∧
    ((inCell .restarting hall).quiet = false ∧ (inCell .restarting hall).cell.deadline = some 100 ∧
      hall.clock.minute = 100 ∧ hall.clock.isSet = true) ∧
    (∀ c ∈ [CellState.setup, .ready, .running, .paused, .draining, .halted, .restarting], (inCell c hall).cell.state = c ∧
      (inCell c hall).Takes (.restartCellAtBoundary rq)) ∧
    ((inCell .draining hall).occupancy ≠ empty.occupancy ∧ empty.cell.state ≠ (inCell .restarting empty).cell.state ∧
      empty.outstandingCount = empty.outstandingCount ∧ empty.quiet = true) ∧
    (hall.benches.map Bench.instructionOut).take 6 = [false, false, true, false, false, true] :=
  ⟨⟨takes rfl rfl rfl, rfl, takes rfl rfl rfl, rfl⟩, by decide +kernel, by decide +kernel, fun _ _ => ⟨rfl, takes rfl rfl rfl⟩,
    by decide +kernel⟩

/-- Every cell state with every command; the setup complete and not; the clock set and not. -/
theorem witness_CellCommandsFollowTheTable :
    (∀ c ∈ [CellState.setup, .ready, .running, .paused, .draining, .halted, .restarting], (inCell c hall).cell.state = c ∧
      ∀ k, requestOf k = some (rq, 0x03) ∨ requestOf k = some (rq, 0x04) ∨ requestOf k = some (rq, 0x05) ∨
        requestOf k = some (rq, 0x06) ∨ requestOf k = some (rq, 0x07) → (inCell c hall).Takes k) ∧
    ((∃ x ∈ hall.templates, x.plan ≠ none) ∧ (∃ w ∈ hall.waves, w.state ≠ .unused) ∧ hall.clock.isSet = true) ∧
    (State.reset.Takes (.commitSetup rq) ∧ State.reset.Takes (.startCell rq) ∧ State.reset.cell.state = .setup ∧
      State.reset.clock.isSet = false ∧ (∀ x ∈ State.reset.templates, x.plan = none) ∧
      ∀ w ∈ State.reset.waves, w.state = .unused) ∧
    ∃ v ∈ hall.faults.severities, v.action ≠ .halt :=
  ⟨fun _ _ => ⟨rfl, fun _ hk => by obtain h | h | h | h | h := hk <;> exact takes rfl h rfl⟩, by decide +kernel,
    ⟨takes rfl rfl rfl, takes rfl rfl rfl, by decide +kernel⟩, by decide +kernel⟩

theorem witness_NoSeverityHalts : ∀ v ∈ ({ hall with faults := { hall.faults with
    severities := hall.faults.severities.map (fun v => { v with action := .notice }) } } : State).faults.severities,
    v.action ≠ .halt := by decide +kernel

/-- The minute below and at 65,535; a tick that cuts wave 4 with an order not marked, one without, and one that cuts no
wave; an item, a Place and a restart due. -/
theorem witness_MinuteTickRunsItsChecks :
    let bound : State := hall.updOrder 0 (fun o => { o with wave := 4 })
    let early : State := { hall with clock := ⟨50, true⟩ }
    let last : State := { hall with clock := ⟨65535, true⟩ }
    (hall.Inv ∧ bound.Inv ∧ early.Inv ∧ last.Inv) ∧ State.reset.clock.isSet = false ∧
      (∃ e, last.faults.entry? .clockLimit = some e ∧ e.enabled = true) ∧
      hall.wave? 4 = some ⟨4, .planned, some 4, some 100⟩ ∧ 100 ≤ hall.clock.minute + 1 ∧
      (∃ o ∈ bound.book.orders, o.wave = 4 ∧ o.state = .loaded ∧ o.overdue = false) ∧ (∀ o ∈ hall.book.orders, o.wave ≠ 4) ∧
      (∀ w ∈ early.waves, ¬(w.state = .planned ∧ w.cutoff.getD 0 ≤ 51)) ∧
      (hall.item? 21).map (·.deadline) = some (some 100) ∧
      ((inCell .restarting hall).cell.deadline = some 100 ∧ (inCell .restarting hall).quiet = false ∧
        (inCell .restarting early).cell.deadline = some 100 ∧ (inCell .restarting (mill [] [] [])).quiet = true) :=
  ⟨⟨hall_inv, inv_of_check (by decide +kernel), inv_of_check (by decide +kernel), inv_of_check (by decide +kernel)⟩,
    by decide +kernel⟩

/-- Orders whose gate opens, shuts and stands, complete with placed units and without, and CANCELLING with one and with
two withdrawals; a stalled bench with a mark and without; items with each hold, outstanding instruction and withdrawal. -/
def yard : State :=
  mill [order 0 .loaded none [line 7 .ambient 2 0], order 1 .building (some 1) [line 7 .ambient 2 1],
      order 2 .building (some 2) [line 9 .heavy 2 1],
      { order 3 .building (some 3) [{ line 9 .heavy 1 1 .filled with placed := 1 }] with topGate := some .shut },
      order 4 .building (some 4) [line 7 .ambient 1 0 .closed], { order 5 .cancelling (some 5) [] with withdrawals := 1 },
      { order 6 .cancelling (some 6) [] with withdrawals := 2 }]
    [item 20 7 .ambient .atLane,
      { item 21 7 .ambient .inChute with
        locBench := some 1, alloc := some ⟨1, 1, 1, 0, .middle, 3⟩, hold := .chute 1, outstanding := .place 95 },
      { item 22 7 .ambient .inChute with locBench := some 5, withdrawal := some 5, hold := .common 5, outstanding := .ret 95 },
      { item 23 9 .heavy .inHamper with
        locBench := some 2, alloc := some ⟨2, 1, 2, 1, .base, 1⟩, withdrawal := some 6, hold := .both 2, outstanding := .pull 95 }]
    [{ bench 1 .building (some 1) (some { hamper with places := [⟨21, true⟩] }) with stalled := true },
      { bench 2 .building (some 2) (some hamper) with stalled := true }, bench 3 .building (some 3) (some hamper),
      bench 4 .building (some 4) (some hamper), { bench 5 .unpacking (some 5) with unpacked := true },
      bench 6 .unpacking (some 6) (some hamper)]

/-- A line in each state; `yard`, by the clauses. -/
theorem witness_SharedWorkFollowsItsRules : yard.Inv ∧
    ((yard.order? 1).bind (·.lines[0]?)).map (·.state) = some .opened ∧ (yard.lineHeavy 2 1 = true ∧ yard.lineHeavy 1 1 = false) ∧
    yard.book.orders.map (fun o => (o.bench, o.topGate)) = [(none, none), (some 1, some .opened), (some 2, some .opened),
      (some 3, some .shut), (some 4, some .opened), (some 5, some .opened), (some 6, some .opened)] ∧
    yard.book.orders.map (fun o => (o.lines.map (·.placed)).sum) = [0, 0, 0, 1, 0, 0, 0] ∧
    (yard.benches.map (fun x => (x.stalled, x.unpacked))).take 6 =
      [(true, false), (true, false), (false, false), (false, false), (false, true), (false, false)] ∧
    yard.items.map (fun i => (i.alloc.isSome, i.withdrawal, i.hold)) =
      [(false, none, .none), (true, none, .chute 1), (false, some 5, .common 5), (true, some 6, .both 2)] ∧
    yard.items.map (·.outstanding) = [.none, .place 95, .ret 95, .pull 95] :=
  ⟨inv_of_check (by decide +kernel), by decide +kernel⟩

/-- Items due at each place, with what decides there; and items left alone: AMBIENT, expired, and not yet due. -/
def cold : State :=
  let due (tag : Nat) (loc : Location) : Item := { item tag 7 .chilled loc with deadline := some 100 }
  let al (slot : Nat) : Option Alloc := some ⟨slot, 1, slot, 0, .pocket, 7⟩
  mill [order 1 .building (some 1) [line 7 .chilled 3 1], order 2 .sealed (some 2) [line 7 .chilled 1 1]]
    [due 1 .atLane, { due 2 .onLoop with alloc := al 1, dest := some (.bench 1) }, { due 3 .onLoop with dest := some .exception },
      due 4 .inBuffer, { due 5 .inBuffer with alloc := al 1 }, { due 6 .bufferToChute with alloc := al 1 },
      { due 7 .inChute with locBench := some 1 }, { due 8 .inHamper with alloc := al 1, locBench := some 1 },
      { due 9 .inHamper with alloc := al 1, locBench := some 1, outstanding := .pull 95 },
      { due 10 .inHamper with alloc := al 2, locBench := some 2 }, { due 11 .atLane with cls := .ambient },
      { due 12 .atLane with expired := true }, { due 13 .atLane with deadline := some 101 }] []

theorem witness_DwellExpiryWithdrawsItem : cold.clock = ⟨100, true⟩ ∧ State.reset.clock.isSet = false ∧
    (∃ e, cold.faults.entry? .dwellExpired = some e ∧ e.enabled = true) ∧
    (∀ i ∈ cold.items, i.tag ≤ 10 → cold.item? i.tag = some i ∧ i.cls = .chilled ∧ i.expired = false ∧ i.deadline = some 100) ∧
    cold.items.map (fun i => (i.location, i.alloc.isSome, i.dest)) = [(.atLane, false, none), (.onLoop, true, some (.bench 1)),
      (.onLoop, false, some .exception), (.inBuffer, false, none), (.inBuffer, true, none), (.bufferToChute, true, none),
      (.inChute, false, none), (.inHamper, true, none), (.inHamper, true, none), (.inHamper, true, none), (.atLane, false, none),
      (.atLane, false, none), (.atLane, false, none)] ∧
    (cold.item? 9).map (·.outstanding) = some (.pull 95) ∧ (cold.order? 1).map (·.state) = some .building ∧
    (cold.order? 2).map (·.state) = some .sealed :=
  ⟨rfl, rfl, ⟨_, rfl, rfl⟩, by decide +kernel⟩

/-- A line at the shortage limit (30 minutes), one before it; a Place at the placement limit (5 minutes), one below it, one
whose mark is set; cell states without a pass, and the clock not set. -/
theorem witness_ShortagePassAndPlaceTimeout :
    (hall.clock.isSet = true ∧ hall.working = true ∧
      (∃ o ∈ { hall with clock := ⟨120, true⟩ }.book.orders, o.state = .building ∧
        ∃ l ∈ o.lines, l.state = .opened ∧ 30 ≤ 120 - l.lastProgress) ∧
      ∀ o ∈ hall.book.orders, ∀ l ∈ o.lines, ¬(l.state = .opened ∧ 30 ≤ 100 - l.lastProgress)) ∧
    hall.Inv ∧ ∃ i x h, hall.item? 20 = some i ∧ i.outstanding = .place 95 ∧ hall.timers.placementLimit ≤ 100 - 95 ∧
      hall.placeDueAt? 20 = some x ∧ x.hamper = some h ∧
      (State.reset.clock.isSet = false ∧ (∀ c ∈ [CellState.setup, .ready, .halted, .restarting], (inCell c hall).cell.state = c) ∧
        99 - 95 < hall.timers.placementLimit ∧ ∀ e ∈ [(⟨20, true⟩ : PlaceEntry)], e.tag = 20 → e.timedOut = true) :=
  ⟨by decide +kernel, hall_inv, _, _, _, rfl, rfl, by decide, rfl, rfl, by decide +kernel⟩

/-- R127's table: the second tick raises no report, and neither does a command of the same kind. -/
theorem test_place_times_out_once :
    let t := after (.placeTimeout 20) hall
    (t.faults.severities.flatMap (fun v => v.first.toList)).map (·.kind) = [.placeTimeout] ∧
      after (.placeTimeout 20) t = t := by decide +kernel

/-- Entries with each action, enabled and not. -/
theorem witness_FaultReportIsLoggedAndActedOn :
    hall.faults.entry? .noHome = some ⟨.noHome, true, 0⟩ ∧ hall.faults.actionOf 0 = .logOnly ∧
      hall.faults.actionOf 1 = .noticeAndAttention ∧ hall.faults.actionOf 2 = .halt ∧
      ({ hall.faults with map := hall.faults.map.map (fun e : MapEntry => { e with enabled := false }) } : FaultMonitor).entry? .noHome =
        some ⟨.noHome, false, 0⟩ ∧
      ({ hall.faults with severities := hall.faults.severities.map (fun v : Severity => { v with action := .notice }) } :
        FaultMonitor).actionOf 0 = .notice ∧
      hall.cell.state = .running ∧ (inCell .setup hall).cell.state = .setup := by decide +kernel

/-- A severity with empty places, and one whose first place is taken. -/
theorem witness_LoggedReportIsRecordedSeenAndCounted :
    look Severity.number 0 hall.faults.severities = some ⟨0, .logOnly, none, none⟩ ∧
      ∃ v, look Severity.number 0 (hall.raiseFault .noHome FaultCtx.empty 0).faults.severities = some v ∧
        v.first ≠ none := ⟨by decide +kernel, _, rfl, by decide +kernel⟩

/-- Bodies of 0 and 1,024 bytes; 3 and 4 requests queued; 3 and 4 BUSY replies; the transmitter busy and free. -/
theorem witness_HostFrameIsQueuedOrAnsweredBusy :
    let q : List QueuedRequest := List.replicate 4 (waitingRequest 1)
    ([] : List Byte).length ≤ 1024 ∧ (List.replicate 1024 (0 : Byte)).length ≤ 1024 ∧
      (linked (q.drop 1) [] none hall).link.queue.length < 4 ∧
      (linked q [(1, 2), (3, 4), (5, 6)] busyTx hall).link.busyHold.length < 4 ∧ busyTx ≠ none ∧
      (linked q [] none hall).link.busyHold ++ [((1 : Byte), (2 : Byte))] = [(1, 2)] ∧
      4 ≤ (linked q (List.replicate 4 (1, 2)) none hall).link.busyHold.length ∧ 4 ≤ q.length ∧
      (linked q [] none hall).link.rx = none := by decide +kernel

/-- Lengths 1, 1,027 and 65,535; a wrong CRC; a gap inside a frame; bytes outside one. -/
theorem witness_BadHostFramesAreReported :
    hall.link.rx = none ∧ 1 < 2 ∧ (1026 < 1027 ∧ 65535 < 65536) ∧
      ([0, 0] : List Byte) ≠ crcBytes (leBytes 2 2 ++ [7, 1]) ∧ (0xA5 : Byte) ∉ ([0, 0xFF] : List Byte) ∧
      { hall.link with rx := some [2] }.rx = some [2] := by decide +kernel

/-- The request at the head with the transmitter busy and free; one handed over as it arrives; requests that are not in
their turn: behind another, of the oldest's tag and kind with another field, and with its reply made; kinds not listed,
below and above 0x80. -/
theorem witness_RepliesLeaveInRequestOrder :
    (∀ tx ∈ [none, busyTx], (linked [waitingRequest 3, waitingRequest 1] [] tx hall).link.queue =
        waitingRequest 3 :: [waitingRequest 1] ∧
        (linked [waitingRequest 3] [] tx hall).inTurn 3 0x01 (.getIdentity ⟨3, true, true⟩) = true ∧
        (linked [] [] tx hall).link.queue = [] ∧ (linked [] [] tx hall).link.busyHold = []) ∧
    (linked [waitingRequest 3, waitingRequest 1] [] busyTx hall).inTurn 1 0x01 (.getIdentity rq) = false ∧
    (linked [waitingRequest 3] [] busyTx hall).inTurn 3 0x01 (.getIdentity ⟨3, false, true⟩) = false ∧
    (linked [madeReply 1] [] busyTx hall).inTurn 1 0x01 (.getIdentity rq) = false ∧ busyTx ≠ none ∧
    ∀ k ∈ [(0x00 : Byte), 0x7F, 0x80, 0xFF], kindListed k.toNat = false ∧
      hall.inTurn 1 k (.unknownKind 1 k) = true := by decide +kernel

theorem witness_TransmitterSendsTheNextFrame :
    let due (s : State) : State := { s with notices := { s.notices with due := true } }
    hall.notices.due = false ∧ (linked [] [(1, 2)] busyTx hall).link.busyHold = (1, 2) :: [] ∧
      (due (linked [] [(1, 2)] none hall)).link.busyHold ≠ [] ∧
      (linked [madeReply 1] [] busyTx hall).link.queue = madeReply 1 :: [] ∧ (madeReply 1).stage = .answered ⟨.ok, .none⟩ ∧
      (∀ e r, (linked [waitingRequest 1] [] busyTx hall).link.queue.head? = some e → e.stage ≠ .answered r) ∧
      (due hall).notices.due = true ∧ (due hall).link.tx = none ∧ (due hall).link.busyHold = [] ∧
      (due (linked [madeReply 1] [] busyTx hall)).link.queue = madeReply 1 :: [] :=
  ⟨rfl, rfl, by decide, rfl, rfl, fun e r h => by cases h; exact RequestStage.noConfusion, rfl, rfl, rfl, rfl⟩

theorem witness_CellBusFrameIsItsRecord :
    (List.replicate 1024 (0 : Byte)).length ≤ 1024 ∧ hall.bus.rx = none ∧ (0x10 : Byte) ≠ 0x01 := by decide +kernel

/-- Lengths 2, 1,028 and 65,535; addresses that name no unit next to the ranges; kinds next to a unit's own; each unit
with a body of a wrong length; a Placed from the sorter and an Arrival from a bench. -/
theorem witness_BadFramesAndMisaddressedRecordsAreReported :
    (hall.bus.rx = none ∧ 2 < 3 ∧ (1027 < 1028 ∧ 65535 < 65536) ∧
      ([0, 0] : List Byte) ≠ crcBytes (leBytes 2 3 ++ [1, 0, 1]) ∧ (1 : Byte) ≠ 0) ∧
    (∀ a ∈ [(0x00 : Byte), 0x07, 0x0F, 0x12, 0x20, 0x2D, 0xFF], unitOf a = none) ∧
    (unitOf 0x06 = some (.lane 6) ∧ FieldUnit.sends (.lane 6) 0x02 = false ∧ unitOf 0x2C = some (.bench 12) ∧
      FieldUnit.sends (.bench 12) 0x2B = false ∧ FieldUnit.sends .sorter 0x13 = false ∧ FieldUnit.sends .buffer 0x1A = false) ∧
    unitOf 0x10 = some .sorter ∧ unitOf 0x11 = some .buffer ∧ unitOf 0x21 = some (.bench 1) ∧
    (⟨0x10, false⟩ : RecHead).lengthOk = false ∧
    (recordOf (.placed ⟨0x10, false⟩ 1) = some (0x10, 0x24) ∧ FieldUnit.sends .sorter 0x24 = false) ∧
    (recordOf (.arrival 0x21 []) = some (0x21, 0x01) ∧ FieldUnit.sends (.bench 1) 0x01 = false) ∧
    recordOf (.arrival 0x07 []) = some (0x07, 0x01) := by decide +kernel

/-- The greatest value of every field. -/
theorem witness_RecordBodiesReadBack :
    (let a : ArrivalFields := ⟨65535, 16777215, 255, 65535, 65535, some 65534⟩
     a.tag < 65536 ∧ a.sku < 16777216 ∧ a.cls < 256 ∧ a.mass < 65536 ∧ a.volume < 65536 ∧
       ∀ m ∈ a.chillExit, m < 65535) ∧
    let f : LoadFields := ⟨4294967295, 255, 255, 255, List.replicate 255 ⟨16777215, 255, 255, 255⟩⟩
    f.ref < 4294967296 ∧ f.priority < 256 ∧ f.wave < 256 ∧ f.template < 256 ∧ f.lines.length < 256 ∧
      ∀ l ∈ f.lines, l.sku < 16777216 ∧ l.cls < 256 ∧ l.required < 256 ∧ l.group < 256 := by decide +kernel

theorem witness_OutgoingBodiesFollowTheirLayouts :
    65535 < 65536 ∧ 255 < 256 ∧
      let r : FaultRecord := ⟨.noHome, 65535, ⟨some 65534, some 254, some 254, some 254, some 16777214⟩, 255⟩
      r.minute < 65536 ∧ r.detail < 256 ∧ (∀ n ∈ r.ctx.tag, n < 65535) ∧ (∀ n ∈ r.ctx.slot, n < 255) ∧
        (∀ n ∈ r.ctx.bench, n < 255) ∧ (∀ n ∈ r.ctx.lane, n < 255) ∧ ∀ n ∈ r.ctx.sku, n < 16777215 := by decide +kernel

/-- A queue of 4 requests without room, a body of the wrong length, and an order request that meets each check in its
turn: references 0, 1, 4,294,967,294 and above. -/
theorem witness_RequestsAreCheckedInOrder :
    let q : List QueuedRequest := List.replicate 4 (madeReply 1)
    (requestOf (.holdOrder rqShort 1001) = some (rqShort, 0x22) ∧ hall.inTurn rqShort.tag 0x22 (.holdOrder rqShort 1001) = true) ∧
    ((linked q [] none hall).inTurn rq.tag 0x22 (.holdOrder rq 1001) = false ∧ 4 ≤ q.length) ∧
    ((linked [waitingRequest 1] [] none hall).inTurn rq.tag 0x22 (.holdOrder rq 1001) = false ∧ [waitingRequest 1].length < 4) ∧
    ((orderRequestOf (.setPriority rq 1001 4)).map (·.1) = some false ∧ (orderRequestOf (.setPriority rq 0 3)).map (·.1) = some true ∧
      (∀ o ∈ hall.book.orders, o.ref ≠ 1 ∧ o.ref ≠ 4294967294) ∧
      ∃ o, hall.orderOf? 1003 = some o ∧ openOrder o.state = false) := by decide +kernel

theorem witness_CellAndOrderReadingsAnswer :
    hall.Takes (.getWave rq none) ∧ (hall.waves.filter (fun x => x.number == 1)).length = 1 ∧
      (hall.waves.filter (fun x => x.number == 8)).length = 1 ∧ (∃ o, hall.Names (.getOrder rq 1001) 1001 o) ∧ rq.valueOk = true ∧
      hall.Takes (.listOrders rqOdd [] false false) ∧ rqOdd.valueOk = false :=
  ⟨takes rfl rfl rfl, by decide +kernel, by decide +kernel, ⟨_, takes rfl rfl rfl, by decide, by decide, rfl⟩, rfl,
    takes rfl rfl rfl, rfl⟩

/-- Tags 1 and 65,534 tracked and not tracked. -/
theorem witness_GetItemAnswersRecordOrSummary :
    let s := mill [] [item 1 7 .ambient .atLane, item 65534 7 .ambient .atLane] []
    s.inTurn rq.tag 0x41 (.getItem rqShort (some 1)) = true ∧ rqShort.lengthOk = false ∧ (s.item? 1).isSome = true ∧ (s.item? 65534).isSome = true ∧
      hall.item? 1 = none ∧ hall.item? 65534 = none := by decide +kernel

theorem witness_StatusReadingsAnswer : hall.Takes (.getBench rq (some 1)) ∧ (hall.benches.filter (fun x => x.number == 1)).length = 1 ∧
    (hall.benches.filter (fun x => x.number == 12)).length = 1 := ⟨takes rfl rfl rfl, by decide +kernel, by decide +kernel⟩

/-- The pool at its bounds and as it stands, in use and not; the timers at each end; groups with and without a SKU twice. -/
theorem witness_PlainSettingsAreReplaced :
    hall.Takes (.setCommonPool rq 32 1600) ∧ (32 = hall.pool.items ∧ 1600 = hall.pool.vu) ∧ 64 ≠ hall.pool.items ∧
      (∀ c ∈ hall.chutes, c.heldItems = 0 ∧ c.heldVu = 0) ∧
      (∃ c ∈ (hall.takeCommon 12 10).chutes, c.heldItems ≠ 0 ∨ c.heldVu ≠ 0) ∧
      (∀ b ∈ [1, 12], 1 ≤ b ∧ b ≤ 12) ∧ (∀ n ∈ [10, 120], 10 ≤ n ∧ n ≤ 120) ∧
      (∀ k ∈ [1, 16777214], 1 ≤ k ∧ k ≤ 16777214) ∧ [1, 2].Nodup ∧ ¬[1, 1].Nodup :=
  ⟨takes rfl rfl rfl, by decide +kernel⟩

theorem witness_MonitorRequestsTakeEffect :
    hall.Takes (.setFaultMap rq 2 [] none none none) ∧ (∀ f ∈ [(⟨1, false, 2⟩ : MapField), ⟨17, true, 0⟩], 1 ≤ f.code ∧ f.code ≤ 17 ∧ f.severity ≤ 2) ∧
      ([1, 17] : List Nat).Nodup ∧ (hall.counter? 1).isSome = true ∧ (hall.counter? 2).isSome = true ∧ rqOdd.valueOk = false :=
  ⟨takes rfl rfl rfl, by decide +kernel⟩

theorem witness_NoticeRequestsTakeEffect :
    hall.Takes (.setNoticeEnable rq 2047) ∧ (2047 : BitVec 16).toNat < 2048 ∧ 2048 ≤ (2048 : BitVec 16).toNat ∧ rqOdd.valueOk = false :=
  ⟨takes rfl rfl rfl, by decide⟩

/-- Set Clock to 100 cuts wave 4 at its cutoff, with an order not marked and without, to 99 it does not; wave 4 to be cut
at 100, wave 1 not, wave 2 CUT, and the clock not set. -/
theorem witness_SetClockRunsTheCutoffChecks :
    let bound : State := hall.updOrder 0 (fun o => { o with wave := 4 })
    (hall.Inv ∧ hall.Takes (.setClock rq 100)) ∧ (bound.Inv ∧ bound.Takes (.setClock rq 100)) ∧
    (∃ o ∈ bound.book.orders, o.wave = 4 ∧ o.state = .loaded ∧ o.overdue = false) ∧ (∀ o ∈ hall.book.orders, o.wave ≠ 4) ∧
    hall.wave? 4 = some ⟨4, .planned, some 4, some 100⟩ ∧ hall.wave? 1 = some ⟨1, .planned, some 1, some 200⟩ ∧
    hall.wave? 2 = some ⟨2, .cut, some 2, some 50⟩ ∧ hall.clock = ⟨100, true⟩ ∧ State.reset.clock.isSet = false ∧
    (100 ≤ (100 : MinuteField).toNat ∧ ¬100 ≤ (99 : MinuteField).toNat) ∧
    ∀ w ∈ hall.waves, ¬(w.state = .planned ∧ w.cutoff.getD 0 ≤ 99) :=
  ⟨⟨hall_inv, takes rfl rfl rfl⟩, ⟨inv_of_check (by decide +kernel), takes rfl rfl rfl⟩, by decide +kernel⟩

/-- A DEPARTED wave in use and not; a wave in each state, with an order that is not marked and without one. -/
theorem witness_WaveRequestsFollowTheirTables : hall.Inv ∧ hall.Takes (.setWave rq 1 1 200) ∧ hall.Takes (.departWave rq 2) ∧
    (hall.wave? 3).map (·.state) = some .departed ∧ (hall.wave? 8).map (·.state) = some .unused ∧
    (hall.wave? 1).map (·.state) = some .planned ∧ (hall.wave? 2).map (·.state) = some .cut ∧
    hall.book.orders.countP (fun o => decide (o.wave = 3 ∧ o.state ≠ .dispatched ∧ o.state ≠ .cancelled)) = 0 ∧
    (∃ o ∈ hall.book.orders, o.wave = 1 ∧ o.state = .loaded ∧ o.overdue = false) ∧ (∀ o ∈ hall.book.orders, o.wave ≠ 4) ∧
    1 ≤ (hall.updOrder 0 (fun o => { o with wave := 3 })).book.orders.countP
      (fun o => decide (o.wave = 3 ∧ o.state ≠ .dispatched ∧ o.state ≠ .cancelled)) :=
  ⟨hall_inv, takes rfl rfl rfl, takes rfl rfl rfl, by decide +kernel⟩

/-- A plan at its bounds; a bench whose reserve changes while an item holds credits there, and one where none does. -/
theorem witness_BenchSettingsThenBinding : hall.Takes (.setTemplate rq 1 plan) ∧
    planOk ⟨4, 30000, ⟨16, 1000⟩, ⟨16, 1000⟩, ⟨16, 1000⟩, ⟨0, 1000⟩⟩ = true ∧ planOk { plan with massLimit := 0 } = false ∧
    (hall.chute? 1).map (·.reserveItems) = some 6 ∧ (∃ i ∈ hall.items, i.hold = .chute 1) ∧
    (∀ i ∈ hall.items, i.hold ≠ .chute 12 ∧ i.hold ≠ .both 12) ∧ (hall.chute? 12).isSome = true ∧ rqOdd.valueOk = false ∧
    { hall with rushFloor := 3 }.rushFloor = 3 := ⟨takes rfl rfl rfl, by decide +kernel⟩

theorem witness_LoopSettingsThenAdmission : hall.Takes (.setAdmissionSchedule rq (List.replicate 32 6)) ∧ (List.replicate 32 6).length = 32 ∧
    hall.occupancy ≠ 0 ∧ (mill [] [] []).occupancy = 0 := ⟨takes rfl rfl rfl, by decide +kernel⟩

/-- A dispatch lane with room and one brought to its capacity. -/
theorem witness_DispatchRequestsJudgeAndServe : hall.Inv ∧ hall.Takes (.setDispatchLane rq 1 none none) ∧
    (∃ d, hall.dispatchLane? 1 = some d ∧ d.full = false ∧ d.count + d.inFlight < d.capacity) ∧
    (∃ d, (hall.updDispatch 4 (fun d => { d with count := 20, full := true })).dispatchLane? 4 = some d ∧ d.full = true) ∧
    hall.dispatchLane? 5 = none ∧
    ∃ d, (hall.updDispatch 4 (fun d => { d with count := 20 })).dispatchLane? 4 = some d ∧ d.full = false ∧
      d.capacity ≤ d.count + d.inFlight :=
  ⟨hall_inv, takes rfl rfl rfl, ⟨_, rfl, by decide +kernel⟩, ⟨_, rfl, by decide +kernel⟩, by decide +kernel, _, rfl,
    by decide +kernel⟩

/-- A Load Order body with reference `ref`, wave `w` and template `t`. -/
def loadBody (ref w t : Nat) (lines : List LineFields) : List Byte := LoadFields.bytes ⟨ref, 3, w, t, lines⟩

/-- Bodies that meet each check in its turn: out of range, a duplicate, a wave that is UNUSED, a book without a FREE
slot, and one that loads, at the bounds of the reference. -/
theorem witness_LoadOrderChecksThenLoads :
    let l : LineFields := ⟨16777214, 3, 12, 31⟩
    let crowd := mill ((List.range 64).map (fun k => order k .building (some 1) [])) [] []
    hall.inTurn 1 0x20 (.loadOrder 1 (loadBody 0 1 1 [l])) = true ∧
      (∀ f ∈ [(0, 1, 1), (1, 1, 1), (1001, 2, 1), (4294967294, 8, 1)], loadLengthOk (loadBody f.1 f.2.1 f.2.2 [l]) = true) ∧
      loadFieldsOk (LoadFields.read (loadBody 0 1 1 [l])) = false ∧ loadFieldsOk (LoadFields.read (loadBody 4294967294 2 1 [l])) = true ∧
      (LoadFields.read (loadBody 1001 2 1 [l])).ref = 1001 ∧ (∃ o ∈ hall.book.orders, o.ref = 1001) ∧
      hall.waveState 8 = .unused ∧ hall.waveState 1 = .planned ∧ hall.waveState 2 = .cut ∧ (hall.plan? 1).isSome = true ∧
      (∀ k < 64, crowd.order? k ≠ none) ∧ (∃ k < 64, hall.order? k = none) ∧ hall.linesUsed + 1 ≤ 640 := by decide +kernel

/-- Lines absent, OPEN, SHORT, FILLED, CLOSED and with committed units; an order LOADED and waiting, BUILDING and HELD;
a bench that lacks a capability; a book whose line pool is used up; an order at 24 lines. -/
theorem witness_AmendOrderFollowsItsRules : hall.Inv ∧
    (∀ n ∈ [0, 1, 2, 7], ∃ o, hall.Names (.removeLine rq (1000 + n) 1) (1000 + n) o ∧ (o.state = .loaded ∨ o.state = .building ∨ o.state = .held)) ∧
    ((hall.orderOf? 1001).map (fun o => (o.lines.map (fun l => (l.state, l.committed)), o.lines[23]?))) =
      some ([(.opened, 1), (.short, 0), (.opened, 0), (.closed, 0), (.filled, 2), (.filled, 2)], none) ∧
    lineFieldsOk 16777214 1 12 31 = true ∧ classOfCode 3 = some .chilled ∧
    ((hall.updBench 1 (fun x => { x with chilledCapable := false })).bench? 1).map (·.chilledCapable) = some false ∧
    ((hall.updOrder 1 (fun o => { o with fragileBegun := true })).orderOf? 1001).map (·.fragileBegun) = some true ∧
    640 ≤ (mill ((List.range 64).map (fun k => order k .building (some 1) (List.replicate 10 (line 1 .ambient 1 0)))) [] []).linesUsed ∧
    (hall.orderOf? 1000).map (fun o => (o.lines.length, o.bench)) = some (1, none) ∧
    hall.waveState 3 = .departed ∧ hall.waveState 2 = .cut := by
  refine ⟨hall_inv, fun n hn => ?_, by decide +kernel⟩
  simp only [List.mem_cons, List.not_mem_nil, or_false] at hn
  obtain rfl | rfl | rfl | rfl := hn <;> exact ⟨_, ⟨takes rfl rfl rfl, by decide, by decide, rfl⟩, by decide +kernel⟩

theorem witness_HoldResumeRetireFollowTheirTables : hall.Inv ∧
    ∀ p ∈ [(0, OrderState.loaded, false), (1, .building, false), (2, .held, true), (7, .loaded, true), (5, .dispatched, false),
      (8, .cancelled, false)], ∃ o, hall.Names (.holdOrder rq (1000 + p.1)) (1000 + p.1) o ∧ o.state = p.2.1 ∧ o.held = p.2.2 := by
  refine ⟨hall_inv, fun p hp => ?_⟩
  simp only [List.mem_cons, List.not_mem_nil, or_false] at hp
  obtain rfl | rfl | rfl | rfl | rfl | rfl := hp <;> exact ⟨_, ⟨takes rfl rfl rfl, by decide, by decide, rfl⟩, by decide +kernel⟩

theorem witness_CancelOrderWithdrawsItsItems : hall.Inv ∧
    (∀ p ∈ [(4, OrderState.sealed, some 4), (5, .dispatched, none), (6, .cancelling, some 6), (8, .cancelled, none), (0, .loaded, none),
      (1, .building, some 1), (2, .held, some 2), (3, .complete, some 3)], ∃ o, hall.Names (.cancelOrder rq (1000 + p.1)) (1000 + p.1) o ∧ o.state = p.2.1 ∧
        o.bench = p.2.2) ∧
    (∃ x, hall.bench? 1 = some x) ∧
    (hall.items.filter (fun i => i.allocatedTo 1)).map (·.location) = [.inChute, .onLoop, .bufferToChute] ∧
    (hall.item? 20).map (·.outstanding) = some (.place 95) ∧
    (hall.items.filter (fun i => i.allocatedTo 2)).map (·.location) = [.inHamper] := by
  refine ⟨hall_inv, fun p hp => ?_, ⟨_, rfl⟩, by decide +kernel⟩
  simp only [List.mem_cons, List.not_mem_nil, or_false] at hp
  obtain rfl | rfl | rfl | rfl | rfl | rfl | rfl | rfl := hp <;>
    exact ⟨_, ⟨takes rfl rfl rfl, by decide, by decide, rfl⟩, by decide +kernel⟩

/-- A line in each state, FILLED with and without its short mark, and line 24 absent. -/
theorem witness_LineRequestsFollowTheirTables : hall.Inv ∧ ∃ o, hall.Names (.declareShort rq 1001 1) 1001 o ∧ o.state = .building ∧
    o.lines.map (fun l => (l.state, l.shortMark)) = [(.opened, false), (.short, false), (.opened, false), (.closed, false),
      (.filled, true), (.filled, false)] ∧ o.lines[23]? = none :=
  ⟨hall_inv, _, ⟨takes rfl rfl rfl, by decide, by decide, rfl⟩, by decide +kernel⟩

theorem witness_LateLaneIsReadAtTheNextSealed :
    hall.inTurn rq.tag 0x3B (.setLateLane rqShort 1) = true ∧ rqShort.lengthOk = false ∧ (hall.updOrder 3 (fun o => { o with wave := 3 })).waveState 3 = .departed ∧
      (hall.dispatchLane? hall.lateLane).isSome = true := by decide +kernel

/-- An attempt that sends an Admit: lane 1 has a head, and the flag is set. -/
def admitting : State :=
  { mill [] [item 24 7 .ambient .atLane] [] with
    lanes := ⟨1, [24], .go, BitVec.allOnes 12⟩ :: State.reset.lanes.tail
    admission := ⟨defaultSchedule, 31, true⟩ }

theorem witness_MergeReadySetsTheMergeFreeFlag :
    RecFits sorterHead 0x10 .sorter ∧ (unitOf 0x11 = some .buffer ∧ FieldUnit.buffer ≠ .sorter) ∧
      (FieldUnit.lane 1, OutRecord.admitTag 24) ∈ admitting.tryAdmit.bus.sent.drop admitting.bus.sent.length ∧
      (∃ t, exec .powerUp hall = .next t) ∧ hall.admission.mergeFree = false :=
  ⟨by unfold RecFits; decide, by decide, by decide +kernel, ⟨_, rfl⟩, rfl⟩

/-- Fields at their bounds and outside; a tracked tag; 3 and 4 tags queued; 320 records. -/
theorem witness_ArrivalIsCheckedThenQueued :
    let a : ArrivalFields := ⟨65534, 16777214, 3, 25000, 40000, some 65534⟩
    let tall : State := { hall with lanes := State.reset.lanes.map (fun l : Lane => { l with queue := [1, 2, 3, 4] }) }
    let full := mill [] (List.replicate 320 (item 1 7 .ambient .inChute)) []
    (unitOf 0x01 = some (.lane 1) ∧ unitOf 0x06 = some (.lane 6) ∧ (hall.lane? 1).isSome = true ∧ (hall.lane? 6).isSome = true) ∧
      a.bytes.length = 12 ∧ ArrivalFields.read a.bytes = a ∧ ([0] : List Byte).length ≠ 12 ∧
      (∀ b ∈ [a, ⟨1, 1, 0, 1, 1, none⟩], arrivalRangeFault b = none) ∧
      ([{ a with tag := 65535 }, { a with sku := 16777215 }, { a with cls := 4 }, { a with mass := 25001 }, { a with volume := 40001 },
        { a with chillExit := none }].map arrivalRangeFault) = [some 1, some 2, some 3, some 4, some 5, some 6] ∧
      hall.item? 20 ≠ none ∧ hall.item? 65534 = none ∧ (tall.lane? 1).map (·.queue.length) = some 4 ∧
      (hall.lane? 1).map (·.queue.length) = some 0 ∧ 320 ≤ full.items.length ∧ full.item? 65534 = none ∧
      hall.items.length < 320 ∧ classOfCode 3 = some .chilled := by decide +kernel

/-- A point of each kind at its bounds; a tag that is not tracked; an item not ON_LOOP; items ON_LOOP sent to a bench,
held for it after an earlier Route, and sent nowhere. -/
theorem witness_DivertDoneSettlesTheItem :
    let s := mill [] [{ item 1 7 .ambient .onLoop with dest := some (.bench 12), hold := .chute 12 },
      { item 2 7 .ambient .onLoop with dest := some .exception, hold := .common 1 }, item 3 7 .ambient .onLoop,
      item 4 7 .ambient .inChute] []
    RecFits sorterHead 0x11 .sorter ∧ (∀ b ∈ [1, 12], 1 ≤ b ∧ b ≤ 12) ∧ s.item? 5 = none ∧
      (∀ p ∈ [(1, Location.onLoop, some (Point.bench 12), Hold.chute 12), (2, .onLoop, some .exception, .common 1),
        (3, .onLoop, none, .none), (4, .inChute, none, .none)], (s.item? p.1).map (fun i => (i.location, i.dest, i.hold)) = some p.2) :=
  ⟨by unfold RecFits; decide, by decide +kernel⟩

/-- Items ON_LOOP with each destination, one pass below the lap limit and at it, RUNNING and RESTARTING; each hold. -/
theorem witness_LoopPassIsHandledByDestination :
    let s := mill [] [{ item 1 7 .ambient .onLoop with dest := some (.bench 1), laps := 2, hold := .chute 1 },
      { item 2 7 .ambient .onLoop with dest := some .buffer, laps := 3, hold := .common 1 },
      { item 3 7 .ambient .onLoop with dest := some .exception, laps := 15 }, { item 4 7 .ambient .onLoop with laps := 3 },
      item 5 7 .ambient .inChute] []
    RecFits sorterHead 0x12 .sorter ∧ s.item? 6 = none ∧ s.cell.state = .running ∧ (inCell .restarting s).cell.state = .restarting ∧
      s.loop.lapLimit = 4 ∧ (∀ p ∈ [(1, 2, Hold.chute 1), (2, 3, .common 1), (3, 15, .none), (4, 3, .none), (5, 0, .none)],
        (s.item? p.1).map (fun i => (i.laps, i.hold)) = some p.2) ∧ (s.runAllocation 4).hasDest 4 = false ∧
      (threeOrders.runAllocation 905).hasDest 905 = true :=
  ⟨by unfold RecFits; decide, by decide +kernel⟩

/-- Two entries on the release list: tag 30 to EXCEPTION, tag 31 to bench 12. -/
def releasing : State :=
  { mill [order 1 .building (some 12) [line 7 .ambient 3 1]] [item 29 7 .ambient .inBuffer,
      { item 30 7 .ambient .inBuffer with hold := .common 12 },
      { item 31 7 .ambient .bufferToChute with alloc := some ⟨1, 1, 12, 0, .middle, 3⟩, hold := .both 12 }] [] with
    arbiter := ⟨[(30, .exception), (31, .bench 12)], [], 3⟩ }

theorem witness_OutboundDeliveryFreesTheItem :
    RecFits bufferHead 0x18 .buffer ∧ releasing.releaseEntry? 30 = some .exception ∧ ∃ i, releasing.item? 30 = some i :=
  ⟨by unfold RecFits; decide, by decide +kernel, _, rfl⟩

theorem witness_DeliveriesAndFailedReleasesFollowTheirRules :
    RecFits bufferHead 0x18 .buffer ∧ RecFits bufferHead 0x19 .buffer ∧ releasing.releaseEntry? 29 = none ∧
      releasing.releaseEntry? 31 = some (.bench 12) ∧ (releasing.item? 31).map (·.hold) = some (.both 12) ∧
      Point.bench 12 ≠ .bench 11 ∧ Point.bench 12 ≠ .exception ∧ 30 ∉ releasing.arbiter.heldBack ∧
      (∀ p ∈ [Point.buffer, .other, .bench 0, .bench 13], p ≠ .bench 12 ∧ p ≠ .exception) ∧ 31 ∉ releasing.arbiter.heldBack ∧
      (releasing.item? 28 = none ∧ (releasing.item? 29).isSome = true) :=
  ⟨by unfold RecFits; decide, by unfold RecFits; decide, by decide +kernel⟩

/-- A bench in each state, staffed and not, with each pocket. -/
theorem witness_BenchStaffingAndFittingFollowTheirTables :
    (∀ b ∈ [1, 12], unitOf (benchHead b).addr = some (.bench b) ∧ (benchHead b).lengthOk = true) ∧
      (hall.benches.map (fun x => (x.state, x.staffed))).take 6 = [(.building, true), (.building, true), (.sealing, true), (.holding, true),
        (.closed, false), (.unpacking, true)] ∧ (hall.bench? 12).map (·.state) = some .idle ∧
      (∀ d ∈ hall.dispatch, ∀ e ∈ d.holding, e.1 ≠ 1) ∧
      (∀ p ∈ [PocketState.none, .requested, .fitted], ∃ x, (mill [] [] [bench 1 .fitting (some 0)
        (some { hamper with pocket := p })]).bench? 1 = some x ∧ x.state = .fitting ∧ x.hamper.map (·.pocket) = some p) := by
  refine ⟨by decide +kernel, by decide +kernel, by decide +kernel, by decide +kernel, fun p _ => ⟨_, rfl, rfl, rfl⟩⟩

/-- A bench that stands unstaffed with a hamper held on lane 2. -/
theorem witness_BenchOpenServesItsLane :
    let s : State := { mill [order 4 .sealed (some 4) [line 7 .ambient 1 1]] [] [{ bench 4 .holding (some 4) (some hamper) with staffed := false }] with
      dispatch := State.reset.dispatch.map (fun d : DispatchLane => if d.number = 2 then { d with holding := [(4, 4)] } else d) }
    (s.bench? 4).map (fun x => (x.state, x.staffed)) = some (.holding, false) ∧
      (s.dispatch.map (·.holding)) = [[], [(4, 4)], [], []] := by decide +kernel

/-- Items with each instruction outstanding, with and without an allocation, at their bench and none. -/
theorem witness_BenchAnswersFollowTheirRules :
    let al : Alloc := ⟨1, 1, 1, 0, .middle, 3⟩
    let s := mill [order 1 .building (some 1) [line 7 .ambient 3 2]]
      [{ item 1 7 .ambient .inChute with locBench := some 1, alloc := some al, outstanding := .place 95, hold := .chute 1 },
        { item 2 7 .ambient .inChute with locBench := some 1, outstanding := .ret 95, hold := .chute 1 },
        { item 3 7 .ambient .inChute with locBench := some 1, alloc := some al, outstanding := .ret 95, hold := .chute 1 },
        { item 4 7 .chilled .inHamper with locBench := some 1, alloc := some al, outstanding := .pull 95 },
        { item 5 7 .chilled .inHamper with locBench := some 1, outstanding := .pull 95 }, item 6 7 .ambient .onLoop]
      [bench 1 .building (some 1) (some { hamper with places := [⟨1, false⟩] })]
    unitOf (benchHead 1).addr = some (.bench 1) ∧ (benchHead 1).lengthOk = true ∧ s.item? 7 = none ∧
      (∀ p ∈ [(1, some al, Outstanding.place 95, some 1), (2, none, .ret 95, some 1), (3, some al, .ret 95, some 1),
        (4, some al, .pull 95, some 1), (5, none, .pull 95, some 1), (6, none, .none, none)],
        (s.item? p.1).map (fun i => (i.alloc, i.outstanding, i.locBench)) = some p.2) := by decide +kernel

/-- A bench SEALING a COMPLETE order of a planned and of a departed wave; one RELEASING a SEALED order; one UNPACKING a
CANCELLING order with withdrawals pending and without. -/
theorem witness_SealedHamperOutAndUnpackedEndTheBuild :
    let s := mill [order 1 .complete (some 1) [], { order 2 .complete (some 2) [] with wave := 3 },
        { order 3 .sealed (some 3) [] with dispatchLane := some 4 }, order 4 .cancelling (some 4) [],
        { order 5 .cancelling (some 5) [] with withdrawals := 1 }, order 6 .building (some 6) []] []
      [bench 1 .sealing (some 1) (some hamper), bench 2 .sealing (some 2) (some hamper), bench 3 .releasing (some 3) (some hamper),
        bench 4 .unpacking (some 4) (some hamper), bench 5 .unpacking (some 5) (some hamper), bench 6 .sealing (some 6) (some hamper),
        { bench 7 .unpacking (some 4) with unpacked := true }, bench 8 .releasing (some 6) (some hamper)]
    (∀ b ∈ [1, 2, 3, 4, 5, 6, 7, 8], ∃ x slot o, unitOf (benchHead b).addr = some (.bench b) ∧ s.bench? b = some x ∧
      x.orderSlot = some slot ∧ s.order? slot = some o ∧ o.slot = slot) ∧
    s.waveState 3 = .departed ∧ s.wave? 1 = some ⟨1, .planned, some 1, some 200⟩ ∧ (s.dispatchLane? 4).isSome = true ∧
      (s.bench? 7).map (·.unpacked) = some true := by
  refine ⟨fun b hb => ?_, by decide +kernel⟩
  simp only [List.mem_cons, List.not_mem_nil, or_false] at hb
  obtain rfl | rfl | rfl | rfl | rfl | rfl | rfl | rfl := hb <;> exact ⟨_, _, _, rfl, rfl, rfl, rfl, rfl⟩

/-- A bench that may be sent a Place, one that may be sent Seal, and a lane that may send a Release. -/
theorem witness_PlaceSealAndReleaseAreIssued :
    let s : State := { mill [order 1 .building (some 1) [line 7 .ambient 3 1], order 3 .complete (some 3) [line 7 .ambient 1 1],
          order 4 .sealed (some 4) [line 7 .ambient 1 1]]
        [{ item 20 7 .ambient .inChute with locBench := some 1, alloc := some ⟨1, 1, 1, 0, .middle, 3⟩, hold := .chute 1 }]
        [bench 1 .building (some 1) (some hamper), bench 3 .building (some 3) (some hamper), bench 4 .holding (some 4) (some hamper)] with
      dispatch := State.reset.dispatch.map (fun d : DispatchLane => if d.number = 4 then { d with holding := [(4, 4)] } else d) }
    (after (.placeItem 1) s).bus.sent = [(.bench 1, .place 20 .middle 3)] ∧ (after (.sealHamper 3) s).bus.sent = [(.bench 3, .sealHamper)] ∧
      (after (.hamperRelease 4) s).bus.sent = [(.bench 4, .release 4)] ∧ s.oldest s.items = s.items.head? := by decide +kernel

/-- The pointer at 31, whose entry is empty, and at the first entry after it lane 1 with a head, expired and not; a cell
state without binding. -/
theorem witness_AdmissionBindingAndBufferReleaseChoose : hall.Inv ∧
    (admitting.cell.state = .running ∧ admitting.admission.mergeFree = true ∧ admitting.occupancy < admitting.loop.capacity ∧
      admitting.admission.schedule[31]? = some 0 ∧ admitting.lane? 0 = none ∧ admitting.admission.schedule[(31 + 1) % 32]? = some 1 ∧
      (admitting.lane? 1).map (·.queue) = some [24] ∧ (admitting.item? 24).map (·.expired) = some false ∧
      ((admitting.updItem 24 (fun i => { i with expired := true })).item? 24).map (·.expired) = some true) ∧
    ((inCell .ready hall).cell.state ≠ .running ∧ (inCell .ready hall).cell.state ≠ .paused) :=
  ⟨hall_inv, by decide +kernel, by decide⟩

/-- An item with a winner, whose zone has a FREE slot; and items with none: where BASE is closed (detail 1), the mass limit
is met (detail 2), or each at one of two orders (detail 3); where the SKU stands with another class; both; and neither. -/
theorem witness_AllocationChoosesTheBest :
    let shut : Hamper := { hamper with baseClosed := true }
    let laden : Hamper := { hamper with mass := 7501 }
    let lot (xs : List (ItemClass × Hamper)) : State := mill
      (xs.mapIdx fun k x => order (k + 1) .building (some (k + 1)) [line 7 x.1 2 0]) [item 9 7 .heavy .onLoop]
      (xs.mapIdx fun k x => bench (k + 1) .building (some (k + 1)) (some x.2))
    let reports (s : State) : List (FaultKind × Nat) :=
      (s.runAllocation 9).faults.severities.flatMap (fun v => (v.first.toList ++ v.latest.toList).map (fun r => (r.kind, r.detail)))
    (∃ i c h n, threeOrders.item? 905 = some i ∧ threeOrders.winner? i = some c ∧ threeOrders.hamper? c.bench = some h ∧
      h.freeSlot? c.zone = some n) ∧
    (∀ xs ∈ [[], [(.heavy, shut)], [(.heavy, laden)], [(.heavy, shut), (.heavy, laden)], [(.ambient, hamper)],
        [(.heavy, shut), (.chilled, hamper)]], (lot xs).winner? (item 9 7 .heavy .onLoop) = none) ∧
    reports (lot []) = [] ∧ reports (lot [(.heavy, shut)]) = [(.fitRefused, 1)] ∧
    reports (lot [(.heavy, laden)]) = [(.fitRefused, 2)] ∧
    reports (lot [(.heavy, shut), (.heavy, laden)]) = [(.fitRefused, 3)] ∧ reports (lot [(.ambient, hamper)]) = [(.classConflict, 0)] ∧
    ((lot [(.heavy, shut), (.chilled, hamper)]).book.orders.map (fun o => o.lines.map (·.cls))) = [[.heavy], [.chilled]] :=
  ⟨⟨_, _, _, _, rfl, rfl, rfl, rfl⟩, by decide +kernel⟩

/-- A Notice frame due before a warm restart. -/
theorem witness_WarmRestartClearsAndKeeps :
    { hall with notices := { hall.notices with due := true } }.notices.due = true ∧
      (hall.warmRestart .ofForced).book = ⟨[], 0⟩ := by decide +kernel

/-- A lane at 4 tags, one below, and the part HALTED. -/
theorem witness_LaneSignalsAreJudged :
    let s : State := { hall with lanes := State.reset.lanes.map (fun l : Lane => { l with queue := [1, 2, 3, 4].take (l.number + 1) }) }
    s.lanes.map (·.queue.length) = [2, 3, 4, 4, 4, 4] ∧ (inCell .halted s).cell.state = .halted ∧ s.cell.state = .running := by
  decide +kernel

end Sys2Proof.Tests
end

section
/-! SUPPORT. GET_ITEM (R43): what its owner answers in each case, and the request as a whole. -/

namespace Sys2Proof.Machine

open Sys2Proof

/-- The command is the hand-over of the request to `State.getItem`. -/
theorem exec_getItem (rq : ReqHead) (tag : Option Nat) (s : State) :
    exec (.getItem rq tag) s = request (.getItem rq tag) rq 0x41 (State.getItem rq tag) s := rfl

/-- R43: the request changes nothing, so that no quiet condition is judged and its reply alone is seen. -/
theorem exec_getItem_answer {s : State} {rq : ReqHead} {tag : Option Nat} {r : Reply}
    (hturn : s.inTurn rq.tag 0x41 (.getItem rq tag) = true) (hown : s.getItem rq tag = (r, s)) :
    exec (.getItem rq tag) s = .next (s.answer rq.tag 0x41 r) :=
  (exec_getItem rq tag s).trans (request_same hturn hown)

/-- The same of a request that is taken, whose body has the right length. -/
theorem exec_getItem_taken {s : State} {rq : ReqHead} {tag : Option Nat} {r : Reply} (ht : s.Takes (.getItem rq tag))
    (hown : rq.lengthOk = true → s.getItem rq tag = (r, s)) :
    exec (.getItem rq tag) s = .next (s.answer rq.tag 0x41 r) := by
  obtain ⟨hturn, hl⟩ := (takes_iff rfl).1 ht
  exact exec_getItem_answer hturn (hown hl)

theorem getItem_badLength (s : State) (tag : Option Nat) {rq : ReqHead} (hl : rq.lengthOk = false) :
    s.getItem rq tag = (⟨.badLength, .none⟩, s) := checked_len hl

theorem getItem_badValue (s : State) {t : Nat} {rq : ReqHead} (ht : t = 0 ∨ t = 65535) (hl : rq.lengthOk = true) :
    s.getItem rq (some t) = (⟨.badValue, .none⟩, s) := by
  refine checked_bad hl ?_
  rcases ht with rfl | rfl <;> rfl

theorem getItem_summary (s : State) {rq : ReqHead} (hl : rq.lengthOk = true) :
    s.getItem rq none = (⟨.ok, .loop s.loopView⟩, s) := checked_ok hl rfl

/-- A tag in its range is looked up in the item table. -/
theorem getItem_lookup (s : State) {t : Nat} {rq : ReqHead} (h1 : 1 ≤ t) (h2 : t ≤ 65534) (hl : rq.lengthOk = true) :
    s.getItem rq (some t) =
      ((s.item? t).elim ⟨.notFound, .none⟩ (fun i => ⟨.ok, .item i⟩), s) := by
  have hv : optInRange 1 65534 (some t) = true := inRange_iff.2 ⟨h1, h2⟩
  unfold State.getItem
  rw [checked_ok hl hv]
  dsimp only
  cases s.item? t with
  | none => rfl
  | some i => rfl

theorem getItem_notFound {s : State} {t : Nat} {rq : ReqHead} (h1 : 1 ≤ t) (h2 : t ≤ 65534) (hi : s.item? t = none)
    (hl : rq.lengthOk = true) : s.getItem rq (some t) = (⟨.notFound, .none⟩, s) := by
  rw [getItem_lookup s h1 h2 hl, hi, Option.elim_none]

theorem getItem_tracked {s : State} {t : Nat} {i : Item} {rq : ReqHead} (h1 : 1 ≤ t) (h2 : t ≤ 65534)
    (hi : s.item? t = some i) (hl : rq.lengthOk = true) : s.getItem rq (some t) = (⟨.ok, .item i⟩, s) := by
  rw [getItem_lookup s h1 h2 hl, hi, Option.elim_some]

/-- Settles O33: the owner's answer in each case, handed over unchanged; a reply is seen at the host link alone. -/
theorem getItemAnswersRecordOrSummary : Obligations.GetItemAnswersRecordOrSummary := by
  unfold Obligations.GetItemAnswersRecordOrSummary
  intro s rq
  refine ⟨fun hl t hturn => exec_getItem_answer hturn (getItem_badLength s t hl), ⟨?badValue, ?notFound, ?tracked, ?summary⟩,
    answer_link s rq.tag 0x41⟩
  case badValue => exact fun t ht hbad => exec_getItem_taken ht (getItem_badValue s hbad)
  case notFound => exact fun t ht h1 h2 hi => exec_getItem_taken ht (getItem_notFound h1 h2 hi)
  case tracked => exact fun t i ht h1 h2 hi => exec_getItem_taken ht (getItem_tracked h1 h2 hi)
  case summary => exact fun ht => exec_getItem_taken ht (getItem_summary s)

end Sys2Proof.Machine
end

section
/-! SUPPORT. MERGE_READY and the merge-free flag (R50): what an admission attempt sends, and what it leaves of the flag. -/

namespace Sys2Proof.Machine

open Sys2Proof

/-! ### Work that sends no Admit -/

/-- From `s` to `t` records have been sent, none of them an Admit. -/
def SendsNoAdmit (s t : State) : Prop :=
  ∃ rs : List (FieldUnit × OutRecord), t.bus.sent = s.bus.sent ++ rs ∧ ∀ e ∈ rs, ∀ tag, e.2 ≠ .admitTag tag

namespace SendsNoAdmit

variable {s t u : State}

/-- Work that leaves the bus as it is. -/
theorem of_bus (h : t.bus = s.bus) : SendsNoAdmit s t := ⟨[], by rw [h, List.append_nil], by simp⟩

/-- Work that sends one record. -/
theorem of_sent {e : FieldUnit × OutRecord} (h : t.bus.sent = s.bus.sent ++ [e]) (he : ∀ tag, e.2 ≠ .admitTag tag) :
    SendsNoAdmit s t := ⟨[e], h, by simpa using he⟩

theorem trans (h : SendsNoAdmit s t) (k : SendsNoAdmit t u) : SendsNoAdmit s u := by
  obtain ⟨rs, hs, hr⟩ := h
  obtain ⟨qs, ks, kq⟩ := k
  refine ⟨rs ++ qs, by rw [ks, hs, List.append_assoc], fun e he => ?_⟩
  exact (List.mem_append.1 he).elim (hr e) (kq e)

/-- No Admit is among the records sent since. -/
theorem not_mem (h : SendsNoAdmit s t) (x : FieldUnit) (tag : Nat) :
    (x, OutRecord.admitTag tag) ∉ t.bus.sent.drop s.bus.sent.length := by
  obtain ⟨rs, hs, hr⟩ := h
  rw [hs, List.drop_left]
  exact fun hm => hr _ hm tag rfl

end SendsNoAdmit

/-- Judging a lane sends Hold or Go. -/
theorem lane_change_ne_admit {l : Lane} {wanted : Bool} {e : FieldUnit × OutRecord} (h : l.change wanted = some e)
    (tag : Nat) : e.2 ≠ .admitTag tag := by
  unfold Lane.change at h
  split at h
  case h_1 => obtain rfl := Option.some.inj h; exact nofun
  case h_2 => obtain rfl := Option.some.inj h; exact nofun
  case h_3 => cases h

theorem judgeLanes_noAdmit (s : State) : SendsNoAdmit s s.judgeLanes :=
  ⟨_, rfl, fun _ he => by
    obtain ⟨_, _, hc⟩ := List.mem_filterMap.1 he
    exact lane_change_ne_admit hc⟩

theorem arbitrateOnce_noAdmit {s t : State} (h : s.arbitrateOnce = some t) : SendsNoAdmit s t := by
  obtain ⟨_, ⟨i, _, rfl⟩ | ⟨_, _, b, _, i, _, rfl⟩⟩ := arbitrateOnce_cases h
  · exact .of_sent (e := (.buffer, .bufferRelease i.tag .exception)) rfl (by simp)
  · exact .of_sent (e := (.buffer, .bufferRelease i.tag (.bench b))) rfl (by simp)

theorem arbitrate_noAdmit (s : State) : SendsNoAdmit s s.arbitrate := by
  unfold State.arbitrate
  split
  · exact .of_bus rfl
  case h_2 s1 h1 =>
    split
    · exact arbitrateOnce_noAdmit h1
    case h_2 s2 h2 => exact (arbitrateOnce_noAdmit h1).trans (arbitrateOnce_noAdmit h2)

theorem returnCommon_bus (tag : Nat) (s : State) : (s.returnCommon tag).bus = s.bus := by
  unfold State.returnCommon
  repeat' split
  all_goals rfl

theorem dropChuteHold_bus (tag : Nat) (s : State) : (s.dropChuteHold tag).bus = s.bus := by
  unfold State.dropChuteHold
  repeat' split
  all_goals rfl

theorem freeItem_noAdmit (tag : Nat) (s : State) : SendsNoAdmit s (s.freeItem tag) := by
  have hbus : ((s.returnCommon tag).dropChuteHold tag).bus = s.bus :=
    (dropChuteHold_bus tag _).trans (returnCommon_bus tag s)
  refine .trans ?_ ((judgeLanes_noAdmit _).trans (arbitrate_noAdmit _))
  exact .of_bus hbus

theorem rejectHead_noAdmit (n tag : Nat) (s : State) : SendsNoAdmit s (s.rejectHead n tag) :=
  .trans (.of_sent (e := (.lane n, .laneReject tag .expired)) rfl (by simp)) (freeItem_noAdmit tag _)

theorem rejectExpired_noAdmit (n : Nat) (q : List Nat) (s : State) : SendsNoAdmit s (s.rejectExpired n q) := by
  induction q generalizing s with
  | nil => exact .of_bus rfl
  | cons tag q ih =>
    unfold State.rejectExpired
    split
    · exact (rejectHead_noAdmit n tag s).trans (ih _)
    · exact .of_bus rfl

/-! ### Work that leaves the admission registers -/

theorem raiseFault_admission (k : FaultKind) (c : FaultCtx) (d : Nat) (s : State) :
    (s.raiseFault k c d).admission = s.admission := (congrArg State.admission (raiseFault_frame k c d s) :)

theorem eitherOrder_admission {f g : State → State} (hf : ∀ s, (f s).admission = s.admission)
    (hg : ∀ s, (g s).admission = s.admission) (s : State) : (eitherOrder f g s).admission = s.admission := by
  obtain ⟨n, h | h⟩ := eitherOrder_cases f g s <;> rw [h]
  · exact (hg (f s)).trans (hf s)
  · exact (hf (g s)).trans (hg s)

theorem askPocket_admission (b : Nat) (s : State) : (s.askPocket b).admission = s.admission := by
  unfold State.askPocket
  repeat' split
  all_goals rfl

theorem commit_admission (i : Item) (c : Candidate) (s : State) : (s.commit i c).admission = s.admission := by
  unfold State.commit
  cases c.source <;> dsimp only <;> split
  case chute.isTrue | common.isTrue => exact askPocket_admission _ _
  case chute.isFalse | common.isFalse => rfl

theorem reportNoFit_admission (i : Item) (s : State) : (s.reportNoFit i).admission = s.admission := by
  unfold State.reportNoFit
  split
  · rfl
  · exact raiseFault_admission _ _ _ s
  · exact raiseFault_admission _ _ _ s
  · exact eitherOrder_admission (raiseFault_admission _ _ _) (raiseFault_admission _ _ _) s

theorem runAllocation_admission (tag : Nat) (s : State) : (s.runAllocation tag).admission = s.admission := by
  unfold State.runAllocation
  split
  · rfl
  · split
    · exact commit_admission _ _ s
    · exact reportNoFit_admission _ s

theorem warmRestart_admission (c : Causes) (s : State) : (s.warmRestart c).admission = (s.cleared c).admission :=
  (congrArg State.admission (judgeLanes_frame (s.cleared c).sendRestarts) :).trans
    (congrArg State.admission (sendRestarts_frame (s.cleared c)) :)

/-! ### An attempt and the merge-free flag -/

/-- R53: an Admit moves the pointer past the entry and clears the flag; the allocation run after it leaves both. -/
theorem admitItem_admission (e n tag : Nat) (s : State) :
    (s.admitItem e n tag).admission = { s.admission with pointer := (e + 1) % 32, mergeFree := false } := by
  unfold State.admitItem
  dsimp only
  split
  · exact runAllocation_admission tag _
  · exact runAllocation_admission tag _

/-- A scan sends no Admit, or ends with the flag clear. -/
theorem scanEntries_noAdmit_or_clear (es : List Nat) (s : State) :
    SendsNoAdmit s (s.scanEntries es) ∨ (s.scanEntries es).admission.mergeFree = false := by
  induction es generalizing s with
  | nil => exact .inl (.of_bus rfl)
  | cons e es ih =>
    unfold State.scanEntries
    split
    · exact ih s
    case h_2 l _ =>
      dsimp only
      split
      · exact (ih _).imp_left (rejectExpired_noAdmit l.number l.queue s).trans
      case h_2 tag _ => exact .inr (by rw [admitItem_admission])

/-- R51: an attempt scans where the cell is RUNNING, the flag set and the loop below its capacity, else it does nothing. -/
theorem tryAdmit_noAdmit_or_clear (s : State) : SendsNoAdmit s s.tryAdmit ∨ s.tryAdmit.admission.mergeFree = false := by
  unfold State.tryAdmit
  split
  · exact scanEntries_noAdmit_or_clear _ s
  · exact .inl (.of_bus rfl)

theorem tryAdmit_of_flag_clear {s : State} (h : s.admission.mergeFree = false) : s.tryAdmit = s := by
  have hopen : s.admissionOpen = false := by simp [State.admissionOpen, h]
  simp [State.tryAdmit, hopen]

theorem admit_clears_flag {s : State} {x : FieldUnit} {tag : Nat}
    (h : (x, OutRecord.admitTag tag) ∈ s.tryAdmit.bus.sent.drop s.bus.sent.length) :
    s.tryAdmit.admission.mergeFree = false :=
  (tryAdmit_noAdmit_or_clear s).resolve_left fun hn => hn.not_mem x tag h

/-! ### Records of a unit that does not send them (R190, R195) -/

theorem fieldRecord_wrongUnit {hd : RecHead} {kind : Nat} {u : FieldUnit} (owner : Nat → State → State) (s : State)
    (hu : unitOf hd.addr = some u) (hk : u.sends kind = false) :
    State.fieldRecord hd kind owner s = s.raiseFault .fieldMismatch u.ctx 11 := by
  simp [State.fieldRecord, recordFault, hu, hk]

/-- Such a record is reported, and the report is the whole event. -/
theorem event_wrongUnit {hd : RecHead} {kind : Nat} {u : FieldUnit} (owner : Nat → State → State) (s : State)
    (hu : unitOf hd.addr = some u) (hk : u.sends kind = false) :
    event (State.fieldRecord hd kind owner) s = .next (s.raiseFault .fieldMismatch u.ctx 11) := by
  rw [event, fieldRecord_wrongUnit owner s hu hk, judgeQuiet_fault _ _ _ s s rfl rfl]

/-- Merge Ready is the sorter's alone. -/
theorem sends_mergeReady_iff (u : FieldUnit) : u.sends 0x10 = true ↔ u = .sorter := by
  cases u <;> simp [FieldUnit.sends]

/-! ### The command -/

theorem exec_mergeReady (hd : RecHead) (s : State) :
    exec (.mergeReady hd) s = event (State.fieldRecord hd 0x10 (fun _ => State.mergeReady)) s := rfl

theorem exec_powerUp (s : State) :
    exec .powerUp s = .next { State.reset with freeCount := s.freeCount, pending := s.pending } := rfl

/-- Settles O49: the record of the sorter is its owner's work; an attempt that leaves the flag set has sent no Admit. -/
theorem mergeReadySetsTheMergeFreeFlag : Obligations.MergeReadySetsTheMergeFreeFlag := by
  unfold Obligations.MergeReadySetsTheMergeFreeFlag
  refine ⟨?fromSorter, ?fromOther, ?admits, ?powerUp, ?warmRestart, ?flagClear⟩
  case fromSorter =>
    intro s hd hfit
    rw [exec_mergeReady]
    exact event_fits hfit (.inl rfl) rfl
  case fromOther =>
    intro s hd u hu hne
    rw [exec_mergeReady]
    exact event_wrongUnit _ s hu (Bool.eq_false_iff.2 fun hs => hne ((sends_mergeReady_iff u).1 hs))
  case admits => exact fun s n tag h => admit_clears_flag h
  case powerUp =>
    intro s t h
    rw [exec_powerUp] at h
    cases h
    rfl
  case warmRestart =>
    intro s cause
    rw [warmRestart_admission]
    rfl
  case flagClear => exact fun s h => tryAdmit_of_flag_clear h

end Sys2Proof.Machine
end

section
/-! SUPPORT. DELIVERED at EXCEPTION of an outbound release (R99): the entry dropped, the record freed with every credit
it holds, and the event as a whole. -/

namespace Sys2Proof.Machine

open Sys2Proof

/-! ### Common credits returned ahead of a freeing (R90, R91) -/

/-- A hold that names no common credits has none to return. -/
theorem returnCommon_of_noCommon {s : State} {i : Item} {tag : Nat} (hi : s.item? tag = some i)
    (hc : i.hold.commonAt = none) : s.returnCommon tag = s := by
  cases hh : i.hold with
  | none | chute => simp only [State.returnCommon, hi, hh]
  | common | both => rw [hh] at hc; exact absurd hc nofun

/-- What is left of the hold once the common credits are returned names no common credits. -/
theorem returnCommon_item {s : State} {i : Item} {tag : Nat} (hi : s.item? tag = some i) :
    ∃ j, (s.returnCommon tag).item? tag = some j ∧ j.hold.commonAt = none := by
  have amended (b : Nat) (h : Hold) :
      ((s.giveCommon b i.vu).updItem tag (fun x => { x with hold := h })).item? tag = some { i with hold := h } :=
    (updItem_item_same (s := s.giveCommon b i.vu)).trans (congrArg (Option.map _) hi)
  cases hh : i.hold with
  | none | chute =>
    have hc : i.hold.commonAt = none := by rw [hh]; rfl
    exact ⟨i, by rw [returnCommon_of_noCommon hi hc, hi], hc⟩
  | common b => exact ⟨{ i with hold := .none }, by simp only [State.returnCommon, hi, hh, amended], rfl⟩
  | both b => exact ⟨{ i with hold := .chute b }, by simp only [State.returnCommon, hi, hh, amended], rfl⟩

theorem returnCommon_idem {s : State} {i : Item} {tag : Nat} (hi : s.item? tag = some i) :
    (s.returnCommon tag).returnCommon tag = s.returnCommon tag := by
  obtain ⟨j, hj, hc⟩ := returnCommon_item hi
  exact returnCommon_of_noCommon hj hc

/-- R91 returns what is still held: common credits returned just before the freeing are not returned twice. -/
theorem returnCommon_freeItem {s : State} {i : Item} {tag : Nat} (hi : s.item? tag = some i) :
    (s.returnCommon tag).freeItem tag = s.freeItem tag := by
  simp only [State.freeItem, returnCommon_idem hi]

/-! ### The entry answered -/

theorem dropRelease_eq (tag : Nat) (s : State) : s.dropRelease tag = { s with
    arbiter := { s.arbiter with releases := s.arbiter.releases.filter (fun e => decide (e.1 ≠ tag)) } } := by
  simp only [State.dropRelease, bne_decide]

@[simp] theorem dropRelease_item (tag n : Nat) (s : State) : (s.dropRelease tag).item? n = s.item? n := rfl

/-- An answer to the entry of a tracked item is the work of R98 to R100, then the arbitration for the place freed. -/
theorem delivered_entry {s : State} {tag : Nat} {i : Item} {q : Point} (p : Point) (he : s.releaseEntry? tag = some q)
    (hi : s.item? tag = some i) : s.delivered tag p = ((s.dropRelease tag).answerDelivered p q i).arbitrate := by
  simp only [State.delivered, he, dropRelease_item, hi]

theorem answerDelivered_exception {s : State} {tag : Nat} {i : Item} (hi : s.item? tag = some i) :
    s.answerDelivered .exception .exception i = s.freeItem tag := by
  obtain ⟨-, rfl⟩ := look_some hi
  exact returnCommon_freeItem hi

/-- R99: an outbound release answered frees the record in the state that the entry has left. -/
theorem delivered_exception {s : State} {tag : Nat} {i : Item} (he : s.releaseEntry? tag = some .exception)
    (hi : s.item? tag = some i) : s.delivered tag .exception = ((s.dropRelease tag).freeItem tag).arbitrate := by
  have hkept : (s.dropRelease tag).item? tag = some i := (dropRelease_item tag tag s).trans hi
  rw [delivered_entry .exception he hi, answerDelivered_exception hkept]

/-! ### The command -/

theorem exec_delivered (hd : RecHead) (tag : Nat) (p : Point) (s : State) :
    exec (.delivered hd tag p) s = event (State.fieldRecord hd 0x18 (fun _ => State.delivered tag p)) s := rfl

/-- Settles O53: the record of the buffer is its owner's work, a freeing from the list without the entry. -/
theorem outboundDeliveryFreesTheItem : Obligations.OutboundDeliveryFreesTheItem := by
  unfold Obligations.OutboundDeliveryFreesTheItem
  intro s hd tag i hfit he hi
  rw [exec_delivered]
  refine event_fits hfit (.inr rfl) ?_
  have hkept : (s.dropRelease tag).item? tag = some i := (dropRelease_item tag tag s).trans hi
  rw [delivered_exception he hi, freeItem_eq hkept, dropRelease_eq]
  rfl

end Sys2Proof.Machine
end

section
/-! SUPPORT. SET_LATE_LANE (R159): what its owner answers in each case, and the late lane read at the Sealed of an order
whose wave has DEPARTED (R153). -/

namespace Sys2Proof.Machine

open Sys2Proof

/-! ### The request -/

/-- The command is the hand-over of the request to `State.setLateLane`. -/
theorem exec_setLateLane (rq : ReqHead) (n : Nat) (s : State) :
    exec (.setLateLane rq n) s = request (.setLateLane rq n) rq 0x3B (State.setLateLane rq n) s := rfl

theorem setLateLane_badLength {rq : ReqHead} (n : Nat) (s : State) (hl : rq.lengthOk = false) :
    s.setLateLane rq n = (⟨.badLength, .none⟩, s) := checked_len hl

theorem setLateLane_badValue {rq : ReqHead} {n : Nat} (s : State) (hl : rq.lengthOk = true) (hn : n = 0 ∨ 4 < n) :
    s.setLateLane rq n = (⟨.badValue, .none⟩, s) := by
  refine checked_bad hl (Bool.eq_false_iff.2 fun hr => ?_)
  have hrange : 1 ≤ n ∧ n ≤ 4 := inRange_iff.1 hr
  omega

theorem setLateLane_ok {rq : ReqHead} {n : Nat} (s : State) (hl : rq.lengthOk = true) (h1 : 1 ≤ n) (h4 : n ≤ 4) :
    s.setLateLane rq n = (⟨.ok, .lateLane s.lateLane⟩, { s with lateLane := n }) :=
  checked_ok hl (inRange_iff.2 ⟨h1, h4⟩)

/-! ### The Sealed of an order of a departed wave -/

namespace State

/-- R153: the order marked LATE, and LATE_HAMPER reported with the late lane as it stands. -/
def lateReported (b : Nat) (o : Order) (s : State) : State :=
  (s.updOrder o.slot (fun o => { o with late := true })).raiseFault .lateHamper
    ⟨none, some o.slot, some b, some s.lateLane, none⟩ o.wave

/-- R153: bench b joins the end of lane n's holding list with its order slot, and is HOLDING. -/
def joinHolding (n b slot : Nat) (s : State) : State :=
  (s.updDispatch n (fun d => { d with holding := d.holding ++ [(b, slot)] })).updBench b (fun x =>
    { x with state := .holding })

end State

theorem takeSealed_departed {s : State} (b : Nat) {o : Order} (hw : s.waveState o.wave = .departed) :
    s.takeSealed b o = ((s.lateReported b o).joinHolding s.lateLane b o.slot).serveLane s.lateLane := by
  have hdep : (s.waveState o.wave == .departed) = true := by rw [hw]; rfl
  simp only [State.takeSealed, hdep, if_true]
  rfl

/-- The mark is the book's and a report leaves the dispatch lanes alone, even where it halts the cell. -/
theorem lateReported_dispatchLane (b n : Nat) (o : Order) (s : State) :
    (s.lateReported b o).dispatchLane? n = s.dispatchLane? n :=
  (congrArg (State.dispatchLane? · n) (raiseFault_frame _ _ _ (s.updOrder o.slot _)) :)

theorem updDispatch_dispatchLane_same {n : Nat} {f : DispatchLane → DispatchLane} {s : State}
    (hf : ∀ d, (f d).number = d.number := by exact fun _ => rfl) :
    (s.updDispatch n f).dispatchLane? n = (s.dispatchLane? n).map f := look_amend_same hf s.dispatch

theorem updDispatch_dispatchLane_other {n m : Nat} {f : DispatchLane → DispatchLane} {s : State} (hm : m ≠ n)
    (hf : ∀ d, (f d).number = d.number := by exact fun _ => rfl) :
    (s.updDispatch n f).dispatchLane? m = s.dispatchLane? m := look_amend_other hf hm s.dispatch

theorem joinHolding_dispatchLane_same {s : State} {n : Nat} {d : DispatchLane} (b slot : Nat)
    (hd : s.dispatchLane? n = some d) :
    (s.joinHolding n b slot).dispatchLane? n = some { d with holding := d.holding ++ [(b, slot)] } :=
  (updDispatch_dispatchLane_same).trans (congrArg (Option.map _) hd)

theorem joinHolding_dispatchLane_other {n m : Nat} (b slot : Nat) (s : State) (hm : m ≠ n) :
    (s.joinHolding n b slot).dispatchLane? m = s.dispatchLane? m := updDispatch_dispatchLane_other hm

/-- Settles O48: the owner's answer in each case, handed over; and the service after the joining, which finds the late
lane one entry longer. -/
theorem lateLaneIsReadAtTheNextSealed : Obligations.LateLaneIsReadAtTheNextSealed := by
  unfold Obligations.LateLaneIsReadAtTheNextSealed
  refine ⟨fun s rq n hturn => ?request, fun s b o d hw hd => ?nextSealed⟩
  case request =>
    rw [exec_setLateLane]
    refine ⟨fun hl => ?badLength, fun hl hn => ?badValue, fun hl h1 h4 => ?set⟩
    case badLength => exact request_same hturn (setLateLane_badLength n s hl)
    case badValue => exact request_same hturn (setLateLane_badValue s hl hn)
    case set => exact request_next hturn (setLateLane_ok s hl h1 h4) rfl rfl
  case nextSealed =>
    have hreported : (s.lateReported b o).dispatchLane? s.lateLane = some d :=
      (lateReported_dispatchLane b s.lateLane o s).trans hd
    refine ⟨(s.lateReported b o).joinHolding s.lateLane b o.slot, takeSealed_departed b hw,
      joinHolding_dispatchLane_same b o.slot hreported, fun m hm => ?otherLanes⟩
    case otherLanes =>
      rw [joinHolding_dispatchLane_other b o.slot _ hm, lateReported_dispatchLane]

end Sys2Proof.Machine
end

section
/-! SUPPORT. What a command may do, whichever it is: its handling, then the quiet judgment and the reply that close it.
Each aspect that a statement speaks of is a field, so that the commands are gone through once. -/

namespace Sys2Proof.Machine

open Sys2Proof

variable {c : Instr} {s t u v : State}

/-! ### What lasts over a command -/

/-- What every item there is keeps of an item there was. -/
def ItemsLast (s t : State) : Prop := ∀ j ∈ t.items, ∃ i ∈ s.items, ItemKept i j

/-- What an Amend Order keeps of an order. -/
structure OrderAmended (o p : Order) : Prop where
  slot : p.slot = o.slot
  ref : p.ref = o.ref
  template : p.template = o.template
  loadSeq : p.loadSeq = o.loadSeq
  state : OrderReaches o.state p.state
  overdue : o.overdue = true → p.overdue = true
  late : o.late = true → p.late = true
  fragile : o.fragileBegun = true → p.fragileBegun = true

theorem OrderKept.amended {o p : Order} (h : OrderKept o p) : OrderAmended o p :=
  ⟨h.slot, h.ref, h.template, h.loadSeq, h.state, h.overdue, h.late, h.fragile⟩

theorem OrderAmended.trans {o p q : Order} (h : OrderAmended o p) (k : OrderAmended p q) : OrderAmended o q :=
  ⟨k.slot.trans h.slot, k.ref.trans h.ref, k.template.trans h.template, k.loadSeq.trans h.loadSeq,
    h.state.trans k.state, k.overdue ∘ h.overdue, k.late ∘ h.late, k.fragile ∘ h.fragile⟩

/-- The change kinds of Amend Order (R15 to R17). -/
def amends : Instr → Bool
  | .setQuantity _ _ _ _ | .addLine _ _ _ _ _ _ | .removeLine _ _ _ | .setPriority _ _ _ | .amendSetWave _ _ _ => true
  | _ => false

/-- What a command keeps of an order: all that lasts, unless it amends orders. -/
structure OrderLasts (c : Instr) (o p : Order) : Prop where
  amended : OrderAmended o p
  kept : amends c = false → OrderKept o p

/-- What every order there is keeps of an order there was. -/
def OrdersLast (c : Instr) (s t : State) : Prop :=
  s.Inv → ∀ p ∈ t.book.orders, ∃ o ∈ s.book.orders, OrderLasts c o p

theorem OrderKept.lasts {o p : Order} (h : OrderKept o p) : OrderLasts c o p := ⟨h.amended, fun _ => h⟩

theorem OrderLasts.trans {o p q : Order} (h : OrderLasts c o p) (k : OrderLasts c p q) : OrderLasts c o q :=
  ⟨h.amended.trans k.amended, fun hc => (h.kept hc).trans (k.kept hc)⟩

theorem ItemsLast.trans (h : ItemsLast s t) (k : ItemsLast t u) : ItemsLast s u := fun j hj => by
  obtain ⟨i, hi, hij⟩ := k j hj
  obtain ⟨i', hi', hii⟩ := h i hi
  exact ⟨i', hi', hii.trans hij⟩

theorem OrdersLast.trans (hinv : s.Inv → t.Inv) (h : OrdersLast c s t) (k : OrdersLast c t u) : OrdersLast c s u :=
  fun hi q hq => by
    obtain ⟨p, hp, hpq⟩ := k (hinv hi) q hq
    obtain ⟨o, ho, hop⟩ := h hi p hp
    exact ⟨o, ho, hop.trans hpq⟩

theorem Lasts.ordersLast (h : Lasts s t) : OrdersLast c s t := fun hi p hp =>
  (h.orders hi p hp).imp fun _ g => ⟨g.1, g.2.lasts⟩

theorem Taken.ordersLast (h : Taken s t) : OrdersLast c s t := fun hi p hp =>
  (h.orders hi p hp).imp fun _ g => ⟨g.1, g.2.lasts⟩

/-! ### The handling of a command -/

/-- The commands that move the cell by a table of chapter 10, or by a judgment of their own. -/
def steers : Instr → Bool
  | .powerUp | .minuteTick | .restartForced | .cellBusFrame _ | .commitSetup _ | .startCell _ | .pauseCell _
  | .stopCell _ | .clearHalt _ | .restartCellImmediate _ | .restartCellAtBoundary _ => true
  | _ => false

/-- The cell as it was, or halted by a fault from a state in which a halt request finds work (R182). -/
def CellTouched (s u : State) : Prop :=
  u.cell.committed = s.cell.committed ∧ (u.cell.state = s.cell.state ∨ (u.cell.state = .halted ∧
    (s.cell.state = .ready ∨ s.cell.state = .running ∨ s.cell.state = .paused ∨ s.cell.state = .draining)))

theorem Touch.cellTouched (h : Touch s u) : CellTouched s u := ⟨by rw [h.cell], h.cellCases⟩

theorem CellTouched.trans (h : CellTouched s t) (k : CellTouched t u) : CellTouched s u := by
  obtain ⟨hcom, hst⟩ := h
  obtain ⟨kcom, kst⟩ := k
  refine ⟨kcom.trans hcom, ?_⟩
  rcases kst with hk | ⟨hk, hfrom⟩
  · rwa [hk]
  · rcases hst with hs | ⟨hs, _⟩
    · exact .inr ⟨hk, hs ▸ hfrom⟩
    · simp [hs] at hfrom

/-- From s to u the handling of command c, before the quiet judgment and the reply that close it. -/
structure Handled (c : Instr) (s u : State) : Prop where
  pending : u.pending = s.pending
  inv : s.Inv → u.Inv
  settings : configures c = false → u.settings = s.settings
  notified : u.cell.state ≠ s.cell.state → flagIn u.notices.pending .cellState = true
  seen : (∀ rq v, c ≠ .clearFaultRecords rq v) → ∀ k, kindIn s.faults.seen k = true → kindIn u.faults.seen k = true
  clock : c ≠ .minuteTick → (∀ rq m, c ≠ .setClock rq m) → u.clock = s.clock
  loadSeq : (∀ tag body, c ≠ .loadOrder tag body) → u.book.loadSeq = s.book.loadSeq ∨ u.book = ⟨[], 0⟩
  items : (∀ a b, c ≠ .arrival a b) → ItemsLast s u
  orders : (∀ tag body, c ≠ .loadOrder tag body) → OrdersLast c s u
  cell : steers c = false → CellTouched s u

theorem Lasts.handled (h : Lasts s u) (clock : u.clock = s.clock)
    (loadSeq : u.book.loadSeq = s.book.loadSeq ∨ u.book = ⟨[], 0⟩) (cell : steers c = false → CellTouched s u) :
    Handled c s u where
  pending := h.pending
  inv := h.inv
  settings _ := h.settings
  notified := h.notified
  seen _ := h.seen
  clock _ _ := clock
  loadSeq _ := loadSeq
  items _ := h.items
  orders _ := h.ordersLast
  cell := cell

theorem Work.handled (h : Work s u) : Handled c s u :=
  h.lasts.handled h.clock (.inl h.loadSeq) fun _ => h.toTouch.cellTouched

/-- A handling that may make an item or an order, or change what lasts of an order. -/
theorem Touch.handled (h : Touch s u)
    (loadSeq : (∀ tag body, c ≠ .loadOrder tag body) → u.book.loadSeq = s.book.loadSeq)
    (items : (∀ a b, c ≠ .arrival a b) → ItemsLast s u)
    (orders : (∀ tag body, c ≠ .loadOrder tag body) → OrdersLast c s u) : Handled c s u where
  pending := h.pending
  inv := h.inv
  settings _ := h.settings
  notified := h.notified
  seen _ := h.seen
  clock _ _ := h.clock
  loadSeq hc := .inl (loadSeq hc)
  items := items
  orders := orders
  cell _ := h.cellTouched

theorem Handled.refl (c : Instr) (s : State) : Handled c s s := (Work.refl s).handled

/-- A record taken that keeps what lasts of every item. -/
theorem Taken.handled (h : Taken s u) (hl : Lasts s u) : Handled c s u :=
  hl.handled h.clock (.inl h.loadSeq) fun _ => h.toTouch.cellTouched

/-- A handling goes on with work, or with the like that keeps what lasts. -/
theorem Handled.taken (h : Handled c s t) (k : Taken t u) (kl : Lasts t u) : Handled c s u where
  pending := k.pending.trans h.pending
  inv := k.inv ∘ h.inv
  settings hc := k.settings.trans (h.settings hc)
  notified hn := by
    by_cases hu : u.cell.state = t.cell.state
    · exact k.cellFlag (h.notified (hu ▸ hn))
    · exact k.notified hu
  seen hc x hx := k.seen x (h.seen hc x hx)
  clock ht hs := k.clock.trans (h.clock ht hs)
  loadSeq hc := (h.loadSeq hc).imp k.loadSeq.trans fun hb => by
    have horders := k.empty (by rw [hb])
    have hseq := k.loadSeq
    rw [hb] at hseq
    exact congr (congrArg Book.mk horders) hseq
  items hc := (h.items hc).trans kl.items
  orders hc := (h.orders hc).trans h.inv kl.ordersLast
  cell hc := (h.cell hc).trans k.toTouch.cellTouched

theorem Handled.work (h : Handled c s t) (k : Work t u) : Handled c s u := h.taken k.taken k.lasts

/-- The handling of a command with a cell table of its own goes on with a change of the cell. -/
theorem Handled.steer (h : Handled c s t) (hc : steers c = true) (k : Lasts t u) (clock : u.clock = t.clock := by rfl)
    (book : u.book = t.book ∨ u.book = ⟨[], 0⟩ := by exact .inl rfl) : Handled c s u where
  pending := k.pending.trans h.pending
  inv := k.inv ∘ h.inv
  settings hs := k.settings.trans (h.settings hs)
  notified hn := by
    by_cases hu : u.cell.state = t.cell.state
    · exact k.cellFlag (h.notified (hu ▸ hn))
    · exact k.notified hu
  seen hx x hk := k.seen x (h.seen hx x hk)
  clock ht hs := clock.trans (h.clock ht hs)
  loadSeq hl := by
    rcases book with hb | hb
    · rw [hb]; exact h.loadSeq hl
    · exact .inr hb
  items hi := (h.items hi).trans k.items
  orders ho := (h.orders ho).trans h.inv k.ordersLast
  cell hs := absurd hc (by simp [hs])

/-- A setting replaced: the rest of the part stands. -/
theorem handled_setting (hc : configures c = true) (inv : s.Inv → u.Inv) (pending : u.pending = s.pending := by rfl)
    (clock : u.clock = s.clock := by rfl) (book : u.book = s.book := by rfl) (items : u.items = s.items := by rfl)
    (state : u.cell.state = s.cell.state := by rfl)
    (committed : steers c = true ∨ u.cell.committed = s.cell.committed := by exact .inr rfl)
    (seen : u.faults.seen = s.faults.seen := by rfl) : Handled c s u where
  pending := pending
  inv := inv
  settings h := absurd hc (by simp [h])
  notified h := absurd state h
  seen _ k hk := seen ▸ hk
  clock _ _ := clock
  loadSeq _ := .inl (by rw [book])
  items _ j hj := ⟨j, items ▸ hj, .refl j⟩
  orders _ _ p hp := ⟨p, book ▸ hp, (OrderKept.refl p).lasts⟩
  cell hs := ⟨committed.resolve_left (by simp [hs]), .inl state⟩

/-! ### The quiet judgment and the reply that close a command -/

/-- R185: t has restarted from u, on the quiet condition. -/
structure RestartedFrom (u t : State) : Prop where
  quiet : u.quiet = true
  book : t.book = ⟨[], 0⟩
  items : t.items = []
  mode : t.cell.mode = none
  cause : t.cell.causes.boundary = true
  committed : t.cell.committed = u.cell.committed
  state : t.cell.state = if u.cell.committed then .ready else .setup

/-- From u to t what closes a command: the quiet judgment, and a change of the host link. -/
structure Closes (u t : State) : Prop extends Lasts u t where
  clock : t.clock = u.clock
  book : t.book = u.book ∨ t.book = ⟨[], 0⟩
  cell : t.cell = u.cell ∨ (u.cell.state = .draining ∧ t.cell = { u.cell with state := .ready } ∧ t.quiet = true) ∨
    (u.cell.state = .restarting ∧ RestartedFrom u t)
  idle : u.cell.state ≠ .draining → u.cell.state ≠ .restarting → { t with link := u.link } = u

theorem Closes.refl (u : State) : Closes u u := ⟨.refl u, rfl, .inl rfl, .inl rfl, fun _ _ => rfl⟩

/-- The item table is empty. -/
theorem warmRestart_items (cause : Causes) (u : State) : (u.warmRestart cause).items = [] :=
  (congrArg State.items (judgeLanes_frame (u.cleared cause).sendRestarts) :).trans
    (congrArg State.items (sendRestarts_frame (u.cleared cause)) :)

theorem warmRestart_restartedFrom (u : State) (h : u.quiet = true) : RestartedFrom u (u.warmRestart .ofBoundary) := by
  refine ⟨h, warmRestart_book _ u, warmRestart_items _ u, ?_, ?_, ?_, warmRestart_state _ u⟩ <;> rw [warmRestart_cell]
  · rfl
  · exact Bool.or_true _
  · rfl

theorem actQuiet_closes (u : State) : Closes u u.actQuiet := by
  have hl := actQuiet_lasts u
  unfold State.actQuiet at *
  split
  case isFalse => exact .refl u
  case isTrue hquiet =>
    rw [if_pos hquiet] at hl
    split
    case h_1 hd =>
      rw [hd] at hl
      exact ⟨hl, rfl, .inl rfl, .inr (.inl ⟨hd, rfl, hquiet⟩), fun h => absurd hd h⟩
    case h_2 hr =>
      rw [hr] at hl
      exact ⟨hl, warmRestart_clock _ u, .inr (warmRestart_book _ u),
        .inr (.inr ⟨hr, warmRestart_restartedFrom u hquiet⟩), fun _ h => absurd hr h⟩
    all_goals exact .refl u

theorem judgeQuiet_closes (s u : State) : Closes u (State.judgeQuiet s u) := by
  unfold State.judgeQuiet
  split
  · exact .refl u
  · exact actQuiet_closes u

/-- A change of the host link closes as well. -/
theorem Closes.link (h : Closes u v) (hl : Lasts v t) (ht : { t with link := v.link } = v) : Closes u t := by
  have hclock : t.clock = v.clock := (congrArg State.clock ht :)
  have hbook : t.book = v.book := (congrArg State.book ht :)
  have hitems : t.items = v.items := (congrArg State.items ht :)
  have hcell : t.cell = v.cell := (congrArg State.cell ht :)
  have hquiet : t.quiet = v.quiet := (congrArg State.quiet ht :)
  have hlink : { t with link := u.link } = { v with link := u.link } :=
    (congrArg (fun x : State => { x with link := u.link }) ht :)
  refine ⟨h.toLasts.trans hl, hclock.trans h.clock, ?_, ?_, ?_⟩
  · rw [hbook]; exact h.book
  · rw [hcell, hquiet]
    exact h.cell.imp_right (Or.imp_right fun ⟨hr, r⟩ => ⟨hr, r.quiet, hbook.trans r.book, hitems.trans r.items,
      hcell ▸ r.mode, hcell ▸ r.cause, hcell ▸ r.committed, hcell ▸ r.state⟩)
  · rw [hlink]; exact h.idle

/-- A request that is not in turn changes the host link alone. -/
theorem requestArrives_link (s : State) (tag kind : Byte) (c : Instr) :
    { s.requestArrives tag kind c with link := s.link } = s := by
  unfold State.requestArrives
  split
  · rfl
  · exact answerBusy_link s tag kind

/-- A request is answered after its owner's work, or its owner has done nothing, or it waits or is turned away. -/
theorem request_closes (c : Instr) (rq : ReqHead) (kind : Byte) (owner : State → Reply × State) (s : State) :
    ∃ t, request c rq kind owner s = .next t ∧
      (((owner s).2 ≠ s ∧ Closes (owner s).2 t) ∨ (Lasts s t ∧ { t with link := s.link } = s)) := by
  unfold request
  split
  · refine ⟨_, rfl, ?_⟩
    by_cases he : (owner s).2 = s
    · rw [he, judgeQuiet_self]
      exact .inr ⟨answer_lasts _ _ _ s, answer_link s _ _ _⟩
    · exact .inl ⟨he, (judgeQuiet_closes s _).link (answer_lasts _ _ _ _) (answer_link _ _ _ _)⟩
  · exact ⟨_, rfl, .inr ⟨requestArrives_lasts _ _ _ s, requestArrives_link _ _ _ _⟩⟩

/-! ### A whole command -/

/-- The moves of the cell that any command may make: a halt (R182), and those on the quiet condition (R181, R184). -/
def CommonMove (c : Instr) (s t : State) : Prop :=
  t.cell.state = s.cell.state ∨
    (t.cell.state = .halted ∧
      (s.cell.state = .ready ∨ s.cell.state = .running ∨ s.cell.state = .paused ∨ s.cell.state = .draining)) ∨
    (s.cell.state = .draining ∧ t.cell.state = .ready ∧ ((∃ bs, c = .cellBusFrame bs) ∨ t.quiet = true)) ∨
    (s.cell.state = .restarting ∧ (∀ rq, c ≠ .restartCellAtBoundary rq) ∧ t.book = ⟨[], 0⟩ ∧ t.cell.mode = none ∧
      (t.cell.causes.boundary = true ∨ t.cell.causes.forced = true) ∧
      (t.cell.state = (if s.cell.committed then .ready else .setup) ∨
        (t.cell.state = .halted ∧ (if s.cell.committed then CellState.ready else .setup) = .ready ∧
          ((∃ bs, c = .cellBusFrame bs) ∨ c = .minuteTick ∨ c = .restartForced))))

/-- From s to t the whole of command c. -/
structure Done (c : Instr) (s t : State) : Prop where
  pending : t.pending = s.pending
  inv : s.Inv → t.Inv
  settings : configures c = false → t.settings = s.settings
  notified : c ≠ .powerUp → t.cell.state ≠ s.cell.state → flagIn t.notices.pending .cellState = true
  seen : c ≠ .powerUp → (∀ rq v, c ≠ .clearFaultRecords rq v) →
    ∀ k, kindIn s.faults.seen k = true → kindIn t.faults.seen k = true
  clock : c ≠ .powerUp → c ≠ .minuteTick → (∀ rq m, c ≠ .setClock rq m) → t.clock = s.clock
  loadSeq : (∀ tag body, c ≠ .loadOrder tag body) → t.book.loadSeq = s.book.loadSeq ∨ t.book = ⟨[], 0⟩
  items : (∀ a b, c ≠ .arrival a b) →
    (∀ bs, c = .cellBusFrame bs → ∀ addr tag body,
      FrameEnd.good (addr :: tag :: 0x01 :: body) ∉ framesIn 3 1027 s.bus.rx bs) → ItemsLast s t
  orders : (∀ tag body, c ≠ .loadOrder tag body) → OrdersLast c s t
  cell : steers c = false → CommonMove c s t

/-- R181, R182, R184: what closes a command that may have halted the cell. -/
theorem Closes.commonMove (h : CellTouched s u) (k : Closes u t) (hc : ∀ rq, c ≠ .restartCellAtBoundary rq) :
    CommonMove c s t := by
  obtain ⟨hcommitted, hstate⟩ := h
  rcases k.cell with hcell | ⟨hd, ht, hquiet⟩ | ⟨hr, r⟩
  · rw [CommonMove, hcell]
    exact hstate.imp_right .inl
  · rcases hstate with hs | ⟨hs, -⟩
    · exact .inr (.inr (.inl ⟨hs ▸ hd, by rw [ht], .inr hquiet⟩))
    · simp [hs] at hd
  · rcases hstate with hs | ⟨hs, -⟩
    · exact .inr (.inr (.inr ⟨hs ▸ hr, hc, r.book, r.mode, .inl r.cause, .inl (hcommitted ▸ r.state)⟩))
    · simp [hs] at hr

/-- A command is its handling and what closes it. -/
theorem Handled.done (h : Handled c s u) (k : Closes u t) : Done c s t where
  pending := k.pending.trans h.pending
  inv := k.inv ∘ h.inv
  settings hc := k.settings.trans (h.settings hc)
  notified _ hn := by
    by_cases hu : t.cell.state = u.cell.state
    · exact k.cellFlag (h.notified (hu ▸ hn))
    · exact k.notified hu
  seen _ hc x hx := k.seen x (h.seen hc x hx)
  clock _ ht hs := k.clock.trans (h.clock ht hs)
  loadSeq hc := by
    rcases k.book with hk | hk
    · rw [hk]; exact h.loadSeq hc
    · exact .inr hk
  items hc _ := (h.items hc).trans k.items
  orders hc := (h.orders hc).trans h.inv k.ordersLast
  cell hc := k.commonMove (h.cell hc) fun rq he => by subst he; cases hc

end Sys2Proof.Machine
end

section
/-! SUPPORT. The handling of each request by its owner: requests that read, that amend orders, that set, and the cell's. -/

namespace Sys2Proof.Machine

open Sys2Proof

variable {c : Instr} {s t u : State}

/-! ### Checks (R13, R189) -/

theorem checked_handled {l v : Bool} {owner : State → Reply × State} (h : Handled c s (owner s).2) :
    Handled c s (checked l v owner s).2 := by
  rcases checked_cases l v owner s with he | he <;> rw [he]
  · exact h
  · exact .refl c s

/-- An owner that gives the state back: a request that reads. -/
theorem reading_handled {l v : Bool} {reply : State → Reply} :
    Handled c s (checked l v (fun s => (reply s, s)) s).2 := checked_handled (.refl c s)

theorem orderRequest_handled {rq : ReqHead} {v : Bool} {ref : Nat} {allowed : OrderState → Bool}
    {owner : Order → State → Reply × State}
    (h : ∀ o, (s.Inv → s.order? o.slot = some o) → Handled c s (owner o s).2) :
    Handled c s (orderRequest rq v ref allowed owner s).2 := by
  refine checked_handled ?_
  split
  · exact .refl c s
  case h_2 o ho =>
    split
    · exact h o fun hi => orderOf_slot hi ho
    · exact .refl c s

/-! ### Requests that load and amend orders (R14 to R17) -/

theorem ItemsLast.of_eq (h : t.items = s.items) : ItemsLast s t := fun j hj => ⟨j, h ▸ hj, .refl j⟩

theorem acceptOrder_items {slot : Nat} (f : LoadFields) (s : State) : ItemsLast s (s.acceptOrder slot f) := by
  unfold State.acceptOrder
  dsimp only
  exact .trans (.of_eq (by split <;> rfl)) (bindPass_work _).items

theorem loadOrder_handled (tag : Byte) (body : List Byte) (s : State) :
    Handled (.loadOrder tag body) s (s.loadOrder body).2 := by
  have load (h : ∀ tag' body', Instr.loadOrder tag body ≠ .loadOrder tag' body') : False := h tag body rfl
  refine (loadOrder_touch body s).handled (fun h => (load h).elim) (fun _ => ?_) (fun h => (load h).elim)
  unfold State.loadOrder
  dsimp only
  rcases checked_cases (loadLengthOk body) (loadFieldsOk (LoadFields.read body)) _ s with h | h <;> rw [h]
  · repeat' split
    all_goals first | exact .of_eq rfl | exact acceptOrder_items _ s
  · exact .of_eq rfl

/-- An amendment of the order in a slot, before the checks that follow it. -/
theorem updOrder_amends (hc : amends c = true) {f : Order → Order} (slot : Nat) (s : State)
    (hf : ∀ o, OrderAmended o (f o) := by exact fun _ => ⟨rfl, rfl, rfl, rfl, .refl, id, id, id⟩) :
    Handled c s (s.updOrder slot f) := by
  refine (updOrder_touch slot s fun o => (hf o).slot).handled (fun _ => rfl) (fun _ => .of_eq rfl) fun _ _ p hp => ?_
  have lasts (o : Order) (h : OrderAmended o p) : OrderLasts c o p := ⟨h, fun h => by simp [hc] at h⟩
  rcases mem_amend hp with hp | ⟨o, ho, -, rfl⟩
  · exact ⟨p, hp, (OrderKept.refl p).lasts⟩
  · exact ⟨o, ho, lasts o (hf o)⟩

theorem setQuantity_handled (hc : amends c = true) (n r : Nat) (o : Order) (s : State) :
    Handled c s (s.setQuantity n r o).2 := by
  unfold State.setQuantity
  repeat' (split; · exact .refl c s)
  exact (updOrder_amends hc _ s).work
    (((recomputeGate_work _ _).trans (completionCheck_work _ _)).trans (bindIfWaiting_work _ _))

theorem addLine_handled (hc : amends c = true) (sku : Nat) (k : ItemClass) (r g : Nat) (o : Order) (s : State) :
    Handled c s (s.addLine sku k r g o).2 := by
  unfold State.addLine
  repeat' (split; · exact .refl c s)
  exact (updOrder_amends hc _ s).work
    ((recomputeGate_work _ _).trans (bindIfWaiting_work _ _))

theorem removeLine_handled (hc : amends c = true) (n : Nat) (o : Order) (s : State) :
    Handled c s (s.removeLine n o).2 := by
  unfold State.removeLine
  repeat' (split; · exact .refl c s)
  exact (updOrder_amends hc _ s).work
    ((((renumber_work _ _ _).trans (recomputeGate_work _ _)).trans (completionCheck_work _ _)).trans
      (bindIfWaiting_work _ _))

theorem setPriority_handled (hc : amends c = true) (n : Nat) (o : Order) (s : State) :
    Handled c s (s.setPriority n o).2 :=
  (updOrder_amends hc _ s).work (bindIfWaiting_work _ _)

theorem amendWave_handled (hc : amends c = true) (w : Nat) (o : Order) (s : State) :
    Handled c s (s.amendWave w o).2 := by
  unfold State.amendWave
  repeat' (split; · exact .refl c s)
  refine Handled.work (t := ite _ _ _) ?_ (bindIfWaiting_work _ _)
  have hmarked : Handled c s (s.updOrder o.slot fun p => { p with wave := w, overdue := p.overdue || s.waveState w == .cut }) :=
    updOrder_amends hc _ s fun _ => ⟨rfl, rfl, rfl, rfl, .refl, fun h => by simp [h], id, id⟩
  split
  · exact hmarked.work (raiseNotice_work _ _)
  · exact hmarked

theorem holdOrder_handled (o : Order) (s : State) (ho : s.Inv → s.order? o.slot = some o) :
    Handled c s (s.holdOrder o).2 := by
  have hl := holdOrder_lasts o s ho
  refine hl.handled (holdOrder_touch o s).clock (.inl ?_) fun _ => (holdOrder_touch o s).cellTouched
  unfold State.holdOrder
  split <;> rfl

/-! ### The requests of the cell (R179, R180, R183) -/

theorem Handled.closes (h : Handled c s t) (hc : steers c = true) (k : Closes t u) : Handled c s u :=
  h.steer hc k.toLasts k.clock k.book

/-- R178: a state entered from one that is not RESTARTING, with the work of it. -/
theorem entered_handled (hc : steers c = true) {x : CellState} (hs : s.cell.state ≠ .restarting) (hx : x ≠ .restarting)
    (h : Work (s.setCell x) u) : Handled c s u :=
  ((Handled.refl c s).steer hc (setCell_lasts x hs hx)).work h

theorem commitSetup_handled (rq : ReqHead) (l : Bool) (s : State) :
    Handled (.commitSetup rq) s (State.commitSetup l s).2 := by
  unfold State.commitSetup
  split
  · exact .refl _ s
  · split
    · exact .refl _ s
    case isFalse hs =>
      have hset : s.cell.state = .setup := by simpa using hs
      split
      · have hcommitted : Handled (.commitSetup rq) s { s with cell := { s.cell with committed := true } } :=
          handled_setting rfl (fun hi => { hi with }) (committed := .inl rfl)
        exact hcommitted.steer rfl (setCell_lasts .ready (show s.cell.state ≠ .restarting by simp [hset]) (by decide))
      · exact .refl _ s

theorem cellCommand_handled (hc : steers c = true) {l : Bool} {act : State → Option State}
    (h : ∀ t, act s = some t → Handled c s t) : Handled c s (State.cellCommand l act s).2 := by
  unfold State.cellCommand
  split
  · exact .refl c s
  · split
    · exact .refl c s
    case h_2 t ht => exact (h t ht).closes hc (judgeQuiet_closes s t)

/-- R180, what each column of the table takes a command to. -/
theorem startAct_cases (h : s.startAct = some t) :
    ((s.cell.state = .ready ∨ s.cell.state = .paused) ∧ t = s.enterRunning) ∨ (s.cell.state = .running ∧ t = s) := by
  unfold State.startAct at h
  split at h
  · cases h
  · generalize s.enterRunning = r at *
    split at h <;> simp_all

theorem pauseAct_cases (h : s.pauseAct = some t) :
    (s.cell.state = .running ∧ t = s.enterPaused) ∨ (s.cell.state = .paused ∧ t = s) := by
  unfold State.pauseAct at h
  generalize s.enterPaused = r at *
  split at h <;> simp_all

theorem stopAct_cases (h : s.stopAct = some t) :
    ((s.cell.state = .running ∨ s.cell.state = .paused) ∧ t = s.enterDraining) ∨
      ((s.cell.state = .ready ∨ s.cell.state = .draining) ∧ t = s) := by
  unfold State.stopAct at h
  generalize s.enterDraining = r at *
  split at h <;> simp_all

theorem clearHaltAct_cases (h : s.clearHaltAct = some t) :
    (s.cell.state = .halted ∧ t = s.enterPaused.judgeLanes) ∨ (s.cell.state ≠ .halted ∧ t = s) := by
  unfold State.clearHaltAct at h
  generalize s.enterPaused = r at *
  split at h <;> simp_all

/-- R178: the work of a state entry, after the change of the cell. -/
theorem enterRunning_work (s : State) : Work (s.setCell .running) s.enterRunning := runningWork (s.setCell .running)
theorem enterPaused_work (s : State) : Work (s.setCell .paused) s.enterPaused := pausedWork (s.setCell .paused)
theorem enterDraining_work (s : State) : Work (s.setCell .draining) s.enterDraining := drainingWork (s.setCell .draining)

theorem startAct_handled (hc : steers c = true) (h : s.startAct = some t) : Handled c s t := by
  rcases startAct_cases h with ⟨hs, ht⟩ | ⟨-, ht⟩ <;> rw [ht]
  · exact entered_handled hc (by rcases hs with hs | hs <;> simp [hs]) (by decide) (enterRunning_work s)
  · exact .refl c s

theorem pauseAct_handled (hc : steers c = true) (h : s.pauseAct = some t) : Handled c s t := by
  rcases pauseAct_cases h with ⟨hs, ht⟩ | ⟨-, ht⟩ <;> rw [ht]
  · exact entered_handled hc (by simp [hs]) (by decide) (enterPaused_work s)
  · exact .refl c s

theorem stopAct_handled (hc : steers c = true) (h : s.stopAct = some t) : Handled c s t := by
  rcases stopAct_cases h with ⟨hs, ht⟩ | ⟨-, ht⟩ <;> rw [ht]
  · exact entered_handled hc (by rcases hs with hs | hs <;> simp [hs]) (by decide) (enterDraining_work s)
  · exact .refl c s

theorem clearHaltAct_handled (hc : steers c = true) (h : s.clearHaltAct = some t) : Handled c s t := by
  rcases clearHaltAct_cases h with ⟨hs, ht⟩ | ⟨-, ht⟩ <;> rw [ht]
  · exact entered_handled hc (by simp [hs]) (by decide) ((enterPaused_work s).trans (judgeLanes_work _))
  · exact .refl c s

theorem warmRestart_handled (hc : steers c = true) (cause : Causes) (s : State) : Handled c s (s.warmRestart cause) :=
  (Handled.refl c s).steer hc (warmRestart_lasts cause s) (warmRestart_clock cause s) (.inr (warmRestart_book cause s))

theorem restartAtBoundary_handled (hc : steers c = true) (s : State) : Handled c s (State.restartAtBoundary s).2 := by
  have entered : Handled c s (State.enterRestarting s).2 := (Handled.refl c s).steer hc (enterRestarting_lasts s)
  unfold State.restartAtBoundary
  split
  · exact warmRestart_handled hc _ s
  · exact entered
  · exact entered
  · exact entered
  · exact entered
  · exact entered
  · exact .refl c s

/-! ### The requests that set -/

/-- A table keeps its keys when one entry has fields set. -/
theorem keys_of_amend {α : Type} {key : α → Nat} {ks : List Nat} {n : Nat} {f : α → α} {xs : List α}
    (h : xs.map key = ks) (hf : ∀ x, key (f x) = key x := by exact fun _ => rfl) : (amend key n f xs).map key = ks :=
  (amend_keys hf xs).trans h

theorem clearRestartCauses_handled (s : State) :
    Handled c s { s with cell := { s.cell with causes := Causes.none } } :=
  Lasts.handled (Keeps.shows (s := s) (t := { s with cell := { s.cell with causes := Causes.none } })
    ⟨rfl, rfl, fun hi => { hi with }⟩).lasts rfl (.inl rfl) fun _ => ⟨rfl, .inl rfl⟩

theorem cutoffCheck_taken (s : State) (w : Nat) : Taken s (s.cutoffCheck w) := by
  refine ⟨cutoffCheck_touch s w, (cutoffCheck_lasts s w).orders, ?_, fun h => ?_⟩ <;>
    unfold State.cutoffCheck State.cutWave <;> dsimp only
  · repeat' split
    all_goals rfl
  · repeat' split
    case isFalse.isTrue | isFalse.isFalse => exact h
    all_goals exact List.map_eq_nil_iff.2 h

theorem cutoffAll_handled (h : Handled c s t) : Handled c s t.cutoffAll := by
  unfold State.cutoffAll
  generalize upTo 8 = ws
  induction ws generalizing t with
  | nil => exact h
  | cons w ws ih => exact ih (h.taken (cutoffCheck_taken t w) (cutoffCheck_lasts t w))

/-- R33: a wave given its lane and cutoff is no longer UNUSED. -/
theorem setWaveFields_handled (hc : configures c = true) (w lane cutoff : Nat) (s : State) :
    Handled c s (s.setWaveFields w lane cutoff) := by
  have defined (f : Wave → Wave) (hn : ∀ x, (f x).number = x.number)
      (hf : ∀ x, (f x).state ≠ .unused ∧ (f x).lane ≠ none ∧ (f x).cutoff ≠ none) : Handled c s (s.updWave w f) :=
    handled_setting hc fun hi => { hi with
      waveKeys := keys_of_amend hi.waveKeys hn
      waveFields := fun x hx => by
        rcases mem_amend hx with hx | ⟨y, -, -, rfl⟩
        · exact hi.waveFields x hx
        · simp [hf y] }
  have set := defined (fun x =>
    { x with lane := some lane, cutoff := some cutoff, state := match x.state with
        | .unused | .planned | .departed => .planned
        | .cut => .cut }) (fun _ => rfl) fun x => ⟨by cases x.state <;> simp, by simp, by simp⟩
  exact set.taken (cutoffCheck_taken _ w) (cutoffCheck_lasts _ w)

theorem setWave_handled (rq : ReqHead) (w lane : Nat) (cutoff : MinuteField) (s : State) :
    Handled (.setWave rq w lane cutoff) s (s.setWave rq w lane cutoff.toNat).2 := by
  unfold State.setWave
  refine checked_handled ?_
  split
  · exact .refl _ s
  · exact setWaveFields_handled rfl w lane _ s

theorem departWave_handled (rq : ReqHead) (w : Nat) (s : State) : Handled c s (s.departWave rq w).2 := by
  unfold State.departWave
  refine checked_handled ?_
  have departs (h : s.waveState w ≠ .unused) : Handled c s (s.updWave w (fun x => { x with state := .departed })) :=
    (departWave_touch w s h).handled (fun _ => rfl) (fun _ => .of_eq rfl) fun _ _ p hp => ⟨p, hp, (OrderKept.refl p).lasts⟩
  split
  · exact .refl _ s
  case h_2 h => exact departs (by simp [h])
  case h_3 h => exact departs (by simp [h])
  case h_4 h => exact departs (by simp [h])

theorem setClock_handled (rq : ReqHead) (m : MinuteField) (s : State) :
    Handled (.setClock rq m) s (s.setClock rq m).2 := by
  have set : Handled (.setClock rq m) s { s with clock := ⟨m.toNat, true⟩ } := { Handled.refl (.setClock rq m) s with
    inv := fun hi => { hi with minute := Nat.le_of_lt_succ m.isLt }
    settings := nofun
    clock := fun _ h => (h rq m rfl).elim }
  exact checked_handled (cutoffAll_handled set)

theorem setTemplate_handled (rq : ReqHead) (n : Nat) (p : TemplatePlan) (s : State) :
    Handled (.setTemplate rq n p) s (s.setTemplate rq n p).2 := by
  have defined : Handled (.setTemplate rq n p) s
      { s with templates := amend Template.number n (fun t => { t with plan := some p }) s.templates } :=
    handled_setting rfl fun hi => { hi with templateKeys := keys_of_amend hi.templateKeys }
  exact checked_handled (defined.work (bindPass_work _))

theorem setBenchProfile_handled (rq : ReqHead) (b : Nat) (ch hv : Option Bool) (lg it vu : Option Nat) (s : State) :
    Handled (.setBenchProfile rq b ch hv lg it vu) s (s.setBenchProfile rq b ch hv lg it vu).2 := by
  have benches (hi : s.Inv) : (s.updBench b (State.capabilitySet ch hv lg)).Inv := { hi with
    benchKeys := keys_of_amend hi.benchKeys
    places := fun x hx h hh => by
      rcases mem_amend hx with hx | ⟨y, hy, -, rfl⟩
      · exact hi.places x hx h hh
      · exact hi.places y hy h hh }
  have chutes (hi : s.Inv) : ((s.updBench b (State.capabilitySet ch hv lg)).updChute b (State.reserveSet it vu)).Inv :=
    { benches hi with chuteKeys := keys_of_amend hi.chuteKeys }
  unfold State.setBenchProfile
  refine checked_handled ?_
  split
  · exact .refl _ s
  · refine Handled.work (t := ite _ _ _) ?_ (bindPass_work _)
    split
    · exact (handled_setting rfl chutes).work (arbitrate_work _)
    · exact handled_setting rfl benches

theorem setCommonPool_handled (rq : ReqHead) (n v : Nat) (s : State) :
    Handled (.setCommonPool rq n v) s (s.setCommonPool rq n v).2 := by
  unfold State.setCommonPool
  refine checked_handled ?_
  split
  · exact .refl _ s
  · split
    · exact .refl _ s
    · exact handled_setting rfl fun hi => { hi with }

theorem setCommonCap_handled (rq : ReqHead) (b : Option Nat) (n v : Nat) (s : State) :
    Handled (.setCommonCap rq b n v) s (s.setCommonCap rq b n v).2 := by
  unfold State.setCommonCap
  refine checked_handled ?_
  cases b with
  | none =>
    exact handled_setting rfl fun hi => { hi with
      chuteKeys := (List.map_map (l := s.chutes) (g := Chute.bench)).trans hi.chuteKeys }
  | some b =>
    have capped (f : Chute → Chute) (hf : ∀ x, (f x).bench = x.bench) :
        Handled (.setCommonCap rq (some b) n v) s (s.updChute b f) :=
      handled_setting rfl fun hi => { hi with chuteKeys := keys_of_amend hi.chuteKeys hf }
    exact capped _ fun _ => rfl

theorem setLaneProfile_handled (rq : ReqHead) (n : Nat) (bs : List Nat) (s : State) :
    Handled (.setLaneProfile rq n bs) s (s.setLaneProfile rq n bs).2 := by
  have vectored (v : BenchSet) : Handled (.setLaneProfile rq n bs) s (s.updLane n (fun l => { l with vector := v })) :=
    handled_setting rfl fun hi => { hi with
      laneKeys := keys_of_amend hi.laneKeys
      queues := fun l hl => by
        rcases mem_amend hl with hl | ⟨k, hk, -, rfl⟩
        · exact hi.queues l hl
        · exact hi.queues k hk }
  exact checked_handled (vectored _)

theorem setLoop_handled (rq : ReqHead) (cap lap : Option Nat) (s : State) :
    Handled (.setLoop rq cap lap) s (s.setLoop rq cap lap).2 := by
  unfold State.setLoop
  refine checked_handled ?_
  split
  · exact .refl _ s
  · have looped (l : LoopSettings) : Handled (.setLoop rq cap lap) s { s with loop := l } :=
      handled_setting rfl fun hi => { hi with }
    exact (looped _).work (tryAdmit_work _)

theorem setAdmissionSchedule_handled (rq : ReqHead) (es : List Nat) (s : State) :
    Handled (.setAdmissionSchedule rq es) s (s.setAdmissionSchedule rq es).2 := by
  unfold State.setAdmissionSchedule
  by_cases hl : (rq.lengthOk && es.length == 32) = true
  · have scheduled : Handled (.setAdmissionSchedule rq es) s
        { s with admission := { s.admission with schedule := es, pointer := 0 } } :=
      handled_setting rfl fun hi => { hi with
        schedule := (by simpa using hl : rq.lengthOk = true ∧ es.length = 32).2
        pointer := (by decide : 0 < 32) }
    exact checked_handled (scheduled.work (tryAdmit_work _))
  · rw [checked_len (by simpa using hl)]
    exact .refl _ s

theorem setTimers_handled (rq : ReqHead) (d sh p r : Option Nat) (s : State) :
    Handled (.setTimers rq d sh p r) s (s.setTimers rq d sh p r).2 :=
  checked_handled <| handled_setting rfl fun hi => { hi with }

theorem setSubstitutionGroup_handled (rq : ReqHead) (g n : Nat) (skus : List Nat) (s : State) :
    Handled (.setSubstitutionGroup rq g n skus) s (s.setSubstitutionGroup rq g n skus).2 := by
  unfold State.setSubstitutionGroup
  refine checked_handled ?_
  split
  · exact .refl _ s
  · exact handled_setting rfl fun hi => { hi with groupKeys := keys_of_amend hi.groupKeys }

theorem setRushFloor_handled (rq : ReqHead) (n : Nat) (s : State) :
    Handled (.setRushFloor rq n) s (s.setRushFloor rq n).2 := by
  unfold State.setRushFloor
  refine checked_handled ?_
  have floored : Handled (.setRushFloor rq n) s { s with rushFloor := n } := handled_setting rfl fun hi => { hi with }
  dsimp only
  split
  · exact floored.work (bindPass_work _)
  · exact floored

theorem setDispatchLane_handled (rq : ReqHead) (n : Nat) (cap m : Option Nat) (s : State) :
    Handled (.setDispatchLane rq n cap m) s (s.setDispatchLane rq n cap m).2 := by
  have set : Handled (.setDispatchLane rq n cap m) s (s.updDispatch n (fun d =>
      { d with capacity := cap.getD d.capacity, matchCount := m.getD d.matchCount })) :=
    handled_setting rfl fun hi => { hi with dispatchKeys := keys_of_amend hi.dispatchKeys }
  exact checked_handled (set.work ((judgeFull_work _ _ _).trans (serveLane_work _ _)))

theorem setLateLane_handled (rq : ReqHead) (n : Nat) (s : State) :
    Handled (.setLateLane rq n) s (s.setLateLane rq n).2 :=
  checked_handled <| handled_setting rfl fun hi => { hi with }

/-! ### The requests on faults and notices (R172 to R174, R193) -/

theorem mapped_foldl (fs : List MapField) (m : FaultMonitor) :
    (fs.foldl FaultMonitor.mapped m).map.map MapEntry.kind = m.map.map MapEntry.kind ∧
      (fs.foldl FaultMonitor.mapped m).severities = m.severities ∧
      (fs.foldl FaultMonitor.mapped m).counters = m.counters ∧ (fs.foldl FaultMonitor.mapped m).seen = m.seen := by
  induction fs generalizing m with
  | nil => exact ⟨rfl, rfl, rfl, rfl⟩
  | cons f fs ih =>
    obtain ⟨hk, hs, hc, hn⟩ := ih (m.mapped f)
    refine ⟨hk.trans ?_, hs, hc, hn⟩
    simp only [FaultMonitor.mapped, List.map_map]
    refine List.map_congr_left fun e _ => ?_
    simp only [Function.comp]
    split <;> rfl

theorem setFaultMap_handled (rq : ReqHead) (n : Nat) (es : List MapField) (a0 a1 a2 : Option FaultAction) (s : State) :
    Handled (.setFaultMap rq n es a0 a1 a2) s (s.setFaultMap rq n es a0 a1 a2).2 := by
  unfold State.setFaultMap
  refine checked_handled ?_
  obtain ⟨hk, hs, hc, hn⟩ := mapped_foldl es s.faults
  split
  · exact .refl _ s
  · exact handled_setting (u := { s with faults := (es.foldl FaultMonitor.mapped s.faults).withActions a0 a1 a2 }) rfl
      (fun hi => { hi with
        mapKeys := hk.trans hi.mapKeys
        severityKeys := (List.map_map).trans (hs ▸ hi.severityKeys)
        counterKeys := hc ▸ hi.counterKeys
        counters := hc ▸ hi.counters }) (seen := hn)

theorem updCounter_inv {n : Nat} {f : Counter → Counter} (hf : ∀ k, (f k).number = k.number)
    (hv : ∀ k, k.value ≤ 127 → (f k).value ≤ 127) (hi : s.Inv) : (s.updCounter n f).Inv :=
  { hi with
    counterKeys := (amend_keys hf _).trans hi.counterKeys
    counters := fun k hk => by
      rcases mem_amend hk with hk | ⟨j, hj, -, rfl⟩
      · exact hi.counters k hk
      · exact hv j (hi.counters j hj) }

theorem setCounterSelect_handled (rq : ReqHead) (n : Nat) (codes : List Nat) (s : State) :
    Handled (.setCounterSelect rq n codes) s (s.setCounterSelect rq n codes).2 := by
  unfold State.setCounterSelect
  refine checked_handled ?_
  split
  · exact .refl _ s
  · exact handled_setting rfl (updCounter_inv (fun _ => rfl) fun _ => id)

theorem clearFaultRecords_handled (rq : ReqHead) (sev : Option Nat) (s : State) :
    Handled (.clearFaultRecords rq sev) s (s.clearFaultRecords rq sev).2 := by
  refine checked_handled ?_
  have emptied {β : Type} (g : Severity → β) (hg : ∀ v, g v.emptied = g v) : (s.faults.severities.map fun v =>
      if namedOrAll sev v.number then v.emptied else v).map g = s.faults.severities.map g := by
    rw [List.map_map]
    refine List.map_congr_left fun v _ => ?_
    simp only [Function.comp]
    split
    · exact hg v
    · rfl
  exact { Handled.refl (.clearFaultRecords rq sev) s with
    inv := fun hi => { hi with severityKeys := (emptied _ fun _ => rfl).trans hi.severityKeys }
    settings := fun _ => by
      simp only [State.settings]
      rw [emptied _ fun _ => rfl]
    seen := fun h => (h rq sev rfl).elim }

theorem clearCounter_handled (rq : ReqHead) (n : Nat) (s : State) : Handled c s (s.clearCounter rq n).2 := by
  refine checked_handled ?_
  have hset : (s.updCounter n (fun k => { k with value := 0, overflow := false })).settings = s.settings := by
    simp only [State.settings, State.updCounter]
    rw [amend_proj (f := fun k : Counter => { k with value := 0, overflow := false }) fun _ => rfl]
  exact (faults_work (s := s) ⟨hset, rfl, updCounter_inv (fun _ => rfl) fun _ _ => Nat.zero_le _⟩ fun _ => id).handled

theorem setNoticeEnable_handled (rq : ReqHead) (v : BitVec 16) (s : State) :
    Handled (.setNoticeEnable rq v) s (s.setNoticeEnable rq v).2 :=
  checked_handled <| handled_setting rfl fun hi => { hi with }

theorem setPolarity_handled (rq : ReqHead) (p : Polarity) (s : State) :
    Handled (.setAttentionPolarity rq p) s (s.setPolarity rq p).2 :=
  checked_handled <| handled_setting rfl fun hi => { hi with }

theorem acknowledge_handled (rq : ReqHead) (v : BitVec 16) (s : State) :
    Handled (.acknowledgeNotices rq v) s (s.acknowledge rq v).2 :=
  checked_handled { Handled.refl (.acknowledgeNotices rq v) s with
    inv := fun hi => { hi with
      mark := fun hm => by
        have hm' : s.notices.mark = true ∧ flagIn (flagSetOf v) .faultNotice = false := by
          simpa [Notices.acknowledged] using hm
        have hp := hi.mark hm'.1
        simp_all [Notices.acknowledged, flagIn, NoticeFlag.number] }
    notified := fun h => absurd rfl h }

end Sys2Proof.Machine
end

section
/-! SUPPORT. Every command, gone through once: what each does of what `Done` says. -/

namespace Sys2Proof.Machine

open Sys2Proof

variable {c : Instr} {s t u : State}

/-! ### The commands of time and power-up -/

theorem reset_inv : State.reset.Inv where
  waveKeys := by decide
  waveFields := by decide
  laneKeys := by decide
  queues := by decide
  chuteKeys := by decide
  benchKeys := by decide
  places x hx h hh := by
    obtain ⟨n, -, rfl⟩ := List.mem_map.1 hx
    cases hh
  templateKeys := by decide
  groupKeys := by decide
  dispatchKeys := by decide
  mapKeys := by decide
  severityKeys := by decide
  counterKeys := by decide
  counters := by decide
  slots := .nil
  slotRange := nofun
  loadSeq := by decide
  tags := .nil
  tableRoom := by decide
  entries := by decide
  schedule := by decide
  pointer := by decide
  releases := by decide
  heldBack := .nil
  benchPointer := by decide
  minute := by decide
  restart := by decide
  mark := nofun
  requests := by decide
  busyReplies := by decide

/-- The commands waiting and the free values read are no part of the invariant. -/
theorem inv_of_model_fields (hi : s.Inv) (n : Nat) (q : List Instr) :
    ({ s with freeCount := n, pending := q } : State).Inv := { hi with }

/-- R176: power-up empties the book and the item table. -/
theorem powerUp_done (s : State) : Done .powerUp s { State.reset with freeCount := s.freeCount, pending := s.pending } where
  pending := rfl
  inv _ := inv_of_model_fields reset_inv _ _
  settings h := absurd h (by decide)
  notified h := absurd rfl h
  seen h := absurd rfl h
  clock h := absurd rfl h
  loadSeq _ := .inr rfl
  items _ _ j hj := absurd hj List.not_mem_nil
  orders _ _ p hp := absurd hp List.not_mem_nil
  cell h := absurd h (by decide)

theorem advanceMinute_handled (s : State) : Handled .minuteTick s s.advanceMinute := by
  have hl := advanceMinute_lasts s
  unfold State.advanceMinute at *
  split
  case isTrue h =>
    rw [if_pos h] at hl
    exact { Handled.refl .minuteTick s with
      inv := hl.inv
      settings := fun _ => hl.settings
      clock := fun h => absurd rfl h }
  case isFalse => exact (raiseFault_work _ _ _ s).handled

/-- R184: a forced restart empties the book. -/
theorem judgeDeadline_handled (hc : steers c = true) (h : Handled c s t) : Handled c s t.judgeDeadline := by
  have forced : t.forceRestart.clock = t.clock ∧ t.forceRestart.book = ⟨[], 0⟩ := by
    have hwork := raiseFault_work .restartForced FaultCtx.empty (min 255 t.outstandingTotal) (t.warmRestart .ofForced)
    refine ⟨hwork.clock.trans (warmRestart_clock _ t), ?_⟩
    exact (congrArg State.book (raiseFault_frame _ _ _ (t.warmRestart .ofForced)) :).trans (warmRestart_book _ t)
  have hl := judgeDeadline_lasts t
  unfold State.judgeDeadline at *
  split
  · split
    case isTrue hr hd hq =>
      rw [hr, hd] at hl
      simp only [hq, if_true] at hl
      exact h.steer hc hl forced.1 (.inr forced.2)
    · exact h
  · exact h

theorem tick_handled (s : State) : Handled .minuteTick s s.tick :=
  judgeDeadline_handled rfl <| Handled.closes (hc := rfl) (k := judgeQuiet_closes _ _) <|
    (cutoffAll_handled (advanceMinute_handled s)).work (eitherOrder_work runTimers_work clearHeldBack_work _)

/-- A handling that is made only where a condition holds. -/
theorem ite_handled {p : Prop} [Decidable p] (h : p → Handled c s t) : Handled c s (if p then t else s) := by
  split
  case isTrue hp => exact h hp
  case isFalse => exact .refl c s

theorem cutWave_taken (w : Nat) (s : State) (h : s.cutNow w = true) : Taken s (s.cutWave w) := by
  have := cutoffCheck_taken s w
  rwa [State.cutoffCheck, if_pos h] at this

/-! ### The commands of the two lines -/

/-- A change of the host link alone. -/
theorem Handled.link (h : Handled c s t) (kl : Lasts t u) (hu : { u with link := t.link } = t) : Handled c s u where
  pending := kl.pending.trans h.pending
  inv := kl.inv ∘ h.inv
  settings hc := kl.settings.trans (h.settings hc)
  notified hn := kl.cellFlag (h.notified ((congrArg (·.cell.state) hu :) ▸ hn))
  seen hc x hx := kl.seen x (h.seen hc x hx)
  clock ht hs := (congrArg State.clock hu :).trans (h.clock ht hs)
  loadSeq hc := (congrArg State.book hu :) ▸ h.loadSeq hc
  items hc := (h.items hc).trans kl.items
  orders hc := (h.orders hc).trans h.inv kl.ordersLast
  cell hc := by
    have hcell : u.cell = t.cell := (congrArg State.cell hu :)
    rw [CellTouched, hcell]
    exact h.cell hc

theorem hostRx_handled (h : Handled c s t) (a : Assembly) :
    Handled c s { t with link := { t.link with rx := a } } :=
  h.link (link_lasts fun hi => ⟨hi.requests, hi.busyReplies⟩) rfl

theorem hostFrameEnds_handled (e : FrameEnd) (h : Handled c s t) : Handled c s (t.hostFrameEnds e) := by
  unfold State.hostFrameEnds
  split
  · exact h.work (raiseFault_work _ _ _ t)
  · exact h.work (raiseFault_work _ _ _ t)
  · exact h.link (requestArrives_lasts _ _ _ t) (requestArrives_link t _ _ _)
  · exact h

theorem hostBytes_handled (bs : List Byte) (h : Handled c s t) : Handled c s (t.hostBytes bs) := by
  induction bs generalizing t with
  | nil => exact h
  | cons b bs ih =>
    refine ih ?_
    dsimp only
    split
    · exact hostRx_handled h _
    · exact hostFrameEnds_handled _ (hostRx_handled h _)

theorem hostGap_handled (c : Instr) (s : State) : Handled c s s.hostGap := by
  unfold State.hostGap
  split
  · exact .refl c s
  · exact (hostRx_handled (.refl c s) none).work (raiseFault_work _ _ _ _)

theorem busGap_handled (c : Instr) (s : State) : Handled c s s.busGap := by
  unfold State.busGap
  split
  · exact .refl c s
  · exact Lasts.handled ((busRx_lasts none s).trans (raiseFault_work _ _ _ _).lasts) (raiseFault_work _ _ _ _).clock
      (.inl (raiseFault_work _ _ _ _).loadSeq) fun _ => (raiseFault_work _ _ _ _).toTouch.cellTouched

theorem beginNotice_handled (h : Handled c s t) : Handled c s t.beginNotice :=
  (h.work (notices_work (s := t) (n := { t.notices with due := false }) rfl rfl (fun hi => hi.mark) fun _ => id)).link
    (beginFrame_lasts _ _) rfl

theorem beginReply_link (s : State) : { s.beginReply with link := s.link } = s := by
  unfold State.beginReply
  repeat' split
  all_goals rfl

theorem beginReply_handled (h : Handled c s t) : Handled c s t.beginReply := h.link (beginReply_lasts t) (beginReply_link t)

theorem beginNext_handled (h : Handled c s t) : Handled c s t.beginNext := by
  unfold State.beginNext
  split
  · exact beginReply_handled h
  · split
    · have counted : Handled c s { t with freeCount := t.freeCount + 1 } := h.work (free_work _ t)
      dsimp only
      split
      · exact beginNotice_handled counted
      · exact beginReply_handled counted
    · exact beginNotice_handled h

theorem busFrame_done (bs : List Byte) (s : State) : Done (.cellBusFrame bs) s (s.busBytes bs) := by
  have h := busBytes_received bs s
  exact {
    pending := h.pending
    inv := h.inv
    settings := fun _ => h.settings
    notified := fun _ => h.notified
    seen := fun _ _ => h.seen
    clock := fun _ _ _ => h.clock
    loadSeq := fun _ => h.loadSeq
    items := fun _ hframes => (busBytes_lasts bs s (hframes bs rfl)).items
    orders := fun _ hi p hp => (h.orders hi p hp).imp fun _ g => ⟨g.1, g.2.lasts⟩
    cell := nofun }

theorem arrival_handled (addr : Byte) (body : List Byte) (s : State) :
    Handled (.arrival addr body) s (s.arrivalRecord addr body) :=
  have h := arrivalRecord_taken addr body s
  h.toTouch.handled (fun _ => h.loadSeq) (fun hn => (hn addr body rfl).elim) fun _ => h.ordersLast

theorem getItem_reads (rq : ReqHead) (tag : Option Nat) (s : State) : (s.getItem rq tag).2 = s := by
  unfold State.getItem
  rcases checked_cases rq.lengthOk (optInRange 1 65534 tag) _ s with h | h <;> rw [h]
  repeat' split
  all_goals rfl

/-! ### Events and requests -/

theorem event_done {f : State → State} (h : Handled c s (f s)) : ∃ t, event f s = .next t ∧ Done c s t :=
  ⟨_, rfl, h.done (judgeQuiet_closes s (f s))⟩

theorem next_done (h : Handled c s t) : ∃ t', (.next t : Outcome) = .next t' ∧ Done c s t' := ⟨t, rfl, h.done (.refl t)⟩

/-- R181, R184: the quiet judgment as a command of its own. -/
theorem ite_done {p : Prop} [Decidable p] (h : Closes s t) :
    ∃ t', (.next (if p then t else s) : Outcome) = .next t' ∧ Done c s t' := by
  refine ⟨_, rfl, (Handled.refl c s).done ?_⟩
  split
  · exact h
  · exact .refl s

theorem record_done {hd : RecHead} {kind : Nat} {owner : Nat → State → State} (h : ∀ n u, Work u (owner n u)) :
    ∃ t, event (State.fieldRecord hd kind owner) s = .next t ∧ Done c s t :=
  event_done (fieldRecord_work hd kind h s).handled

theorem request_done {rq : ReqHead} {kind : Byte} {owner : State → Reply × State} (h : Handled c s (owner s).2) :
    ∃ t, request c rq kind owner s = .next t ∧ Done c s t := by
  obtain ⟨t, ht, ⟨-, hk⟩ | ⟨hl, hlink⟩⟩ := request_closes c rq kind owner s
  · exact ⟨t, ht, h.done hk⟩
  · exact ⟨t, ht, (Handled.refl c s).done ((Closes.refl s).link hl hlink)⟩

/-- A request that reads gives the state back. -/
theorem reading_done {rq : ReqHead} {kind : Byte} {owner : State → Reply × State} (h : (owner s).2 = s) :
    ∃ t, request c rq kind owner s = .next t ∧ Done c s t := request_done (by rw [h]; exact .refl c s)

theorem orderRequest_done {rq : ReqHead} {kind : Byte} {v : Bool} {ref : Nat} {allowed : OrderState → Bool}
    {owner : Order → State → Reply × State} (h : ∀ o, (s.Inv → s.order? o.slot = some o) → Handled c s (owner o s).2) :
    ∃ t, request c rq kind (orderRequest rq v ref allowed owner) s = .next t ∧ Done c s t :=
  request_done (orderRequest_handled h)

/-! ### Every command -/

/-- The whole of each command. -/
theorem exec_done (c : Instr) (s : State) : ∃ t, exec c s = .next t ∧ Done c s t := by
  cases c with
  | powerUp => exact ⟨_, rfl, powerUp_done s⟩
  | minuteTick => exact next_done (ite_handled fun _ => tick_handled s)
  | clockLimit => exact event_done (ite_handled fun _ => (raiseFault_work _ _ _ s).handled)
  | waveCut w => exact next_done (ite_handled fun h => (Handled.refl _ s).taken (cutWave_taken w s h) (cutWave_lasts w s h))
  | dwellExpired tag => exact event_done (ite_handled fun _ => (expireItem_work tag s).handled)
  | shortagePass => exact next_done (ite_handled fun _ => (shortagePass_work s).handled)
  | placeTimeout tag => exact event_done (ite_handled fun _ => (timeOutPlace_work tag s).handled)
  | restartForced => exact next_done (ite_handled fun _ => judgeDeadline_handled rfl (.refl _ s))
  | boundaryRestart => exact ite_done (actQuiet_closes s)
  | drainComplete => exact ite_done (actQuiet_closes s)
  | linkFrame bs => exact event_done (hostBytes_handled bs (.refl _ s))
  | linkByteGap => exact event_done (hostGap_handled _ s)
  | cellBusFrame bs => exact ⟨_, rfl, busFrame_done bs s⟩
  | cellBusByteGap => exact event_done (busGap_handled _ s)
  | unknownKind tag kind =>
    show ∃ t, execUnknownKind tag kind s = .next t ∧ _
    unfold execUnknownKind
    split
    · exact next_done (.refl _ s)
    · exact reading_done rfl
  | busy bs => exact event_done (hostBytes_handled bs (.refl _ s))
  | noticeFrame => exact next_done (ite_handled fun _ => beginNotice_handled (.refl _ s))
  | getIdentity rq => exact request_done reading_handled
  | getCellStatus rq => exact request_done reading_handled
  | commitSetup rq => exact request_done (commitSetup_handled rq _ s)
  | startCell rq => exact request_done (cellCommand_handled rfl fun _ => startAct_handled rfl)
  | pauseCell rq => exact request_done (cellCommand_handled rfl fun _ => pauseAct_handled rfl)
  | stopCell rq => exact request_done (cellCommand_handled rfl fun _ => stopAct_handled rfl)
  | clearHalt rq => exact request_done (cellCommand_handled rfl fun _ => clearHaltAct_handled rfl)
  | restartCellImmediate rq => exact request_done (checked_handled (warmRestart_handled rfl _ s))
  | restartCellAtBoundary rq => exact request_done (checked_handled (restartAtBoundary_handled rfl s))
  | getRestartCauses rq => exact request_done reading_handled
  | clearRestartCauses rq => exact request_done (checked_handled (clearRestartCauses_handled s))
  | setClock rq m => exact request_done (setClock_handled rq m s)
  | setWave rq w lane cutoff => exact request_done (setWave_handled rq w lane cutoff s)
  | departWave rq w => exact request_done (departWave_handled rq w s)
  | getWave rq w => exact request_done reading_handled
  | loadOrder tag body => exact request_done (loadOrder_handled tag body s)
  | setQuantity rq ref n q => exact orderRequest_done fun o _ => setQuantity_handled rfl n q o s
  | addLine rq ref sku k q g => exact orderRequest_done fun o _ => addLine_handled rfl sku _ q g o s
  | removeLine rq ref n => exact orderRequest_done fun o _ => removeLine_handled rfl n o s
  | setPriority rq ref p => exact orderRequest_done fun o _ => setPriority_handled rfl p o s
  | amendSetWave rq ref w => exact orderRequest_done fun o _ => amendWave_handled rfl w o s
  | holdOrder rq ref => exact orderRequest_done fun o ho => holdOrder_handled o s ho
  | resumeOrder rq ref => exact orderRequest_done fun o ho => (resumeOrder_work o s ho).handled
  | cancelOrder rq ref => exact orderRequest_done fun o ho => (cancelOrder_work o s ho).handled
  | retireOrder rq ref => exact orderRequest_done fun o _ => (retireOrder_work o s).handled
  | declareShort rq ref n => exact orderRequest_done fun o _ => (declareShort_work n o s).handled
  | restoreLine rq ref n => exact orderRequest_done fun o _ => (restoreLine_work n o s).handled
  | closeLine rq ref n => exact orderRequest_done fun o _ => (closeLine_work n o s).handled
  | getOrder rq ref => exact orderRequest_done fun _ _ => .refl _ s
  | listOrders rq states od lt => exact request_done reading_handled
  | setTemplate rq n p => exact request_done (setTemplate_handled rq n p s)
  | setBenchProfile rq b ch hv lg it vu => exact request_done (setBenchProfile_handled rq b ch hv lg it vu s)
  | setCommonPool rq n v => exact request_done (setCommonPool_handled rq n v s)
  | setCommonCap rq b n v => exact request_done (setCommonCap_handled rq b n v s)
  | setLaneProfile rq n bs => exact request_done (setLaneProfile_handled rq n bs s)
  | setAdmissionSchedule rq es => exact request_done (setAdmissionSchedule_handled rq es s)
  | setLoop rq cap lap => exact request_done (setLoop_handled rq cap lap s)
  | setTimers rq d sh p r => exact request_done (setTimers_handled rq d sh p r s)
  | setSubstitutionGroup rq g n skus => exact request_done (setSubstitutionGroup_handled rq g n skus s)
  | setRushFloor rq n => exact request_done (setRushFloor_handled rq n s)
  | setDispatchLane rq n cap m => exact request_done (setDispatchLane_handled rq n cap m s)
  | setLateLane rq n => exact request_done (setLateLane_handled rq n s)
  | cageSwapped rq n => exact request_done (checked_handled (swapCage_work n s).handled)
  | getItem rq tag => exact reading_done (getItem_reads rq tag s)
  | getBench rq b => exact request_done reading_handled
  | getStaging rq b => exact request_done reading_handled
  | setFaultMap rq n es a0 a1 a2 => exact request_done (setFaultMap_handled rq n es a0 a1 a2 s)
  | setCounterSelect rq n codes => exact request_done (setCounterSelect_handled rq n codes s)
  | getFaultRecords rq sev => exact request_done reading_handled
  | clearFaultRecords rq sev => exact request_done (clearFaultRecords_handled rq sev s)
  | getCounters rq => exact request_done reading_handled
  | clearCounter rq n => exact request_done (clearCounter_handled rq n s)
  | setNoticeEnable rq v => exact request_done (setNoticeEnable_handled rq v s)
  | setAttentionPolarity rq p => exact request_done (setPolarity_handled rq p s)
  | getNotices rq => exact request_done reading_handled
  | acknowledgeNotices rq v => exact request_done (acknowledge_handled rq v s)
  | arrival addr body => exact event_done (arrival_handled addr body s)
  | mergeReady hd => exact record_done fun _ u => mergeReady_work u
  | divertDone hd tag p => exact record_done fun _ u => divert_work tag p u
  | loopPass hd tag => exact record_done fun _ u => pass_work tag u
  | delivered hd tag p => exact record_done fun _ u => delivered_work tag p u
  | releaseFailed hd tag =>
    exact event_done ((fieldRecord_taken hd _ (fun _ u => releaseFailed_taken tag u) s).handled
      (fieldRecord_lasts hd _ (fun _ u => releaseFailed_lasts tag u) s))
  | benchOpen hd => exact record_done benchOpen_work
  | benchClose hd => exact record_done benchClose_work
  | baseFitted hd => exact record_done baseFitted_work
  | pocketFitted hd => exact record_done pocketFitted_work
  | placed hd tag => exact record_done (placed_work tag)
  | placeRefused hd tag r => exact record_done (placeRefused_work tag r)
  | returned hd tag => exact record_done (returned_work tag)
  | pulled hd tag => exact record_done (pulled_work tag)
  | hamperSealed hd => exact record_done hamperSealed_work
  | hamperOut hd => exact record_done hamperOut_work
  | unpacked hd => exact record_done unpacked_work
  | admitHead => exact event_done (tryAdmit_work s).handled
  | binding => exact event_done (bindPass_work s).handled
  | placeItem b => exact event_done (placeTry_work b s).handled
  | sealHamper b => exact event_done (sealTry_work b s).handled
  | bufferRelease => exact event_done (arbitrate_work s).handled
  | hamperRelease n => exact event_done (serveLane_work n s).handled
  | requestQueued bs => exact event_done (hostBytes_handled bs (.refl _ s))
  | transmitterFree => exact next_done (beginNext_handled ((Handled.refl _ s).link (link_lasts fun hi => ⟨hi.requests, hi.busyReplies⟩) rfl))
  | misaddressedRecord addr kind =>
    show ∃ t, execMisaddressedRecord addr kind s = .next t ∧ _
    refine event_done ?_
    split
    · exact (raiseFault_work _ _ _ s).handled
    · exact .refl _ s

end Sys2Proof.Machine
end

section
/-! SUPPORT. The moves of the cell by the commands that steer it (R176 to R184): power-up, the tick, a forced restart,
cell bus frames, and the requests of chapter 10. -/

namespace Sys2Proof.Machine

open Sys2Proof

variable {c : Instr} {s t u v : State}

/-! ### The restart wait deadline (R184) -/

/-- R184: t has restarted from u by force, and its report may have halted it. -/
structure ForcedFrom (u t : State) : Prop where
  book : t.book = ⟨[], 0⟩
  mode : t.cell.mode = none
  cause : t.cell.causes.forced = true
  state : t.cell.state = (if u.cell.committed then .ready else .setup) ∨
    (t.cell.state = .halted ∧ (if u.cell.committed then CellState.ready else .setup) = .ready)

theorem forceRestart_forcedFrom (u : State) : ForcedFrom u u.forceRestart := by
  have hwork := raiseFault_work .restartForced FaultCtx.empty (min 255 u.outstandingTotal) (u.warmRestart .ofForced)
  have hcell : u.forceRestart.cell = { (u.warmRestart .ofForced).cell with state := u.forceRestart.cell.state } := hwork.cell
  have hstate := warmRestart_state .ofForced u
  refine ⟨?_, ?_, ?_, ?_⟩
  · exact (congrArg State.book (raiseFault_frame _ _ _ (u.warmRestart .ofForced)) :).trans (warmRestart_book _ u)
  · rw [hcell, warmRestart_cell]; rfl
  · rw [hcell, warmRestart_cell]; exact Bool.or_true _
  · rcases hwork.toTouch.cellCases with h | ⟨h, hfrom⟩
    · exact .inl (h.trans hstate)
    · refine .inr ⟨h, ?_⟩
      rw [hstate] at hfrom
      cases hcom : u.cell.committed <;> simp [hcom] at hfrom ⊢

theorem judgeDeadline_cases (u : State) :
    u.judgeDeadline = u ∨ (u.cell.state = .restarting ∧ ForcedFrom u u.judgeDeadline) := by
  unfold State.judgeDeadline
  split
  case h_1 hr hd =>
    split
    · exact .inr ⟨hr, forceRestart_forcedFrom u⟩
    · exact .inl rfl
  · exact .inl rfl

/-- R184: the deadline judged after the quiet condition, or by itself. -/
theorem commonMove_judgeDeadline (hc : c = .minuteTick ∨ c = .restartForced) (h : CellTouched s u) (k : Closes u v) :
    CommonMove c s v.judgeDeadline := by
  have hne : ∀ rq, c ≠ .restartCellAtBoundary rq := by rintro rq rfl; simp at hc
  rcases judgeDeadline_cases v with he | ⟨hr, f⟩
  · rw [he]; exact k.commonMove h hne
  · have hcell : v.cell = u.cell := by
      rcases k.cell with h | ⟨-, h, -⟩ | ⟨-, r⟩
      · exact h
      · rw [h] at hr; cases hr
      · have hstate := r.state
        rw [hr] at hstate
        split at hstate <;> cases hstate
    obtain ⟨hcommitted, hstate⟩ := h
    rw [hcell] at hr
    have hs : s.cell.state = .restarting := by
      rcases hstate with h | ⟨h, -⟩
      · exact h ▸ hr
      · rw [h] at hr; cases hr
    have hstate := f.state
    rw [hcell, hcommitted] at hstate
    exact .inr (.inr (.inr ⟨hs, hne, f.book, f.mode, .inr f.cause, hstate.imp_right fun ⟨h1, h2⟩ => ⟨h1, h2, .inr hc⟩⟩))

theorem advanceMinute_cellTouched (s : State) : CellTouched s s.advanceMinute := by
  unfold State.advanceMinute
  split
  · exact ⟨rfl, .inl rfl⟩
  · exact (raiseFault_work _ _ _ s).toTouch.cellTouched

theorem tick_commonMove (s : State) : CommonMove .minuteTick s s.tick :=
  commonMove_judgeDeadline (.inl rfl) (((advanceMinute_cellTouched s).trans (cutoffAll_touch _).cellTouched).trans
    (eitherOrder_work runTimers_work clearHeldBack_work _).toTouch.cellTouched) (judgeQuiet_closes s _)

/-! ### A run of cell bus bytes -/

/-- What a run of cell bus frames may do to the cell: a halt, the quiet condition, and a halt after a restart. -/
structure BusMoved (s t : State) : Prop where
  committed : t.cell.committed = s.cell.committed
  mode : s.cell.mode = none → t.cell.mode = none
  cause : s.cell.causes.boundary = true → t.cell.causes.boundary = true
  book : s.book = ⟨[], 0⟩ → t.book = ⟨[], 0⟩
  state : t.cell.state = s.cell.state ∨ (t.cell.state = .halted ∧
      (s.cell.state = .ready ∨ s.cell.state = .running ∨ s.cell.state = .paused ∨ s.cell.state = .draining)) ∨
    (s.cell.state = .draining ∧ t.cell.state = .ready) ∨
    (s.cell.state = .restarting ∧ t.book = ⟨[], 0⟩ ∧ t.cell.mode = none ∧ t.cell.causes.boundary = true ∧
      (t.cell.state = (if s.cell.committed then .ready else .setup) ∨
        (t.cell.state = .halted ∧ s.cell.committed = true)))

theorem Taken.busMoved (h : Taken s t) : BusMoved s t where
  committed := h.toTouch.cellTouched.1
  mode hm := by rw [h.cell]; exact hm
  cause hb := by rw [h.cell]; exact hb
  book := h.received.empty
  state := h.cellCases.imp_right .inl

theorem Closes.busMoved (h : Closes s t) : BusMoved s t := by
  have book (hb : s.book = ⟨[], 0⟩) : t.book = ⟨[], 0⟩ := h.book.elim (fun h => h.trans hb) id
  rcases h.cell with hc | ⟨hd, hc, -⟩ | ⟨hr, r⟩
  · exact ⟨by rw [hc], by rw [hc]; exact id, by rw [hc]; exact id, book, .inl (by rw [hc])⟩
  · exact ⟨by rw [hc], by rw [hc]; exact id, by rw [hc]; exact id, book, .inr (.inr (.inl ⟨hd, by rw [hc]⟩))⟩
  · exact ⟨r.committed, fun _ => r.mode, fun _ => r.cause, book,
      .inr (.inr (.inr ⟨hr, r.book, r.mode, r.cause, .inl r.state⟩))⟩

theorem BusMoved.trans (h : BusMoved s t) (k : BusMoved t u) : BusMoved s u where
  committed := k.committed.trans h.committed
  mode := k.mode ∘ h.mode
  cause := k.cause ∘ h.cause
  book := k.book ∘ h.book
  state := by
    have hcommitted := h.committed
    rcases h.state with hs | ⟨ht, hfrom⟩ | ⟨hd, ht⟩ | ⟨hr, hbook, hmode, hcause, ht⟩
    · have := k.state
      rwa [hs, hcommitted] at this
    · have := k.state
      simp only [ht, reduceCtorEq, false_and, or_false, and_false] at this
      exact .inr (.inl ⟨this, hfrom⟩)
    · have := k.state
      simp only [ht, reduceCtorEq, false_and, or_false, and_true] at this
      rcases this with h | h
      · exact .inr (.inr (.inl ⟨hd, h⟩))
      · exact .inr (.inl ⟨h, by simp [hd]⟩)
    · refine .inr (.inr (.inr ⟨hr, k.book hbook, k.mode hmode, k.cause hcause, ?_⟩))
      have hk := k.state
      cases hcom : s.cell.committed <;> rw [hcom] at hcommitted ht <;> simp at ht ⊢
      · simpa [ht] using hk
      · rcases ht with ht | ht <;> simp [ht] at hk
        · exact hk
        · exact .inr hk

theorem busBytes_busMoved (bs : List Byte) (s : State) : BusMoved s (s.busBytes bs) := by
  have received (a : Assembly) (s : State) : BusMoved s { s with bus := { s.bus with rx := a } } :=
    ⟨rfl, id, id, id, .inl rfl⟩
  induction bs generalizing s with
  | nil => exact (Closes.refl s).busMoved
  | cons b bs ih =>
    unfold State.busBytes
    refine BusMoved.trans ?_ (ih _)
    dsimp only
    split
    · exact received _ s
    · exact ((received _ s).trans (busFrameEnds_taken _ _).busMoved).trans (judgeQuiet_closes _ _).busMoved

theorem BusMoved.commonMove (h : BusMoved s t) (bs : List Byte) : CommonMove (.cellBusFrame bs) s t := by
  rcases h.state with hs | hs | ⟨hd, ht⟩ | ⟨hr, hbook, hmode, hcause, ht⟩
  · exact .inl hs
  · exact .inr (.inl hs)
  · exact .inr (.inr (.inl ⟨hd, ht, .inl ⟨bs, rfl⟩⟩))
  · exact .inr (.inr (.inr ⟨hr, nofun, hbook, hmode, .inl hcause, ht.imp_right fun ⟨h1, h2⟩ =>
      ⟨h1, if_pos h2, .inl ⟨bs, rfl⟩⟩⟩))

/-! ### The requests of the cell -/

/-- What the closing of a request leaves where its owner has left the cell idle. -/
theorem Closes.idle_fields (k : Closes u t) (hd : u.cell.state ≠ .draining) (hr : u.cell.state ≠ .restarting) :
    t.cell = u.cell ∧ t.book = u.book ∧ t.items = u.items ∧ t.quiet = u.quiet := by
  have h := k.idle hd hr
  exact ⟨(congrArg State.cell h :), (congrArg State.book h :), (congrArg State.items h :), (congrArg State.quiet h :)⟩

/-- R178: the state entered, or a halt by a fault in the work of it. -/
theorem entered_state {x : CellState} (h : Work (s.setCell x) u) : u.cell.state = x ∨ u.cell.state = .halted := h.cellState

/-- The table moves of each command (R179, R180, R183), beside those of any command. -/
def TableMove (c : Instr) (s t : State) : Prop :=
  match c with
  | .powerUp => t.cell.state = .setup
  | .commitSetup _ => s.cell.state = .setup ∧ t.cell.state = .ready
  | .startCell _ => (s.cell.state = .ready ∨ s.cell.state = .paused) ∧ t.cell.state = .running
  | .pauseCell _ => s.cell.state = .running ∧ t.cell.state = .paused
  | .stopCell _ => (s.cell.state = .running ∨ s.cell.state = .paused) ∧
      (t.cell.state = .draining ∨ (t.cell.state = .ready ∧ t.quiet = true))
  | .clearHalt _ => s.cell.state = .halted ∧ t.cell.state = .paused
  | .restartCellImmediate _ =>
    t.cell.state = (if s.cell.committed then .ready else .setup) ∧ t.book = ⟨[], 0⟩ ∧ t.items = []
  | .restartCellAtBoundary _ => s.cell.state ≠ .restarting ∧
      ((s.cell.state ≠ .setup ∧ t.cell.state = .restarting) ∨
        (t.cell.state = (if s.cell.committed then .ready else .setup) ∧ t.book = ⟨[], 0⟩ ∧ t.items = [] ∧
          (s.cell.state = .setup ∨ s.quiet = true)))
  | _ => False

/-- A request: what its owner's state closes to, or nothing done. -/
theorem request_moves {rq : ReqHead} {kind : Byte} {owner : State → Reply × State}
    (h : (owner s).2 ≠ s → Closes (owner s).2 t → CommonMove c s t ∨ TableMove c s t)
    (ht : request c rq kind owner s = .next t) : CommonMove c s t ∨ TableMove c s t := by
  obtain ⟨t', ht', ⟨hne, hk⟩ | ⟨-, hlink⟩⟩ := request_closes c rq kind owner s <;> cases ht'.symm.trans ht
  · exact h hne hk
  · exact .inl (.inl (congrArg (·.cell.state) hlink :))

/-- The closing of a request that has done nothing moves the cell on the quiet condition alone. -/
theorem Closes.commonMove_refl (k : Closes s t) (hc : ∀ rq, c ≠ .restartCellAtBoundary rq) : CommonMove c s t :=
  k.commonMove ⟨rfl, .inl rfl⟩ hc

theorem commitSetup_moves (rq : ReqHead) (l : Bool) (k : Closes (State.commitSetup l s).2 t) :
    CommonMove (.commitSetup rq) s t ∨ TableMove (.commitSetup rq) s t := by
  unfold State.commitSetup at k
  split at k
  · exact .inl (k.commonMove_refl nofun)
  · split at k
    · exact .inl (k.commonMove_refl nofun)
    case isFalse hs =>
      split at k
      · obtain ⟨hcell, -⟩ := k.idle_fields nofun nofun
        exact .inr ⟨by simpa using hs, by rw [hcell]; rfl⟩
      · exact .inl (k.commonMove_refl nofun)

/-- A cell command does nothing, or does what its column says, the quiet condition being judged. -/
theorem cellCommand_moves {l : Bool} {act : State → Option State} {P : Prop} (hc : ∀ rq, c ≠ .restartCellAtBoundary rq)
    (k : Closes (State.cellCommand l act s).2 t)
    (h : ∀ u, act s = some u → u ≠ s → Closes (State.judgeQuiet s u) t → CommonMove c s t ∨ P) :
    CommonMove c s t ∨ P := by
  unfold State.cellCommand at k
  split at k
  · exact .inl (k.commonMove_refl hc)
  · split at k
    · exact .inl (k.commonMove_refl hc)
    case h_2 u hu =>
      by_cases he : u = s
      · subst he
        dsimp only at k
        rw [judgeQuiet_self] at k
        exact .inl (k.commonMove_refl hc)
      · exact h u hu he k

/-- A state entered that the quiet condition does not concern stays: the one of the table, or HALTED. -/
theorem entered_moves {x : CellState} {P : Prop} (hx : x ≠ .draining ∧ x ≠ .restarting) (h : Work (s.setCell x) u)
    (k : Closes (State.judgeQuiet s u) t)
    (hfrom : s.cell.state = .ready ∨ s.cell.state = .running ∨ s.cell.state = .paused ∨ s.cell.state = .halted)
    (hp : t.cell.state = x → P) : CommonMove c s t ∨ P := by
  have hidle : u.cell.state ≠ .draining ∧ u.cell.state ≠ .restarting := by
    rcases entered_state h with hs | hs <;> rw [hs]
    · exact hx
    · decide
  rw [judgeQuiet_idle hidle.1 hidle.2] at k
  obtain ⟨hcell, -⟩ := k.idle_fields hidle.1 hidle.2
  rcases entered_state h with hs | hs
  · exact .inr (hp (by rw [hcell, hs]))
  · have ht : t.cell.state = .halted := by rw [hcell, hs]
    refine .inl ?_
    rcases hfrom with hf | hf | hf | hf
    · exact .inr (.inl ⟨ht, .inl hf⟩)
    · exact .inr (.inl ⟨ht, .inr (.inl hf)⟩)
    · exact .inr (.inl ⟨ht, .inr (.inr (.inl hf))⟩)
    · exact .inl (ht.trans hf.symm)

theorem startCell_moves {rq : ReqHead} {l : Bool} (k : Closes (State.cellCommand l State.startAct s).2 t) :
    CommonMove (.startCell rq) s t ∨ TableMove (.startCell rq) s t := by
  refine cellCommand_moves nofun k fun u hu hne k => ?_
  rcases startAct_cases hu with ⟨hs, he⟩ | ⟨-, he⟩
  · rw [he] at k
    exact entered_moves (by decide) (enterRunning_work s) k (hs.imp_right fun h => .inr (.inl h)) fun ht => ⟨hs, ht⟩
  · exact absurd he hne

theorem pauseCell_moves {rq : ReqHead} {l : Bool} (k : Closes (State.cellCommand l State.pauseAct s).2 t) :
    CommonMove (.pauseCell rq) s t ∨ TableMove (.pauseCell rq) s t := by
  refine cellCommand_moves nofun k fun u hu hne k => ?_
  rcases pauseAct_cases hu with ⟨hs, he⟩ | ⟨-, he⟩
  · rw [he] at k
    exact entered_moves (by decide) (enterPaused_work s) k (.inr (.inl hs)) fun ht => ⟨hs, ht⟩
  · exact absurd he hne

theorem clearHalt_moves {rq : ReqHead} {l : Bool} (k : Closes (State.cellCommand l State.clearHaltAct s).2 t) :
    CommonMove (.clearHalt rq) s t ∨ TableMove (.clearHalt rq) s t := by
  refine cellCommand_moves nofun k fun u hu hne k => ?_
  rcases clearHaltAct_cases hu with ⟨hs, he⟩ | ⟨-, he⟩
  · rw [he] at k
    exact entered_moves (by decide) ((enterPaused_work s).trans (judgeLanes_work _)) k (.inr (.inr (.inr hs)))
      fun ht => ⟨hs, ht⟩
  · exact absurd he hne

/-- R181: a drain that finds the cell quiet is over at once. -/
theorem stopCell_moves {rq : ReqHead} {l : Bool} (k : Closes (State.cellCommand l State.stopAct s).2 t) :
    CommonMove (.stopCell rq) s t ∨ TableMove (.stopCell rq) s t := by
  refine cellCommand_moves nofun k fun u hu hne k => ?_
  rcases stopAct_cases hu with ⟨hs, he⟩ | ⟨-, he⟩
  · rw [he] at k
    have hstate := entered_state (enterDraining_work s)
    have hquiet := judgeQuiet_closes s s.enterDraining
    rcases hstate with hd | hh
    · refine .inr ⟨hs, ?_⟩
      rcases hquiet.cell with hv | ⟨-, hv, hq⟩ | ⟨hr, -⟩
      · rcases k.cell with ht | ⟨-, ht, hq⟩ | ⟨hr, -⟩
        · exact .inl (by rw [ht, hv, hd])
        · exact .inr ⟨by rw [ht], hq⟩
        · rw [hv, hd] at hr; cases hr
      · obtain ⟨hcell, -, -, hsame⟩ := k.idle_fields (by rw [hv]; nofun) (by rw [hv]; nofun)
        exact .inr ⟨by rw [hcell, hv], hsame.trans hq⟩
      · rw [hd] at hr; cases hr
    · rw [judgeQuiet_idle (by rw [hh]; decide) (by rw [hh]; decide)] at k
      obtain ⟨hcell, -⟩ := k.idle_fields (by rw [hh]; decide) (by rw [hh]; decide)
      exact .inl (.inr (.inl ⟨by rw [hcell, hh], .inr (hs.imp_right .inl)⟩))
  · exact absurd he hne

/-- R185: the warm restart that a request makes at once. -/
theorem warmRestart_moves {cause : Causes} (k : Closes (s.warmRestart cause) t) :
    t.cell.state = (if s.cell.committed then .ready else .setup) ∧ t.book = ⟨[], 0⟩ ∧ t.items = [] := by
  have hstate := warmRestart_state cause s
  have hidle : (s.warmRestart cause).cell.state ≠ .draining ∧ (s.warmRestart cause).cell.state ≠ .restarting := by
    rw [hstate]; split <;> decide
  obtain ⟨hcell, hbook, hitems, -⟩ := k.idle_fields hidle.1 hidle.2
  exact ⟨by rw [hcell, hstate], hbook.trans (warmRestart_book _ s), hitems.trans (warmRestart_items _ s)⟩

theorem restartImmediate_moves {rq : ReqHead} {l v : Bool}
    (k : Closes (checked l v (State.restartNow .ofImmediate) s).2 t) :
    CommonMove (.restartCellImmediate rq) s t ∨ TableMove (.restartCellImmediate rq) s t := by
  rcases checked_cases l v (State.restartNow .ofImmediate) s with h | h <;> rw [h] at k
  · exact .inr (warmRestart_moves k)
  · exact .inl (k.commonMove_refl nofun)

theorem restartAtBoundary_moves {rq : ReqHead} {l v : Bool} (hne : (checked l v State.restartAtBoundary s).2 ≠ s)
    (k : Closes (checked l v State.restartAtBoundary s).2 t) :
    CommonMove (.restartCellAtBoundary rq) s t ∨ TableMove (.restartCellAtBoundary rq) s t := by
  rcases checked_cases l v State.restartAtBoundary s with h | h
  · rw [h] at k hne
    have entered (hset : s.cell.state ≠ .setup) (hres : s.cell.state ≠ .restarting) (k : Closes s.enterRestarting.2 t) :
        TableMove (.restartCellAtBoundary rq) s t := by
      refine ⟨hres, ?_⟩
      rcases k.cell with ht | ⟨hd, -⟩ | ⟨-, r⟩
      · exact .inl ⟨hset, by rw [ht]; rfl⟩
      · cases hd
      · exact .inr ⟨r.state, r.book, r.items, .inr r.quiet⟩
    unfold State.restartAtBoundary at k hne
    cases hs : s.cell.state <;> simp only [hs] at k hne
    case setup =>
      obtain ⟨ht, hbook, hitems⟩ := warmRestart_moves k
      exact .inr ⟨by rw [hs]; decide, .inr ⟨ht, hbook, hitems, .inl hs⟩⟩
    case restarting => exact absurd rfl hne
    all_goals exact .inr (entered (by rw [hs]; decide) (by rw [hs]; decide) k)
  · exact absurd h hne

/-- R176 to R184: every command moves the cell by its table, or as any command may. -/
theorem exec_moves (h : exec c s = .next t) : CommonMove c s t ∨ TableMove c s t := by
  have same {c : Instr} : CommonMove c s s := .inl rfl
  cases c with
  | powerUp => cases h; exact .inr rfl
  | minuteTick =>
    cases h
    split
    · exact .inl (tick_commonMove s)
    · exact .inl same
  | restartForced =>
    cases h
    split
    · exact .inl (commonMove_judgeDeadline (.inr rfl) ⟨rfl, .inl rfl⟩ (.refl s))
    · exact .inl same
  | cellBusFrame bs => cases h; exact .inl ((busBytes_busMoved bs s).commonMove bs)
  | commitSetup rq => exact request_moves (fun _ => commitSetup_moves rq _) h
  | startCell rq => exact request_moves (fun _ => startCell_moves) h
  | pauseCell rq => exact request_moves (fun _ => pauseCell_moves) h
  | stopCell rq => exact request_moves (fun _ => stopCell_moves) h
  | clearHalt rq => exact request_moves (fun _ => clearHalt_moves) h
  | restartCellImmediate rq => exact request_moves (fun _ => restartImmediate_moves) h
  | restartCellAtBoundary rq => exact request_moves restartAtBoundary_moves h
  | _ =>
    obtain ⟨t', ht', hd⟩ := exec_done _ s
    cases ht'.symm.trans h
    exact .inl (hd.cell rfl)

end Sys2Proof.Machine
end

section
/-! SUPPORT. The statements on the queue of commands and on the whole machine, read off what every command does. -/

namespace Sys2Proof.Machine

open Sys2Proof

/-- What the command that answers t has done. -/
theorem exec_done_of {c : Instr} {s t : State} (h : exec c s = .next t) : Done c s t := by
  obtain ⟨t', ht', hd⟩ := exec_done c s
  cases ht'.symm.trans h
  exact hd

/-- Settles O1. -/
theorem stepRunsFrontCommand : Obligations.StepRunsFrontCommand := by
  unfold Obligations.StepRunsFrontCommand step
  exact ⟨fun s c cs h => by rw [h], fun s h => by rw [h]⟩

/-- Settles O2. -/
theorem everyCommandAnswersNext : Obligations.EveryCommandAnswersNext := by
  intro c s
  obtain ⟨t, ht, hd⟩ := exec_done c s
  exact ⟨t, ht, hd.pending⟩

/-- Settles O3: with a command waiting the step is that command's; the queue is no part of the invariant. -/
theorem everyStepKeepsInvariant : Obligations.EveryStepKeepsInvariant := by
  intro s t hi h
  cases hq : s.pending with
  | nil =>
    rw [stepRunsFrontCommand.2 s hq] at h
    cases h
    exact hi
  | cons c cs =>
    rw [stepRunsFrontCommand.1 s c cs hq] at h
    exact (exec_done_of h).inv (inv_of_model_fields hi s.freeCount cs)

/-- Settles O4. -/
theorem powerUpMeetsInvariant : Obligations.PowerUpMeetsInvariant := reset_inv

/-- Settles O5. -/
theorem settingsChangeOnlyByTheirRequests : Obligations.SettingsChangeOnlyByTheirRequests :=
  fun _ _ _ hc h => (exec_done_of h).settings hc

/-- Settles O6. -/
theorem ordersLastAndMoveAlongTheTable : Obligations.OrdersLastAndMoveAlongTheTable := by
  intro c s t hi h hload p hp
  obtain ⟨o, ho, hlast⟩ := (exec_done_of h).orders hload hi p hp
  have ha := hlast.amended
  refine ⟨o, ho, ha.slot, ha.ref, ha.template, ha.loadSeq, ha.state, ha.overdue, ha.late, ha.fragile,
    fun hquantity hadd hremove hpriority hwave => hlast.kept ?_⟩
  unfold amends
  split
  · exact absurd rfl (hquantity _ _ _ _)
  · exact absurd rfl (hadd _ _ _ _ _ _)
  · exact absurd rfl (hremove _ _ _)
  · exact absurd rfl (hpriority _ _ _)
  · exact absurd rfl (hwave _ _ _)
  · rfl

/-- Settles O7. -/
theorem trackedItemsKeepWhatArrivalGave : Obligations.TrackedItemsKeepWhatArrivalGave :=
  fun _ _ _ h harrival hframes => (exec_done_of h).items harrival hframes

/-- Settles O8. -/
theorem cellStateChangeIsNotified : Obligations.CellStateChangeIsNotified :=
  fun _ _ _ hc h => (exec_done_of h).notified hc

/-- Settles O9: the moves of any command, and those of the command's own table. -/
theorem cellMovesOnlyByTheTables : Obligations.CellMovesOnlyByTheTables := by
  intro c s t h
  rcases exec_moves h with (hm | hm | hm | hm) | hm
  · exact .inl hm
  · exact .inr (.inl hm)
  · exact .inr (.inr (.inl hm))
  · exact .inr (.inr (.inr (.inl hm)))
  · exact .inr (.inr (.inr (.inr hm)))

/-- Settles O10. -/
theorem clockLoadCounterAndSeenSetChangeByTheirEvents : Obligations.ClockLoadCounterAndSeenSetChangeByTheirEvents :=
  fun _ _ _ h =>
    have hd := exec_done_of h
    ⟨hd.clock, hd.loadSeq, hd.seen⟩

end Sys2Proof.Machine
end

section
/-! SUPPORT. The amended tables as maps, in the form in which the statements write them. -/

namespace Sys2Proof.Machine

open Sys2Proof

variable (s : State)

theorem updItem_eq (tag : Nat) (f : Item → Item) :
    s.updItem tag f = { s with items := s.items.map (fun j => if j.tag = tag then f j else j) } := by
  rw [State.updItem, amend_eq]

theorem updOrder_eq (slot : Nat) (f : Order → Order) :
    s.updOrder slot f = { s with book :=
      { s.book with orders := s.book.orders.map (fun o => if o.slot = slot then f o else o) } } := by
  rw [State.updOrder, amend_eq]

theorem updBench_eq (b : Nat) (f : Bench → Bench) :
    s.updBench b f = { s with benches := s.benches.map (fun x => if x.number = b then f x else x) } := by
  rw [State.updBench, amend_eq]

theorem updHamper_eq (b : Nat) (f : Hamper → Hamper) :
    s.updHamper b f = { s with benches := s.benches.map (fun x =>
      if x.number = b then { x with hamper := x.hamper.map f } else x) } := updBench_eq s b _

theorem updWave_eq (n : Nat) (f : Wave → Wave) :
    s.updWave n f = { s with waves := s.waves.map (fun w => if w.number = n then f w else w) } := by
  rw [State.updWave, amend_eq]

theorem updChute_eq (b : Nat) (f : Chute → Chute) :
    s.updChute b f = { s with chutes := s.chutes.map (fun c => if c.bench = b then f c else c) } := by
  rw [State.updChute, amend_eq]

theorem updLane_eq (n : Nat) (f : Lane → Lane) :
    s.updLane n f = { s with lanes := s.lanes.map (fun l => if l.number = n then f l else l) } := by
  rw [State.updLane, amend_eq]

theorem updDispatch_eq (n : Nat) (f : DispatchLane → DispatchLane) :
    s.updDispatch n f = { s with dispatch := s.dispatch.map (fun d => if d.number = n then f d else d) } := by
  rw [State.updDispatch, amend_eq]

end Sys2Proof.Machine
end

section
/-! SUPPORT. The warm restart as one state (R185), lane signals judged (R47), and the quiet condition (R181). -/

namespace Sys2Proof.Machine

open Sys2Proof

variable {s t : State}

/-! ### The warm restart -/

theorem sendRestarts_eq (s : State) : s.sendRestarts =
    { s with bus := { s.bus with sent := s.bus.sent ++ allUnits.map (·, .cellRestart) } } := by
  unfold State.sendRestarts
  generalize allUnits = us
  induction us generalizing s with
  | nil => simp
  | cons x xs ih =>
    rw [List.foldl_cons, ih]
    simp [State.send]

/-- R47: the same record to each lane of a list. -/
def toldLanes (r : OutRecord) (ls : List Lane) : List (FieldUnit × OutRecord) := ls.map (fun l => (.lane l.number, r))

/-- R47: with no hold wanted for any lane every signal is GO, and the lanes on HOLD are told. -/
theorem judgeLanes_go (h : ∀ l ∈ s.lanes, s.holdWanted l = false) : s.judgeLanes = { s with
    lanes := s.lanes.map (fun l : Lane => { l with signal := .go })
    bus := { s.bus with sent := s.bus.sent ++ toldLanes .laneGo (s.lanes.filter (fun l => decide (l.signal = .hold))) } } := by
  have hmap : s.lanes.map (fun l => l.judged (s.holdWanted l)) =
      s.lanes.map (fun l : Lane => { l with signal := .go }) :=
    List.map_congr_left fun l hl => by rw [h l hl]; rfl
  have hsent : s.lanes.filterMap (fun l => l.change (s.holdWanted l)) =
      toldLanes .laneGo (s.lanes.filter (fun l => decide (l.signal = .hold))) := by
    rw [toldLanes, ← List.filterMap_eq_map, List.filterMap_filter]
    refine List.filterMap_congr fun l hl => ?_
    rw [h l hl]
    cases hs : l.signal <;> simp [Lane.change, hs]
  rw [State.judgeLanes, hmap, hsent]

/-- R47: with a hold wanted for every lane every signal is HOLD, and the lanes on GO are told. -/
theorem judgeLanes_hold (h : ∀ l ∈ s.lanes, s.holdWanted l = true) : s.judgeLanes = { s with
    lanes := s.lanes.map (fun l : Lane => { l with signal := .hold })
    bus := { s.bus with sent := s.bus.sent ++ toldLanes .laneHold (s.lanes.filter (fun l => decide (l.signal = .go))) } } := by
  have hmap : s.lanes.map (fun l => l.judged (s.holdWanted l)) =
      s.lanes.map (fun l : Lane => { l with signal := .hold }) :=
    List.map_congr_left fun l hl => by rw [h l hl]; rfl
  have hsent : s.lanes.filterMap (fun l => l.change (s.holdWanted l)) =
      toldLanes .laneHold (s.lanes.filter (fun l => decide (l.signal = .go))) := by
    rw [toldLanes, ← List.filterMap_eq_map, List.filterMap_filter]
    refine List.filterMap_congr fun l hl => ?_
    rw [h l hl]
    cases hs : l.signal <;> simp [Lane.change, hs]
  rw [State.judgeLanes, hmap, hsent]

/-- R185, R47: the warm restart. With the queues and the item table empty no hold is wanted. -/
theorem warmRestart_eq (cause : Causes) (s : State) : s.warmRestart cause = { s.cleared cause with
    lanes := s.lanes.map (fun l : Lane => { l with queue := [], signal := .go })
    bus := { s.bus with sent := s.bus.sent ++ allUnits.map (·, .cellRestart) ++ toldLanes .laneGo (s.lanes.filter (fun l => decide (l.signal = .hold))) } } := by
  have hwanted : ∀ l ∈ (s.cleared cause).sendRestarts.lanes, (s.cleared cause).sendRestarts.holdWanted l = false := by
    rw [sendRestarts_eq]
    intro l hl
    obtain ⟨k, -, rfl⟩ := List.mem_map.1 hl
    have hstate : (s.cleared cause).cell.state = if s.cell.committed then .ready else .setup := rfl
    cases hc : s.cell.committed <;>
      simp [State.holdWanted, State.tableFull, State.cleared, Config.maxItems, Config.queueRoom, hc]
  rw [State.warmRestart, judgeLanes_go hwanted, sendRestarts_eq]
  simp only [State.cleared, List.map_map, List.filter_map, toldLanes]
  rfl

/-- Settles O12: each part of what a warm restart leaves, read off the one state. -/
theorem warmRestartClearsAndKeeps : Obligations.WarmRestartClearsAndKeeps := by
  intro s cause u hu
  rw [warmRestart_eq] at hu
  have hsettings : u.settings = s.settings := by
    rw [hu, ← warmRestart_eq]
    exact (warmRestart_lasts cause s).settings
  subst hu
  exact ⟨rfl, rfl, rfl, rfl, rfl, rfl, rfl, rfl, rfl, rfl, rfl, rfl, rfl, rfl, hsettings, rfl, rfl, rfl, rfl, rfl, rfl, rfl⟩

/-- Settles O11. -/
theorem powerUpSetsInitialValues : Obligations.PowerUpSetsInitialValues := by
  intro s
  refine ⟨_, exec_powerUp s, ?_⟩
  have hentries : ∀ k < 30, defaultSchedule[k]? = some (k % 6 + 1) := by decide
  have hasserted : State.reset.notices.asserted = false := by decide
  have hline : State.reset.notices.lineHigh = true := by decide
  exact ⟨rfl, rfl, rfl, rfl, rfl, rfl, rfl, rfl, rfl, rfl, hentries, rfl, rfl, rfl, rfl, rfl, rfl, rfl, rfl, rfl, rfl, rfl,
    rfl, rfl, rfl, rfl, rfl, rfl, rfl, rfl, hasserted, hline, rfl, rfl, rfl, rfl, rfl⟩

end Sys2Proof.Machine
end

section
/-! SUPPORT. The quiet condition judged (R181, R184), and the requests that restart the cell (R183). -/

namespace Sys2Proof.Machine

open Sys2Proof

variable {c : Instr} {s t : State}

/-! ### The quiet condition -/

theorem actQuiet_draining (hq : s.quiet = true) (hd : s.cell.state = .draining) : s.actQuiet = s.setCell .ready := by
  simp only [State.actQuiet, hq, hd, if_true]

theorem actQuiet_restarting (hq : s.quiet = true) (hr : s.cell.state = .restarting) :
    s.actQuiet = s.warmRestart .ofBoundary := by
  simp only [State.actQuiet, hq, hr, if_true]

theorem actQuiet_idle (h : s.quiet = false ∨ (s.cell.state ≠ .draining ∧ s.cell.state ≠ .restarting)) :
    s.actQuiet = s := by
  rcases actQuiet_cases s with he | ⟨hd, he⟩ | ⟨hr, he⟩
  · exact he
  · rcases h with hq | ⟨hnd, -⟩
    · simp only [State.actQuiet, hq, Bool.false_eq_true, if_false]
    · exact absurd hd hnd
  · rcases h with hq | ⟨-, hnr⟩
    · simp only [State.actQuiet, hq, Bool.false_eq_true, if_false]
    · exact absurd hr hnr

/-- R181: a part of the condition or the cell state has changed. -/
def QuietPartsChanged (s t : State) : Prop :=
  s.occupancy ≠ t.occupancy ∨ s.arbiter.releases.length ≠ t.arbiter.releases.length ∨
    s.outstandingCount ≠ t.outstandingCount ∨ s.cell.state ≠ t.cell.state

theorem judgeQuiet_changed (h : QuietPartsChanged s t) : State.judgeQuiet s t = t.actQuiet := by
  refine if_neg fun ⟨hparts, hstate⟩ => ?_
  simp only [State.quietParts, Prod.mk.injEq] at hparts
  obtain ⟨hocc, hrel, hout⟩ := hparts
  rcases h with h | h | h | h
  · exact h hocc
  · exact h hrel
  · exact h hout
  · exact h hstate

theorem judgeQuiet_unchanged (h : ¬QuietPartsChanged s t) : State.judgeQuiet s t = t := by
  simp only [QuietPartsChanged, not_or, not_not] at h
  obtain ⟨hocc, hrel, hout, hstate⟩ := h
  exact judgeQuiet_same (by simp only [State.quietParts, hocc, hrel, hout]) hstate

/-- R181: Fit Base, Fit Pocket, Seal, Release or Unpack outstanding at a bench. -/
theorem instructionOut_iff (x : Bench) : x.instructionOut = true ↔
    x.state = .fitting ∨ x.state = .sealing ∨ x.state = .releasing ∨
      (x.state = .building ∧ ∃ h, x.hamper = some h ∧ h.pocket = .requested) ∨
      (x.state = .unpacking ∧ x.unpacked = false) := by
  unfold Bench.instructionOut
  cases hs : x.state <;> simp
  cases hh : x.hamper <;> simp

theorem quiet_iff (t : State) : t.quiet = true ↔ (∀ i ∈ t.items, i.location ≠ .onLoop) ∧ t.arbiter.releases = [] ∧
    (∀ i ∈ t.items, i.outstanding = .none) ∧ ∀ x ∈ t.benches, x.instructionOut = false := by
  simp only [State.quiet, State.quietParts, State.occupancy, State.outstandingCount, beq_iff_eq, Prod.mk.injEq,
    Nat.add_eq_zero_iff, List.countP_eq_zero, List.length_eq_zero_iff, bne_iff_ne, ne_eq, not_not, Bool.not_eq_true]

theorem outstandingCount_eq (s : State) : s.outstandingCount =
    s.items.countP (fun i => decide (i.outstanding ≠ .none)) + s.benches.countP Bench.instructionOut := by
  have hitems : ∀ i : Item, (i.outstanding != .none) = decide (i.outstanding ≠ .none) := fun i => by
    cases i.outstanding <;> rfl
  simp only [State.outstandingCount, hitems]

/-! ### Requests whose state needs no judgment -/

/-- A request handed over whose owner leaves a cell that the quiet condition does not concern. -/
theorem request_idle {rq : ReqHead} {kind : Byte} {owner : State → Reply × State} {r : Reply}
    (hi : s.inTurn rq.tag kind c = true) (ho : owner s = (r, t)) (hd : t.cell.state ≠ .draining)
    (hr : t.cell.state ≠ .restarting) : request c rq kind owner s = .next (t.answer rq.tag kind r) := by
  rw [request_reply hi ho, judgeQuiet_idle hd hr]

theorem warmRestart_idle (cause : Causes) (s : State) :
    (s.warmRestart cause).cell.state ≠ .draining ∧ (s.warmRestart cause).cell.state ≠ .restarting := by
  rw [warmRestart_state]
  split <;> decide

theorem restartNow_eq (cause : Causes) (s : State) : s.restartNow cause =
    (⟨.ok, .cellState (if s.cell.committed then .ready else .setup)⟩, s.warmRestart cause) := by
  rw [← warmRestart_state cause s]
  rfl

/-- R183, R47: the cell becomes RESTARTING, and hold is wanted for every lane. -/
theorem enterRestarting_eq (s : State) : s.enterRestarting =
    (⟨.ok, .deadline (min 65535 (s.clock.minute + s.timers.restartWait))⟩, { s with
      cell := { s.cell with
        state := .restarting, mode := some .atBoundary
        deadline := some (min 65535 (s.clock.minute + s.timers.restartWait)) }
      notices := s.notices.raised .cellState
      lanes := s.lanes.map (fun l : Lane => { l with signal := .hold })
      bus := { s.bus with sent :=
        s.bus.sent ++ toldLanes .laneHold (s.lanes.filter (fun l => decide (l.signal = .go))) } }) := by
  have hwanted : ∀ l ∈ (s.setCell .restarting).lanes, (s.setCell .restarting).holdWanted l = true := fun l _ => by
    simp [State.holdWanted]
  rw [State.enterRestarting, judgeLanes_hold hwanted]
  rfl

/-- Settles O13: each command by its owner's answer, and the judgment by what has changed and what is quiet. -/
theorem restartsAndDrainCompleteTakeEffect : Obligations.RestartsAndDrainCompleteTakeEffect := by
  refine ⟨?immediate, ?badMode, ?boundary, ?forced, ?drain, ?atBoundary, instructionOut_iff, ?counts, ?act, ?judge⟩
  case immediate =>
    intro s rq ht hv
    obtain ⟨hturn, hl⟩ := (takes_iff rfl).1 ht
    exact request_idle hturn ((checked_ok hl hv).trans (restartNow_eq _ s)) (warmRestart_idle _ s).1 (warmRestart_idle _ s).2
  case badMode =>
    rintro s rq c (rfl | rfl) ht hv <;> obtain ⟨hturn, hl⟩ := (takes_iff rfl).1 ht <;>
      exact request_same hturn (checked_bad hl hv)
  case boundary =>
    intro s hr hq
    show Host.Outcome.next _ = _
    rw [hr, actQuiet_restarting hq hr]
    rfl
  case forced =>
    intro s d hset hr hd hm hq
    show Host.Outcome.next _ = _
    have hreached : s.reached d = true := decide_eq_true hm
    simp only [hset, State.judgeDeadline, hr, hd, hreached, hq, if_true, Bool.not_false, Bool.and_self]
    rfl
  case drain =>
    intro s hd hq
    show Host.Outcome.next _ = _
    rw [hd, actQuiet_draining hq hd]
    rfl
  case atBoundary =>
    intro s rq ht hv
    obtain ⟨hturn, hl⟩ := (takes_iff rfl).1 ht
    refine ⟨fun hset hres => ?_, fun hset => ?_, fun hres => ?_⟩
    · have hown : s.restartAtBoundary = s.enterRestarting := by
        unfold State.restartAtBoundary
        cases hs : s.cell.state <;> first | rfl | exact absurd hs hset | exact absurd hs hres
      exact request_reply hturn ((checked_ok hl hv).trans (hown.trans (enterRestarting_eq s)))
    · have hown : s.restartAtBoundary = s.restartNow .ofBoundary := by simp only [State.restartAtBoundary, hset]
      exact request_idle hturn ((checked_ok hl hv).trans (hown.trans (restartNow_eq _ s))) (warmRestart_idle _ s).1
        (warmRestart_idle _ s).2
    · have hown : s.restartAtBoundary = (⟨.wrongState, .none⟩, s) := by simp only [State.restartAtBoundary, hres]; rfl
      exact request_same hturn ((checked_ok hl hv).trans hown)
  case counts =>
    exact fun s => ⟨rfl, outstandingCount_eq s⟩
  case act => exact fun s => ⟨actQuiet_draining, actQuiet_restarting, actQuiet_idle⟩
  case judge =>
    intro s t
    have hquiet := quiet_iff t
    simp only [← instructionOut_iff, Bool.not_eq_true, ← hquiet]
    refine ⟨trivial, fun h => ?_, fun hc hq hd => ?_, fun hc hq hr => ?_⟩
    · by_cases hc : QuietPartsChanged s t
      · rw [judgeQuiet_changed hc]
        exact actQuiet_idle (h.resolve_left (not_not_intro hc))
      · exact judgeQuiet_unchanged hc
    · rw [judgeQuiet_changed hc, actQuiet_draining hq hd]; rfl
    · rw [judgeQuiet_changed hc, actQuiet_restarting hq hr]

end Sys2Proof.Machine
end

section
/-! SUPPORT. Commit Setup and the cell commands (R179, R180), with the work of the state entered (R178). -/

namespace Sys2Proof.Machine

open Sys2Proof

variable {c : Instr} {s t u : State}

/-! ### Commit Setup -/

theorem commitSetup_eq (s : State) : State.commitSetup true s =
    if s.cell.state = .setup then
      if s.clock.isSet = true ∧ (∃ x ∈ s.templates, x.plan ≠ none) ∧ (∃ w ∈ s.waves, w.state ≠ .unused) then
        (⟨.ok, s.setupView⟩, { s with cell := { s.cell with committed := true } }.setCell .ready)
      else (⟨.incomplete, s.setupView⟩, s)
    else (⟨.wrongState, s.setupView⟩, s) := by
  have htemplates : 1 ≤ s.templateCount ↔ ∃ x ∈ s.templates, x.plan ≠ none := by
    simp [State.templateCount, Option.isSome_iff_ne_none]
  have hwaves : 1 ≤ s.waveCount ↔ ∃ w ∈ s.waves, w.state ≠ .unused := by
    simp [State.waveCount]
  by_cases hs : s.cell.state = .setup <;> simp [State.commitSetup, hs, ← htemplates, ← hwaves, and_assoc]

/-! ### Cell commands -/

/-- A cell command that takes the cell to t, where the quiet condition is judged before the reply is made. -/
theorem cellCommand_takes {act : State → Option State} {l : Bool} (hl : l = true) (h : act s = some t) :
    State.cellCommand l act s =
      (⟨.ok, .cellState (State.judgeQuiet s t).cell.state⟩, State.judgeQuiet s t) := by
  simp [State.cellCommand, hl, h]

theorem cellCommand_refused {act : State → Option State} {l : Bool} (hl : l = true) (h : act s = none) :
    State.cellCommand l act s = (⟨.wrongState, .cellState s.cell.state⟩, s) := by
  simp [State.cellCommand, hl, h]

/-- A judgment made twice is made once. -/
theorem judgeQuiet_actQuiet (hr : u.cell.state ≠ .restarting) : State.judgeQuiet s u.actQuiet = u.actQuiet := by
  rcases actQuiet_cases u with he | ⟨-, he⟩ | ⟨h, -⟩
  · rw [he]
    unfold State.judgeQuiet
    split
    · rfl
    · exact he
  · rw [he]
    exact judgeQuiet_idle nofun nofun
  · exact absurd h hr

/-- A cell command taken to a state that the quiet condition does not concern. -/
theorem cellCommand_next {rq : ReqHead} {kind : Byte} {act : State → Option State}
    (hi : s.inTurn rq.tag kind c = true) (hl : rq.lengthOk = true) (h : act s = some t)
    (hd : t.cell.state ≠ .draining) (hr : t.cell.state ≠ .restarting) :
    request c rq kind (State.cellCommand rq.lengthOk act) s =
      .next (t.answer rq.tag kind ⟨.ok, .cellState t.cell.state⟩) := by
  have hown := cellCommand_takes hl h
  rw [judgeQuiet_idle hd hr] at hown
  exact request_idle hi hown hd hr

/-- A cell command that finds the cell where it takes it. -/
theorem cellCommand_stays {rq : ReqHead} {kind : Byte} {act : State → Option State}
    (hi : s.inTurn rq.tag kind c = true) (hl : rq.lengthOk = true) (h : act s = some s) :
    request c rq kind (State.cellCommand rq.lengthOk act) s =
      .next (s.answer rq.tag kind ⟨.ok, .cellState s.cell.state⟩) := by
  have hown := cellCommand_takes hl h
  rw [judgeQuiet_self] at hown
  exact request_same hi hown

theorem cellCommand_wrongState {rq : ReqHead} {kind : Byte} {act : State → Option State}
    (hi : s.inTurn rq.tag kind c = true) (hl : rq.lengthOk = true) (h : act s = none) :
    request c rq kind (State.cellCommand rq.lengthOk act) s =
      .next (s.answer rq.tag kind ⟨.wrongState, .cellState s.cell.state⟩) :=
  request_same hi (cellCommand_refused hl h)

/-- R182: while no severity has the action HALT the state entered is the one of the table. -/
theorem entered_noHalt {x : CellState} (h : Work (s.setCell x) u) (hs : ∀ v ∈ s.faults.severities, v.action ≠ .halt) :
    u.cell.state = x := h.noHalt hs

theorem entered_idle {x : CellState} (h : Work (s.setCell x) u) (hd : x ≠ .draining) (hr : x ≠ .restarting) :
    u.cell.state ≠ .draining ∧ u.cell.state ≠ .restarting := by
  rcases entered_state h with he | he <;> rw [he]
  · exact ⟨hd, hr⟩
  · decide

/-- R178: admission and the arbitration in one of the two orders, up to the counter of free values. -/
theorem enterRunning_orders (s : State) : ∃ v : State, s.enterRunning = v.bindPass.resumeBenches ∧
    ({ v with freeCount := 0 } = { ((s.setCell .running).tryAdmit.arbitrate : State) with freeCount := 0 } ∨
      { v with freeCount := 0 } = { ((s.setCell .running).arbitrate.tryAdmit : State) with freeCount := 0 }) := by
  refine ⟨_, rfl, ?_⟩
  obtain ⟨n, h | h⟩ := eitherOrder_cases State.tryAdmit State.arbitrate (s.setCell .running) <;> rw [h]
  · exact .inl rfl
  · exact .inr rfl

theorem judgeLanes_cell (s : State) : s.judgeLanes.cell = s.cell := rfl

/-- R178: Place issue and Seal issue bench by bench, then the lanes. -/
theorem resumeBenches_eq (s : State) : s.resumeBenches = [1, 2, 3, 4].foldl (fun u n => u.serveLane n)
    ([1, 2, 3, 4, 5, 6, 7, 8, 9, 10, 11, 12].foldl (fun u b => u.sealTry b)
      ([1, 2, 3, 4, 5, 6, 7, 8, 9, 10, 11, 12].foldl (fun u b => u.placeTry b) s)) := by
  have hbenches : upTo 12 = [1, 2, 3, 4, 5, 6, 7, 8, 9, 10, 11, 12] := by decide
  have hlanes : upTo 4 = [1, 2, 3, 4] := by decide
  unfold State.resumeBenches State.serveAll State.sealAll State.placeAll
  rw [hbenches, hlanes]

/-- Settles O14: the table of R180 row by row, then the work of the state entered. -/
theorem cellCommandsFollowTheTable : Obligations.CellCommandsFollowTheTable := by
  refine ⟨?commit, fun s rq => ⟨?start, ?pause, ?stop, ?clear, ?startStays, ?pauseStays, ?stopStays, ?clearStays,
    ?startRefused, ?pauseRefused, ?stopRefused⟩, ?work⟩
  case commit =>
    intro s rq ht
    obtain ⟨hturn, hl⟩ := (takes_iff rfl).1 ht
    have hown := commitSetup_eq s
    refine ⟨fun hs hclock htemplate hwave => ?_, fun hs hmissing => ?_, fun hs => ?_⟩
    · rw [if_pos hs, if_pos ⟨hclock, htemplate, hwave⟩] at hown
      exact request_idle hturn (hl ▸ hown) nofun nofun
    · have hincomplete : ¬(s.clock.isSet = true ∧ (∃ x ∈ s.templates, x.plan ≠ none) ∧
          ∃ w ∈ s.waves, w.state ≠ .unused) := fun ⟨hclock, ⟨x, hx, hplan⟩, w, hw, hused⟩ => by
        rcases hmissing with h | h | h
        · simp [h] at hclock
        · exact hplan (h x hx)
        · exact hused (h w hw)
      rw [if_pos hs, if_neg hincomplete] at hown
      exact request_same hturn (hl ▸ hown)
    · rw [if_neg hs] at hown
      exact request_same hturn (hl ▸ hown)
  case start =>
    intro ht hclock hs
    obtain ⟨hturn, hl⟩ := (takes_iff rfl).1 ht
    have hwork := enterRunning_work s
    have hidle := entered_idle hwork (by decide) (by decide)
    have hact : s.startAct = some s.enterRunning := by
      rcases hs with hs | hs <;> simp only [State.startAct, hclock, hs, Bool.not_true, Bool.false_eq_true, if_false]
    exact ⟨entered_state hwork, entered_noHalt hwork, cellCommand_next hturn hl hact hidle.1 hidle.2⟩
  case pause =>
    intro ht hs
    obtain ⟨hturn, hl⟩ := (takes_iff rfl).1 ht
    have hwork := enterPaused_work s
    have hidle := entered_idle hwork (by decide) (by decide)
    have hact : s.pauseAct = some s.enterPaused := by simp only [State.pauseAct, hs]
    exact ⟨entered_state hwork, entered_noHalt hwork, cellCommand_next hturn hl hact hidle.1 hidle.2⟩
  case stop =>
    intro ht hs
    obtain ⟨hturn, hl⟩ := (takes_iff rfl).1 ht
    have hwork := enterDraining_work s
    have hact : s.stopAct = some s.enterDraining := by rcases hs with hs | hs <;> simp only [State.stopAct, hs]
    have hchanged : State.judgeQuiet s s.enterDraining = s.enterDraining.actQuiet := by
      refine judgeQuiet_changed (.inr (.inr (.inr fun h => ?_)))
      rcases entered_state hwork with he | he <;> rw [he] at h <;> simp [h] at hs
    have hres : s.enterDraining.cell.state ≠ .restarting := by
      rcases entered_state hwork with he | he <;> rw [he] <;> decide
    have hown := cellCommand_takes hl hact
    rw [hchanged] at hown
    refine ⟨entered_state hwork, entered_noHalt hwork, (request_reply hturn hown).trans ?_⟩
    rw [judgeQuiet_actQuiet hres]
  case clear =>
    intro ht hs
    obtain ⟨hturn, hl⟩ := (takes_iff rfl).1 ht
    have hwork := enterPaused_work s
    have hidle := entered_idle hwork (by decide) (by decide)
    have hact : s.clearHaltAct = some s.enterPaused.judgeLanes := by simp only [State.clearHaltAct, hs]
    rw [← judgeLanes_cell s.enterPaused] at hidle
    have hnext := cellCommand_next hturn hl hact hidle.1 hidle.2
    rw [judgeLanes_cell] at hnext
    exact ⟨entered_state hwork, entered_noHalt hwork, hnext⟩
  case startStays =>
    intro ht hclock hs
    obtain ⟨hturn, hl⟩ := (takes_iff rfl).1 ht
    have hact : s.startAct = some s := by
      simp only [State.startAct, hclock, hs, Bool.not_true, Bool.false_eq_true, if_false]
    have h := cellCommand_stays hturn hl hact
    rwa [hs] at h
  case pauseStays =>
    intro ht hs
    obtain ⟨hturn, hl⟩ := (takes_iff rfl).1 ht
    have h := cellCommand_stays hturn hl (show s.pauseAct = some s by simp only [State.pauseAct, hs])
    rwa [hs] at h
  case stopStays =>
    intro ht hs
    obtain ⟨hturn, hl⟩ := (takes_iff rfl).1 ht
    exact cellCommand_stays hturn hl (show s.stopAct = some s by rcases hs with hs | hs <;> simp only [State.stopAct, hs])
  case clearStays =>
    intro ht hs
    obtain ⟨hturn, hl⟩ := (takes_iff rfl).1 ht
    refine cellCommand_stays hturn hl ?_
    unfold State.clearHaltAct
    split
    case h_1 hh => exact absurd hh hs
    all_goals rfl
  case startRefused =>
    intro ht hs
    obtain ⟨hturn, hl⟩ := (takes_iff rfl).1 ht
    refine cellCommand_wrongState hturn hl ?_
    rcases hs with hs | hs | hs | hs | hs <;> simp only [State.startAct, hs, Bool.not_false, if_true, ite_self]
  case pauseRefused =>
    intro ht hrun hpaused
    obtain ⟨hturn, hl⟩ := (takes_iff rfl).1 ht
    refine cellCommand_wrongState hturn hl ?_
    unfold State.pauseAct
    split
    case h_1 h => exact absurd h hrun
    case h_2 h => exact absurd h hpaused
    all_goals rfl
  case stopRefused =>
    intro ht hs
    obtain ⟨hturn, hl⟩ := (takes_iff rfl).1 ht
    refine cellCommand_wrongState hturn hl ?_
    rcases hs with hs | hs | hs <;> simp only [State.stopAct, hs]
  case work =>
    intro s
    dsimp only
    simp only [← resumeBenches_eq]
    exact ⟨enterRunning_orders s, rfl, rfl, rfl, rfl, rfl, fun _ => rfl, fun _ => rfl, fun _ => rfl⟩

end Sys2Proof.Machine
end

section
/-! SUPPORT. The cutoff check (R29) as one state: of one wave, and of every wave. -/

namespace Sys2Proof.Machine

open Sys2Proof

variable {s t : State}

/-! ### Notices of a cut -/

theorem raised_of_pending {f : NoticeFlag} {n : Notices} (h : flagIn n.pending f = true) : n.raised f = n := if_pos h

/-- R29: WAVE_CUT where a wave is cut, and ORDER_OVERDUE where an order is newly marked. -/
def Notices.cutRaised (cut newly : Bool) (n : Notices) : Notices :=
  if cut then if newly then (n.raised .waveCut).raised .orderOverdue else n.raised .waveCut else n

/-- A wave cut after others raises no flag twice. -/
theorem cutRaised_cutRaised {a b c d : Bool} (hb : b = true → a = true) (hd : d = true → c = true) (n : Notices) :
    Notices.cutRaised c d (Notices.cutRaised a b n) = Notices.cutRaised (a || c) (b || d) n := by
  have again {m : Notices} (h : flagIn m.pending .waveCut = true) : m.raised .waveCut = m := raised_of_pending h
  have hwave : flagIn (n.raised .waveCut).pending .waveCut = true := raised_self _ _
  have hboth : flagIn ((n.raised .waveCut).raised .orderOverdue).pending .waveCut = true := raised_pending hwave
  have hover : flagIn ((n.raised .waveCut).raised .orderOverdue).pending .orderOverdue = true := raised_self _ _
  cases a <;> cases b <;> cases c <;> cases d <;>
    simp_all [Notices.cutRaised, raised_of_pending]

/-! ### One wave -/

/-- R29: the cutoff check finds a PLANNED wave n whose cutoff is reached. -/
def State.cuts (s : State) (n : Nat) : Bool :=
  s.waves.any (fun w => w.number == n && w.state == .planned && decide (w.cutoff.getD 0 ≤ s.clock.minute))

theorem cuts_iff (n : Nat) : s.cuts n = true ↔
    ∃ w ∈ s.waves, w.number = n ∧ w.state = .planned ∧ w.cutoff.getD 0 ≤ s.clock.minute := by
  simp [State.cuts, and_assoc]

theorem cutNow_iff (hi : s.Inv) (hc : s.clock.isSet = true) (n : Nat) : s.cutNow n = s.cuts n := by
  rw [Bool.eq_iff_iff, cuts_iff, State.cutNow, hc, Bool.true_and]
  cases hw : s.wave? n with
  | none =>
    refine iff_of_false (by simp) fun ⟨w, hmem, hn, _⟩ => ?_
    rw [← hn, wave_of_mem hi hmem] at hw
    cases hw
  | some x =>
    obtain ⟨hx, hn⟩ := look_some hw
    simp only [Bool.and_eq_true, beq_iff_eq, State.reached, decide_eq_true_eq]
    refine ⟨fun ⟨hp, hr⟩ => ⟨x, hx, hn, hp, hr⟩, fun ⟨w, hmem, hwn, hp, hr⟩ => ?_⟩
    rw [← hwn, wave_of_mem hi hmem] at hw
    cases hw
    exact ⟨hp, hr⟩

/-- The waves of LOADED, BUILDING, HELD and COMPLETE orders. -/
def Unsealed (o : Order) : Prop := o.state = .loaded ∨ o.state = .building ∨ o.state = .held ∨ o.state = .complete

theorem cutMarks_iff (n : Nat) (o : Order) : cutMarks n o = true ↔ o.wave = n ∧ Unsealed o := by
  simp [cutMarks, Unsealed, or_assoc]

/-- R29: a wave cut, its orders marked, the notices raised. -/
theorem cutWave_eq (n : Nat) (s : State) : s.cutWave n = { s with
    waves := s.waves.map (fun x => if x.number = n then { x with state := .cut } else x)
    book := { s.book with orders := s.book.orders.map (fun o => if cutMarks n o then { o with overdue := true } else o) }
    notices := s.notices.cutRaised true (s.book.orders.any (fun o => cutMarks n o && !o.overdue)) } := by
  unfold State.cutWave Notices.cutRaised
  rw [updWave_eq]
  cases s.book.orders.any (fun o => cutMarks n o && !o.overdue) <;> rfl

/-- R29: the cutoff check of one wave: the wave by the table; where it is cut, the orders and the notices. -/
theorem cutoffCheck_eq (hi : s.Inv) (hc : s.clock.isSet = true) (n : Nat) : s.cutoffCheck n = { s with
    waves := s.waves.map (fun w => if w.number = n then cutChecked s w else w)
    book := { s.book with orders := s.book.orders.map (fun o =>
      if s.cuts n && cutMarks n o then { o with overdue := true } else o) }
    notices := s.notices.cutRaised (s.cuts n) (s.book.orders.any (fun o => s.cuts n && cutMarks n o && !o.overdue)) } := by
  have member {w : Wave} (hw : w ∈ s.waves) (hn : w.number = n) : s.wave? n = some w := hn ▸ wave_of_mem hi hw
  have waves {f : Wave → Wave} (hf : ∀ w, s.wave? n = some w → f w = cutChecked s w) :
      s.waves.map (fun w => if w.number = n then f w else w) =
        s.waves.map (fun w => if w.number = n then cutChecked s w else w) :=
    List.map_congr_left fun w hw => by
      split
      case isTrue hn => exact hf w (member hw hn)
      case isFalse => rfl
  have hcut := cutNow_iff hi hc n
  unfold State.cutoffCheck
  split
  case isTrue h =>
    have hcuts : s.cuts n = true := hcut ▸ h
    rw [cutWave_eq, waves fun w hw => ?_, hcuts]
    · simp only [Bool.true_and]
    · simp only [State.cutNow, hc, hw, Bool.true_and, Bool.and_eq_true, beq_iff_eq, State.reached,
        decide_eq_true_eq] at h
      simp only [cutChecked, h.1, if_pos h.2]
  case isFalse h =>
    have hcuts : s.cuts n = false := by rw [← hcut]; simpa using h
    have hnone : s.book.orders.any (fun o => s.cuts n && cutMarks n o && !o.overdue) = false := by simp [hcuts]
    have horders : s.book.orders.map (fun o => if s.cuts n && cutMarks n o then { o with overdue := true } else o) =
        s.book.orders := by simp [hcuts]
    rw [hnone, hcuts] at *
    rw [horders]
    split
    case isTrue hun =>
      rw [updWave_eq, waves fun w hw => ?_]
      · rfl
      · simp only [State.uncutNow, hc, hw, Bool.true_and, Bool.and_eq_true, beq_iff_eq, State.reached,
          Bool.not_eq_true', decide_eq_false_iff_not] at hun
        simp only [cutChecked, hun.1, if_neg hun.2]
    case isFalse hun =>
      have hsame : s.waves.map (fun w => if w.number = n then cutChecked s w else w) = s.waves := by
        rw [← waves (f := id) fun w hw => ?_]
        · simp
        · simp only [State.cutNow, State.uncutNow, hc, hw, Bool.true_and, State.reached] at h hun
          rcases w with ⟨number, state, lane, cutoff⟩
          cases state <;> simp_all [cutChecked]
      rw [hsame]
      rfl


/-! ### Every wave -/

/-- R29: the cutoff check of one of the waves ns marks the order. -/
def State.marksOf (s : State) (ns : List Nat) (o : Order) : Bool := ns.any (fun n => s.cuts n && cutMarks n o)

/-- R29: the cutoff checks of the waves ns, as one state. -/
def State.cutApplied (ns : List Nat) (s : State) : State := { s with
  waves := s.waves.map (fun w => if w.number ∈ ns then cutChecked s w else w)
  book := { s.book with orders := s.book.orders.map (fun o => if s.marksOf ns o then { o with overdue := true } else o) }
  notices := s.notices.cutRaised (ns.any s.cuts) (s.book.orders.any (fun o => s.marksOf ns o && !o.overdue)) }

theorem cutApplied_cuts {ns : List Nat} {n : Nat} (hn : n ∉ ns) : (s.cutApplied ns).cuts n = s.cuts n := by
  unfold State.cuts State.cutApplied
  rw [List.any_map]
  refine congrArg s.waves.any (funext fun w => ?_)
  simp only [Function.comp]
  split
  case isTrue hw =>
    have hne : w.number ≠ n := fun h => hn (h ▸ hw)
    simp [cutChecked, beq_false_of_ne hne]
  case isFalse => rfl

theorem any_or_any {α : Type} (xs : List α) (f g : α → Bool) : (xs.any f || xs.any g) = xs.any (fun x => f x || g x) := by
  rw [Bool.eq_iff_iff]
  simp only [Bool.or_eq_true, List.any_eq_true]
  exact ⟨fun h => h.elim (fun ⟨x, hx, hf⟩ => ⟨x, hx, .inl hf⟩) fun ⟨x, hx, hg⟩ => ⟨x, hx, .inr hg⟩,
    fun ⟨x, hx, h⟩ => h.imp (⟨x, hx, ·⟩) (⟨x, hx, ·⟩)⟩

theorem cutoffs_eq (hi : s.Inv) (hc : s.clock.isSet = true) (ns : List Nat) (hn : ns.Nodup) :
    ns.foldl State.cutoffCheck s = s.cutApplied ns := by
  induction ns using List.reverseRecOn with
  | nil => simp [State.cutApplied, State.marksOf, Notices.cutRaised]
  | append_singleton ns n ih =>
    obtain ⟨hns, -, hnot⟩ := List.nodup_append.1 hn
    have hmem : n ∉ ns := fun h => hnot n h n (by simp) rfl
    have hinv : (s.cutApplied ns).Inv := ih hns ▸ (foldl_touch cutoffCheck_touch ns s).inv hi
    rw [List.foldl_append, List.foldl_cons, List.foldl_nil, ih hns, cutoffCheck_eq hinv hc, cutApplied_cuts hmem]
    have waves : (s.cutApplied ns).waves.map (fun w => if w.number = n then cutChecked (s.cutApplied ns) w else w) =
        (s.cutApplied (ns ++ [n])).waves := by
      unfold State.cutApplied
      simp only [List.map_map]
      refine List.map_congr_left fun w _ => ?_
      simp only [Function.comp, List.mem_append, List.mem_singleton]
      by_cases hw : w.number ∈ ns
      · have hne : w.number ≠ n := fun h => hmem (h ▸ hw)
        simp [hw, hne, cutChecked]
      · simp [hw]
        rfl
    have orders : (s.cutApplied ns).book.orders.map (fun o =>
        if s.cuts n && cutMarks n o then { o with overdue := true } else o) = (s.cutApplied (ns ++ [n])).book.orders := by
      unfold State.cutApplied State.marksOf
      simp only [List.map_map]
      refine List.map_congr_left fun o _ => ?_
      simp only [Function.comp, List.any_append, List.any_cons, List.any_nil, Bool.or_false]
      cases ns.any (fun n => s.cuts n && cutMarks n o) <;> simp [cutMarks]
    have newly : ((s.book.orders.any (fun o => s.marksOf ns o && !o.overdue)) ||
        ((s.cutApplied ns).book.orders.any (fun o => s.cuts n && cutMarks n o && !o.overdue))) =
        s.book.orders.any (fun o => s.marksOf (ns ++ [n]) o && !o.overdue) := by
      unfold State.cutApplied
      rw [List.any_map, any_or_any]
      refine congrArg s.book.orders.any (funext fun o => ?_)
      simp only [Function.comp, State.marksOf, List.any_append, List.any_cons, List.any_nil, Bool.or_false]
      by_cases h : ns.any (fun n => s.cuts n && cutMarks n o) = true
      · simp [h]
      · simp [h, Bool.and_assoc]
    have notices : Notices.cutRaised (s.cuts n)
        ((s.cutApplied ns).book.orders.any (fun o => s.cuts n && cutMarks n o && !o.overdue)) (s.cutApplied ns).notices =
        (s.cutApplied (ns ++ [n])).notices := by
      have imp {ms : List Nat} {os : List Order} {c : State}
          (h : os.any (fun o => c.marksOf ms o && !o.overdue) = true) : ms.any c.cuts = true := by
        simp only [List.any_eq_true, State.marksOf, Bool.and_eq_true] at h ⊢
        obtain ⟨o, -, ⟨m, hm, hcut, -⟩, -⟩ := h
        exact ⟨m, hm, hcut⟩
      unfold State.cutApplied at newly ⊢
      dsimp only at newly ⊢
      rw [cutRaised_cutRaised imp fun h => ?_, newly]
      · simp only [List.any_append, List.any_cons, List.any_nil, Bool.or_false]
      · simp only [List.any_eq_true, Bool.and_eq_true] at h
        obtain ⟨-, -, ⟨hcut, -⟩, -⟩ := h
        exact hcut
    rw [waves, orders, notices]
    rfl

/-- R29: a PLANNED wave n whose cutoff is reached. -/
def State.Cuts (s : State) (n : Nat) : Prop :=
  ∃ w ∈ s.waves, w.number = n ∧ w.state = .planned ∧ w.cutoff.getD 0 ≤ s.clock.minute

theorem cutChecked_state (s : State) (w : Wave) : cutChecked s w =
    { w with state := if w.state = .planned ∨ w.state = .cut then
        if w.cutoff.getD 0 ≤ s.clock.minute then .cut else .planned
      else w.state } := by
  obtain ⟨number, state, lane, cutoff⟩ := w
  cases state <;> simp [cutChecked]

/-- R29: the cutoff check of every wave: the waves by the table, the orders marked, the notices, nothing else. -/
theorem cutoffAll_spec (hi : s.Inv) (hc : s.clock.isSet = true) :
    s.cutoffAll.waves = s.waves.map (fun w => { w with state :=
      if w.state = .planned ∨ w.state = .cut then if w.cutoff.getD 0 ≤ s.clock.minute then .cut else .planned
      else w.state }) ∧
    s.cutoffAll.book.loadSeq = s.book.loadSeq ∧
    List.Forall₂ (fun o p : Order => { p with overdue := o.overdue } = o ∧
      (p.overdue = true ↔ o.overdue = true ∨ (s.Cuts o.wave ∧ Unsealed o))) s.book.orders s.cutoffAll.book.orders ∧
    ((∀ n, ¬s.Cuts n) → s.cutoffAll.notices = s.notices) ∧
    ((∃ n, s.Cuts n) → (∃ o ∈ s.book.orders, (s.Cuts o.wave ∧ Unsealed o) ∧ o.overdue = false) →
      s.cutoffAll.notices = (s.notices.raised .waveCut).raised .orderOverdue) ∧
    ((∃ n, s.Cuts n) → (∀ o ∈ s.book.orders, s.Cuts o.wave ∧ Unsealed o → o.overdue = true) →
      s.cutoffAll.notices = s.notices.raised .waveCut) ∧
    { s.cutoffAll with waves := s.waves, book := s.book, notices := s.notices } = s := by
  have all : s.cutoffAll = s.cutApplied (upTo 8) := cutoffs_eq hi hc (upTo 8) (by decide)
  have number {w : Wave} (hw : w ∈ s.waves) : w.number ∈ upTo 8 := hi.waveKeys ▸ List.mem_map_of_mem hw
  have marked (o : Order) : s.marksOf (upTo 8) o = true ↔ s.Cuts o.wave ∧ Unsealed o := by
    simp only [State.marksOf, List.any_eq_true, Bool.and_eq_true, cuts_iff, cutMarks_iff]
    refine ⟨fun ⟨n, _, hcut, hw, hu⟩ => ⟨hw ▸ hcut, hu⟩, fun ⟨hcut, hu⟩ => ?_⟩
    have ⟨w, hw, hn, _⟩ := hcut
    exact ⟨o.wave, hn ▸ number hw, hcut, rfl, hu⟩
  have some_cut : (upTo 8).any s.cuts = true ↔ ∃ n, s.Cuts n := by
    simp only [List.any_eq_true, cuts_iff]
    refine ⟨fun ⟨n, _, h⟩ => ⟨n, h⟩, fun ⟨n, h⟩ => ?_⟩
    have ⟨w, hw, hn, _⟩ := h
    exact ⟨n, hn ▸ number hw, h⟩
  have newly : s.book.orders.any (fun o => s.marksOf (upTo 8) o && !o.overdue) = true ↔
      ∃ o ∈ s.book.orders, (s.Cuts o.wave ∧ Unsealed o) ∧ o.overdue = false := by
    simp only [List.any_eq_true, Bool.and_eq_true, marked, Bool.not_eq_true']
  rw [all]
  refine ⟨List.map_congr_left fun w hw => ?_, rfl, ?_, fun h => ?_, fun h hnew => ?_, fun h hold => ?_, rfl⟩
  · rw [if_pos (number hw), cutChecked_state]
  · rw [State.cutApplied, List.forall₂_map_right_iff]
    refine List.forall₂_same.2 fun o _ => ?_
    rw [← marked]
    cases s.marksOf (upTo 8) o <;> simp
  · have none : (upTo 8).any s.cuts = false := Bool.eq_false_iff.2 fun h' => (some_cut.1 h').elim h
    simp only [State.cutApplied, none, Notices.cutRaised, Bool.false_eq_true, if_false]
  · simp only [State.cutApplied, some_cut.2 h, newly.2 hnew, Notices.cutRaised, if_true]
  · have none : s.book.orders.any (fun o => s.marksOf (upTo 8) o && !o.overdue) = false :=
      Bool.eq_false_iff.2 fun h' => by
        obtain ⟨o, ho, hm, hover⟩ := newly.1 h'
        rw [hold o ho hm] at hover
        cases hover
    simp only [State.cutApplied, some_cut.2 h, none, Notices.cutRaised, if_true, Bool.false_eq_true, if_false]

end Sys2Proof.Machine
end

section
/-! SUPPORT. The requests handed to an owner, and those that set the clock and the waves (R29, R32 to R35). -/

namespace Sys2Proof.Machine

open Sys2Proof

variable {c : Instr} {s t : State}

/-! ### A request that is taken -/

section
variable {rq : ReqHead} {kind : Byte} {l v : Bool} {owner : State → Reply × State} {r : Reply}

/-- A request in its turn, its fields in their ranges: what its owner answers, the quiet condition judged. -/
theorem taken_reply (ht : s.Takes c) (hv : v = true) (ho : owner s = (r, t))
    (hl : rq.lengthOk = true → l = true := by exact id) (hc : requestOf c = some (rq, kind) := by rfl) :
    request c rq kind (checked l v owner) s = s.replies t rq kind r.status r.body := by
  obtain ⟨hturn, hlen⟩ := (takes_iff hc).1 ht
  exact request_reply hturn ((checked_ok (hl hlen) hv).trans ho)

/-- The same, where no part of the quiet condition changes. -/
theorem taken_next (ht : s.Takes c) (hv : v = true) (ho : owner s = (r, t)) (hq : s.quietParts = t.quietParts := by rfl)
    (hcell : s.cell.state = t.cell.state := by rfl) (hl : rq.lengthOk = true → l = true := by exact id)
    (hc : requestOf c = some (rq, kind) := by rfl) :
    request c rq kind (checked l v owner) s = .next (t.answer rq.tag kind r) := by
  obtain ⟨hturn, hlen⟩ := (takes_iff hc).1 ht
  exact request_next hturn ((checked_ok (hl hlen) hv).trans ho) hq hcell

/-- The same, where a field is out of its range. -/
theorem taken_bad (ht : s.Takes c) (hv : v = false) (hl : rq.lengthOk = true → l = true := by exact id)
    (hc : requestOf c = some (rq, kind) := by rfl) :
    request c rq kind (checked l v owner) s = .next (s.answer rq.tag kind ⟨.badValue, .none⟩) := by
  obtain ⟨hturn, hlen⟩ := (takes_iff hc).1 ht
  exact request_same hturn (checked_bad (hl hlen) hv)

/-- The same, where the fields do not fit the body. -/
theorem taken_len (ht : s.Takes c) (hl : l = false) (hc : requestOf c = some (rq, kind) := by rfl) :
    request c rq kind (checked l v owner) s = .next (s.answer rq.tag kind ⟨.badLength, .none⟩) :=
  request_same ((takes_iff hc).1 ht).1 (checked_len hl)

end

theorem inRange_false {lo hi n : Nat} : inRange lo hi n = false ↔ n < lo ∨ hi < n := by
  rw [← Bool.not_eq_true, inRange_iff, not_and_or, not_le, not_le]

theorem optInRange_false {lo hi : Nat} {o : Option Nat} :
    optInRange lo hi o = false ↔ ∃ n, o = some n ∧ (n < lo ∨ hi < n) := by
  rw [← Bool.not_eq_true, optInRange_iff]
  simp only [not_forall, not_and_or, not_le, exists_prop]

/-! ### The clock -/

/-- R29: the orders marked when wave n is cut, written out. -/
theorem cutMarks_map (n : Nat) (os : List Order) :
    os.map (fun o => if cutMarks n o then { o with overdue := true } else o) = os.map (fun o =>
      if o.wave = n ∧ (o.state = .loaded ∨ o.state = .building ∨ o.state = .held ∨ o.state = .complete) then
        { o with overdue := true } else o) :=
  List.map_congr_left fun o _ => if_congr (cutMarks_iff n o) rfl rfl

/-- Settles O38: Set Clock by the cutoff check of every wave, WAVE_CUT by that of one. -/
theorem setClockRunsTheCutoffChecks : Obligations.SetClockRunsTheCutoffChecks := by
  refine ⟨fun s rq m hi ht => ?_, fun s n w hw => ⟨fun hn => ?_, fun hcut hnew => ?_, fun hcut hold => ?_⟩⟩
  · let r : State := { s with clock := ⟨m.toNat, true⟩ }
    have hr : r.Inv := { hi with minute := Nat.le_of_lt_succ m.isLt }
    obtain ⟨hwaves, hseq, horders, hnone, hnew, hold, hframe⟩ := cutoffAll_spec hr rfl
    have hclock : r.cutoffAll.clock = r.clock := (congrArg State.clock hframe :)
    refine ⟨r.cutoffAll, taken_next ht rfl rfl ?_ ?_, hclock, hwaves, hseq, horders, hnone,
      fun hsome ⟨o, ho, hcut, hu, hover⟩ => hnew hsome ⟨o, ho, ⟨hcut, hu⟩, hover⟩,
      fun hsome h => hold hsome fun o ho hm => h o ho hm.1 hm.2, ?_⟩
    · exact (congrArg State.quietParts hframe).symm
    · exact (congrArg (fun u : State => u.cell.state) hframe).symm
    · exact congrArg (fun u : State => { u with clock := s.clock }) hframe
  all_goals
    have cutNow : s.cutNow n = true ↔ s.clock.isSet = true ∧ w.state = .planned ∧ w.cutoff.getD 0 ≤ s.clock.minute := by
      simp [State.cutNow, hw, State.reached]
  · show Host.Outcome.next _ = _
    rw [if_neg (mt cutNow.1 hn)]
  all_goals
    have marked (o : Order) : cutMarks n o = true ↔ o.wave = n ∧ Unsealed o := cutMarks_iff n o
    show Host.Outcome.next _ = _
    rw [if_pos (cutNow.2 hcut), cutWave_eq, cutMarks_map]
  · have newly : s.book.orders.any (fun o => cutMarks n o && !o.overdue) = true := by
      obtain ⟨o, ho, hwave, hunsealed, hover⟩ := hnew
      exact List.any_eq_true.2 ⟨o, ho, by simp [(marked o).2 ⟨hwave, hunsealed⟩, hover]⟩
    rw [newly]
    rfl
  · have newly : s.book.orders.any (fun o => cutMarks n o && !o.overdue) = false := by
      refine List.any_eq_false.2 fun o ho => ?_
      simp only [Bool.and_eq_true, marked, Bool.not_eq_true', not_and, Bool.not_eq_false]
      exact fun hm => hold o ho hm.1 hm.2
    rw [newly]
    rfl

/-! ### Set Wave and Depart Wave -/

/-- R33, R34: a wave given its lane and cutoff. -/
def Wave.given (lane cutoff : Nat) (x : Wave) : Wave :=
  { x with
    lane := some lane
    cutoff := some cutoff
    state := match x.state with
      | .unused | .planned | .departed => .planned
      | .cut => .cut }

/-- R33, R34: the state of wave w after Set Wave with a cutoff. -/
def State.givenState (s : State) (w : Wave) (cutoff : Nat) : WaveState :=
  if w.state = .cut then if s.clock.isSet = true ∧ s.clock.minute < cutoff then .planned else .cut
  else if s.clock.isSet = true ∧ cutoff ≤ s.clock.minute then .cut else .planned

theorem setWaveFields_eq {n lane cutoff : Nat} {w : Wave} (hi : s.Inv) (hw : s.wave? n = some w) :
    s.setWaveFields n lane cutoff = { s with
      waves := s.waves.map (fun x => if x.number = n then
        { x with state := s.givenState w cutoff, lane := some lane, cutoff := some cutoff } else x)
      book := { s.book with orders := s.book.orders.map (fun o =>
        if (s.givenState w cutoff = .cut ∧ w.state ≠ .cut) ∧ cutMarks n o = true then { o with overdue := true } else o) }
      notices := s.notices.cutRaised (decide (s.givenState w cutoff = .cut ∧ w.state ≠ .cut))
        (s.book.orders.any (fun o => cutMarks n o && !o.overdue)) } := by
  let r : State := { s with waves := s.waves.map (fun x => if x.number = n then x.given lane cutoff else x) }
  have hr : s.setWaveFields n lane cutoff = r.cutoffCheck n := by
    unfold State.setWaveFields
    rw [updWave_eq]
    rfl
  have waves (f : Wave → Wave) (hf : f (w.given lane cutoff) =
      { w with state := s.givenState w cutoff, lane := some lane, cutoff := some cutoff }) :
      r.waves.map (fun x => if x.number = n then f x else x) = s.waves.map (fun x => if x.number = n then
        { x with state := s.givenState w cutoff, lane := some lane, cutoff := some cutoff } else x) := by
    rw [List.map_map]
    refine List.map_congr_left fun x hx => ?_
    by_cases hn : x.number = n
    · have hxw : some x = some w := (wave_of_mem hi hx).symm.trans (hn ▸ hw)
      cases hxw
      simp only [Function.comp, if_pos hn]
      exact (if_pos hn).trans hf
    · simp only [Function.comp, if_neg hn]
  have hlook : r.wave? n = some (w.given lane cutoff) := by
    have h := look_amend_same (key := Wave.number) (n := n) (f := Wave.given lane cutoff) (by intro x; rfl) s.waves
    rw [show look Wave.number n s.waves = some w from hw] at h
    exact (congrArg (fun u : State => u.wave? n) (updWave_eq s n (Wave.given lane cutoff))).symm.trans h
  have hcut : r.cutNow n = true ↔ s.clock.isSet = true ∧ w.state ≠ .cut ∧ cutoff ≤ s.clock.minute := by
    simp only [State.cutNow, hlook, Wave.given, State.reached]
    cases w.state <;> simp [r]
  have huncut : r.uncutNow n = true ↔ s.clock.isSet = true ∧ w.state = .cut ∧ s.clock.minute < cutoff := by
    simp only [State.uncutNow, hlook, Wave.given, State.reached]
    cases w.state <;> simp [r]
  rw [hr]
  unfold State.cutoffCheck
  split
  case isTrue h =>
    obtain ⟨hset, hw', hle⟩ := hcut.1 h
    have hst : s.givenState w cutoff = .cut := by simp [State.givenState, hw', hset, hle]
    rw [cutWave_eq, waves _ (by simp [Wave.given, hst])]
    simp [hst, hw', r]
  case isFalse h =>
    have hno : ¬(s.givenState w cutoff = .cut ∧ w.state ≠ .cut) := by
      rintro ⟨hst, hw'⟩
      rw [State.givenState, if_neg hw'] at hst
      split at hst
      case isTrue hreached => exact h (hcut.2 ⟨hreached.1, hw', hreached.2⟩)
      case isFalse => cases hst
    split
    case isTrue hun =>
      obtain ⟨hset, hw', hlt⟩ := huncut.1 hun
      have hst : s.givenState w cutoff = .planned := by simp [State.givenState, hw', hset, hlt]
      rw [updWave_eq, waves _ (by simp [Wave.given, hst])]
      simp [hno, Notices.cutRaised, r]
    case isFalse hun =>
      have hsame : w.given lane cutoff =
          { w with state := s.givenState w cutoff, lane := some lane, cutoff := some cutoff } := by
        rw [hcut] at h
        rw [huncut] at hun
        simp only [Wave.given, State.givenState]
        cases hw' : w.state <;> simp_all
      have := waves id hsame
      simp only [id, ite_self, List.map_id'] at this
      simp only [hno, Notices.cutRaised, decide_false, Bool.false_eq_true, if_false, false_and, List.map_id', ← this]
      rfl


theorem waveState_of {n : Nat} {w : Wave} (h : s.wave? n = some w) : s.waveState n = w.state := by
  simp [State.waveState, h]

/-- Settles O39: Set Wave by `setWaveFields_eq`, Depart Wave by its table. -/
theorem waveRequestsFollowTheirTables : Obligations.WaveRequestsFollowTheirTables := by
  refine fun s rq => ⟨fun n lane c w hi ht hn1 hn8 hl1 hl4 hw => ⟨fun hd hrefs => ?inUse, fun hfree => ?set⟩,
    fun n lane c ht hbad => ?bad, fun n w ht hn1 hn8 hw => ⟨fun hu => ?unused, fun hu => ?departs⟩, fun n ht hbad => ?badDepart⟩
  case inUse =>
    have hv : (inRange 1 8 n && inRange 1 4 lane) = true := by simp [inRange, hn1, hn8, hl1, hl4]
    have hrefs' : 1 ≤ s.waveRefs n := by
      simpa [State.waveRefs, State.countsAsRef, and_assoc] using hrefs
    refine taken_next ht hv ?_
    rw [waveState_of hw, hd]
    simp [hrefs', bare]
  case set =>
    have hv : (inRange 1 8 n && inRange 1 4 lane) = true := by simp [inRange, hn1, hn8, hl1, hl4]
    have hown : (s.waveState n == .departed && decide (1 ≤ s.waveRefs n)) = false := by
      rw [waveState_of hw]
      rcases hfree with h | h
      · simp [h]
      · have hzero : s.waveRefs n = 0 := by simpa [State.waveRefs, State.countsAsRef, and_assoc] using h
        simp [hzero]
    have heq := setWaveFields_eq (lane := lane) (cutoff := c.toNat) hi hw
    have hstate : (s.setWaveFields n lane c.toNat).waveState n = s.givenState w c.toNat := by
      have hfound : (s.setWaveFields n lane c.toNat).wave? n =
          some { w with state := s.givenState w c.toNat, lane := some lane, cutoff := some c.toNat } := by
        rw [heq]
        have h := look_amend_same (key := Wave.number) (n := n) (f := fun x : Wave =>
          { x with state := s.givenState w c.toNat, lane := some lane, cutoff := some c.toNat }) (by intro x; rfl) s.waves
        rw [show look Wave.number n s.waves = some w from hw] at h
        rw [amend_eq] at h
        exact h
      exact waveState_of hfound
    refine ⟨s.setWaveFields n lane c.toNat, ?_, ?_⟩
    · refine taken_next ht hv ?_ ?_ ?_
      · rw [hown, if_neg Bool.false_ne_true]
        dsimp only
        rw [hstate]
        rfl
      · rw [heq]
        rfl
      · rw [heq]
    · rw [heq]
      refine ⟨rfl, fun hno => ?_, fun hcut hnot => ⟨?_, fun hnew => ?_, fun hold => ?_⟩, rfl⟩
      · have hno' : ¬(s.givenState w c.toNat = .cut ∧ w.state ≠ .cut) := hno
        simp only [hno', Notices.cutRaised, decide_false, Bool.false_eq_true, if_false, false_and, List.map_id']
      all_goals have hyes : s.givenState w c.toNat = .cut ∧ w.state ≠ .cut := ⟨hcut, hnot⟩
      · simp only [hyes, not_false_eq_true, and_self, true_and, ne_eq]
        rw [← cutMarks_map]
      all_goals
        have marked (o : Order) : cutMarks n o = true ↔ o.wave = n ∧ Unsealed o := cutMarks_iff n o
        simp only [hyes, not_false_eq_true, and_self, decide_true, ne_eq]
      · have newly : s.book.orders.any (fun o => cutMarks n o && !o.overdue) = true := by
          obtain ⟨o, ho, hwave, hover, hunsealed⟩ := hnew
          exact List.any_eq_true.2 ⟨o, ho, by simp [(marked o).2 ⟨hwave, hunsealed⟩, hover]⟩
        rw [newly]
        rfl
      · have newly : s.book.orders.any (fun o => cutMarks n o && !o.overdue) = false := by
          refine List.any_eq_false.2 fun o ho => ?_
          simp only [Bool.and_eq_true, marked, Bool.not_eq_true', not_and, Bool.not_eq_false]
          exact fun hm => hold o ho hm.1 hm.2
        rw [newly]
        rfl
  case bad =>
    refine taken_bad ht ?_
    rw [Bool.and_eq_false_iff, inRange_false, inRange_false]
    omega
  case unused =>
    refine taken_next ht (inRange_iff.2 ⟨hn1, hn8⟩) ?_
    rw [waveState_of hw, hu]
    rfl
  case departs =>
    have hunsealed : s.waveUnsealed n = s.book.orders.countP (fun o => decide (o.wave = n ∧ (o.state = .loaded ∨
        o.state = .building ∨ o.state = .held ∨ o.state = .complete))) := by
      unfold State.waveUnsealed
      refine congrArg (List.countP · s.book.orders) (funext fun o => eq_decide_of_iff ?_)
      simp [State.countsAsUnsealed, or_assoc]
    refine taken_next ht (inRange_iff.2 ⟨hn1, hn8⟩) ?_
    rw [waveState_of hw, updWave_eq, hunsealed]
    generalize w.state = st at hu
    cases st
    case unused => exact absurd rfl hu
    all_goals rfl
  case badDepart =>
    refine taken_bad ht ?_
    rw [inRange_false]
    omega

end Sys2Proof.Machine
end

section
/-! SUPPORT. Fault reports, notices and the attention line, lane signals (R47, R164 to R170, R182, R191, R192). -/

namespace Sys2Proof.Machine

open Sys2Proof

variable {s t : State}

/-! ### Sets of flags and of kinds -/

theorem flagNumber_injective : Function.Injective NoticeFlag.number := by
  intro f g h
  cases f <;> cases g <;> first | rfl | cases h

theorem flagNumber_lt (f : NoticeFlag) : f.number < 11 := by cases f <;> decide

theorem flag_at {n : Nat} (h : n < 11) : ∃ f : NoticeFlag, f.number = n :=
  match n, h with
  | 0, _ => ⟨.orderComplete, rfl⟩
  | 1, _ => ⟨.orderDispatched, rfl⟩
  | 2, _ => ⟨.orderOverdue, rfl⟩
  | 3, _ => ⟨.orderCancelled, rfl⟩
  | 4, _ => ⟨.lineShort, rfl⟩
  | 5, _ => ⟨.waveCut, rfl⟩
  | 6, _ => ⟨.cageMatch, rfl⟩
  | 7, _ => ⟨.cageFull, rfl⟩
  | 8, _ => ⟨.benchStalled, rfl⟩
  | 9, _ => ⟨.faultNotice, rfl⟩
  | 10, _ => ⟨.cellState, rfl⟩

theorem flagIn_bit_iff (f g : NoticeFlag) : flagIn f.bit g = (g == f) := by
  rw [Bool.eq_iff_iff, beq_iff_eq, ← flagNumber_injective.eq_iff]
  have hg := flagNumber_lt g
  simp only [flagIn, NoticeFlag.bit, BitVec.getLsbD_ofNat, Nat.testBit_two_pow, Bool.and_eq_true, decide_eq_true_eq]
  omega

/-- A set of flags is not empty where a flag is in it. -/
theorem flags_ne_zero (v : NoticeSet) : v ≠ 0 ↔ ∃ f, flagIn v f = true := by
  refine ⟨fun h => Classical.byContradiction fun hn => h (BitVec.eq_of_getLsbD_eq fun i hi => ?_), ?_⟩
  · obtain ⟨f, rfl⟩ := flag_at hi
    have hf : flagIn v f = false := Bool.eq_false_iff.2 fun h => hn ⟨f, h⟩
    simpa [flagIn] using hf
  · rintro ⟨f, hf⟩ rfl
    simp [flagIn] at hf

theorem kindCode_injective : Function.Injective FaultKind.code := by
  intro k j h
  cases k <;> cases j <;> first | rfl | cases h

theorem kindCode_range (k : FaultKind) : 1 ≤ k.code ∧ k.code ≤ 17 := by cases k <;> decide

theorem kindIn_bit_iff (k j : FaultKind) : kindIn k.bit j = (j == k) := by
  have hk := kindCode_range k
  have hj := kindCode_range j
  rw [Bool.eq_iff_iff, beq_iff_eq, ← kindCode_injective.eq_iff]
  simp only [kindIn, FaultKind.bit, BitVec.getLsbD_ofNat, Nat.testBit_two_pow, Bool.and_eq_true, decide_eq_true_eq]
  omega

/-! ### Notices -/

theorem raised_flagIn (n : Notices) (f g : NoticeFlag) : flagIn (n.raised f).pending g = (flagIn n.pending g || g == f) := by
  unfold Notices.raised
  split
  case isTrue h =>
    by_cases hg : g = f
    · rw [hg, h, Bool.true_or]
    · rw [beq_false_of_ne hg, Bool.or_false]
  case isFalse =>
    show flagIn (n.pending ||| f.bit) g = _
    rw [flagIn_or, flagIn_bit_iff]

theorem asserted_iff (n : Notices) : n.asserted = true ↔
    (∃ f, f ≠ NoticeFlag.faultNotice ∧ flagIn n.pending f = true ∧ flagIn n.enables f = true) ∨
      (flagIn n.pending .faultNotice = true ∧ flagIn n.enables .faultNotice = true ∧ n.mark = true) := by
  have hand (v w : NoticeSet) (f : NoticeFlag) : flagIn (v &&& w) f = (flagIn v f && flagIn w f) := by simp [flagIn]
  have hnot (f : NoticeFlag) : flagIn (~~~NoticeFlag.faultNotice.bit) f = !(f == .faultNotice) := by
    rw [← flagIn_bit_iff]
    simp [flagIn, flagNumber_lt]
  simp only [Notices.asserted, Bool.or_eq_true, decide_eq_true_eq, flags_ne_zero, Bool.and_eq_true, hand, hnot,
    Bool.not_eq_true', beq_eq_false_iff_ne, and_assoc]
  refine or_congr (exists_congr fun f => ?_) Iff.rfl
  rw [← and_assoc, and_comm]

/-- Settles O21: a flag raised bit by bit, and the line by the live set. -/
theorem noticeFlagsDriveTheAttentionLine : Obligations.NoticeFlagsDriveTheAttentionLine := by
  refine ⟨fun n f g => ⟨raised_flagIn n f g, ?_, ?_⟩, asserted_iff, fun n => ?_⟩
  · unfold Notices.raised
    split
    case isTrue h => simp [h]
    case isFalse h => simp [h]
  · unfold Notices.raised
    split <;> rfl
  · unfold Notices.lineHigh
    cases n.polarity <;> rfl

/-! ### The monitor -/

/-- Settles O20: record, seen set and counters of one logged report. -/
theorem loggedReportIsRecordedSeenAndCounted : Obligations.LoggedReportIsRecordedSeenAndCounted := by
  intro m r n
  have hnumber (v : Severity) : (v.written r).number = v.number := (written_kept r v).1
  refine ⟨fun v hv hfirst => ?_, fun v hv hfirst => ?_, fun j hj => look_amend_other hnumber hj _, fun k => ?_, rfl, rfl⟩
  · refine (look_amend_same hnumber _).trans ?_
    rw [hv, Option.map_some, Severity.written, hfirst]
  · refine (look_amend_same hnumber _).trans ?_
    obtain ⟨old, hold⟩ := Option.ne_none_iff_exists'.1 hfirst
    rw [hv, Option.map_some, Severity.written, hold]
  · show kindIn (m.seen ||| r.kind.bit) k = _
    rw [kindIn_or, kindIn_bit_iff]

/-- R166: logging a report leaves the actions of the severities. -/
theorem logged_actionOf (m : FaultMonitor) (r : FaultRecord) (sev n : Nat) :
    (m.logged r sev).actionOf n = m.actionOf n := by
  have hnumber (v : Severity) : (v.written r).number = v.number := (written_kept r v).1
  unfold FaultMonitor.actionOf
  by_cases h : n = sev
  · subst h
    rw [show look Severity.number n (m.logged r n).severities = _ from look_amend_same hnumber m.severities]
    cases look Severity.number n m.severities with
    | none => rfl
    | some v => exact (written_kept r v).2
  · rw [show look Severity.number n (m.logged r sev).severities = _ from look_amend_other hnumber h m.severities]

theorem raiseFault_disabled {k : FaultKind} {c : FaultCtx} {d : Nat} {e : MapEntry} (he : s.faults.entry? k = some e)
    (h : e.enabled = false) : s.raiseFault k c d = s := by
  simp [State.raiseFault, he, h]

theorem raiseFault_enabled {k : FaultKind} {c : FaultCtx} {d : Nat} {e : MapEntry} (he : s.faults.entry? k = some e)
    (h : e.enabled = true) : s.raiseFault k c d =
      ({ s with faults := s.faults.logged ⟨k, s.clock.minute, c, d⟩ e.severity } : State).applyAction
        (s.faults.actionOf e.severity) := by
  simp only [State.raiseFault, he, h, if_true, logged_actionOf]

theorem faultRaised_quietly (n : Notices) : n.faultRaised false = n.raised .faultNotice := by
  simp [Notices.faultRaised]

theorem faultRaised_loudly (n : Notices) : n.faultRaised true = { n.raised .faultNotice with mark := true } := by
  simp [Notices.faultRaised]

/-- R182: a halt request halts a cell in the four states, and every lane is held. -/
theorem haltRequest_halts (h : s.cell.state = .ready ∨ s.cell.state = .running ∨ s.cell.state = .paused ∨
    s.cell.state = .draining) : s.haltRequest = { s with
      cell := { s.cell with state := .halted }
      notices := s.notices.raised .cellState
      lanes := s.lanes.map (fun l : Lane => { l with signal := .hold })
      bus := { s.bus with sent := s.bus.sent ++ toldLanes .laneHold (s.lanes.filter (fun l => decide (l.signal = .go))) } } := by
  have hhalt : s.haltRequest = (s.setCell .halted).judgeLanes := by
    rcases h with h | h | h | h <;> simp only [State.haltRequest, h]
  have hwanted (l : Lane) (_ : l ∈ (s.setCell .halted).lanes) : (s.setCell .halted).holdWanted l = true := by
    simp [State.holdWanted, State.setCell, State.raiseNotice]
  rw [hhalt, judgeLanes_hold hwanted]
  rfl

theorem haltRequest_refused (h : s.cell.state = .setup ∨ s.cell.state = .halted ∨ s.cell.state = .restarting) :
    s.haltRequest = s := by
  rcases h with h | h | h <;> simp only [State.haltRequest, h]

/-- R166, R182: the action HALT. -/
theorem applyAction_halts (h : s.cell.state = .ready ∨ s.cell.state = .running ∨ s.cell.state = .paused ∨
    s.cell.state = .draining) : s.applyAction .halt = { s with
      cell := { s.cell with state := .halted }
      notices := (s.notices.faultRaised true).raised .cellState
      lanes := s.lanes.map (fun l : Lane => { l with signal := .hold })
      bus := { s.bus with sent := s.bus.sent ++ toldLanes .laneHold (s.lanes.filter (fun l => decide (l.signal = .go))) } } :=
  haltRequest_halts (s := { s with notices := s.notices.faultRaised true }) h

theorem applyAction_noHalt (h : s.cell.state = .setup ∨ s.cell.state = .halted ∨ s.cell.state = .restarting) :
    s.applyAction .halt = { s with notices := s.notices.faultRaised true } :=
  haltRequest_refused (s := { s with notices := s.notices.faultRaised true }) h

/-- Settles O19: a disabled kind leaves no trace; an enabled one is logged and acted on by its severity. -/
theorem faultReportIsLoggedAndActedOn : Obligations.FaultReportIsLoggedAndActedOn := by
  intro s k c d e he
  refine ⟨raiseFault_disabled he, fun h => ⟨?faults, raiseFault_frame k c d s, ?action⟩⟩
  case faults =>
    rw [raiseFault_enabled he h, applyAction_faults]
  case action =>
    dsimp only
    rw [raiseFault_enabled he h]
    refine ⟨fun ha => ?_, fun ha => ?_, fun ha => ?_, fun ha => ⟨fun hs => ?_, fun hs => ?_⟩, fun ha => ?_⟩
    · rw [ha]
      rfl
    · rw [ha]
      exact faultRaised_quietly s.notices
    · rw [ha]
      exact faultRaised_loudly s.notices
    · rw [ha, applyAction_halts (s := { s with faults := s.faults.logged ⟨k, s.clock.minute, c, d⟩ e.severity }) hs, ← faultRaised_loudly]
      exact ⟨rfl, rfl, rfl, rfl⟩
    · rw [ha, applyAction_noHalt (s := { s with faults := s.faults.logged ⟨k, s.clock.minute, c, d⟩ e.severity }) hs, ← faultRaised_loudly]
      exact ⟨rfl, rfl, rfl, rfl⟩
    · generalize s.faults.actionOf e.severity = a at ha
      cases a with
      | halt => exact absurd rfl ha
      | logOnly | notice | noticeAndAttention => exact ⟨rfl, rfl, rfl⟩

/-! ### Lane signals -/

theorem holdWanted_iff (l : Lane) : s.holdWanted l = true ↔ 4 ≤ l.queue.length ∨ 320 ≤ s.items.length ∨
    s.cell.state = .halted ∨ s.cell.state = .restarting := by
  simp only [State.holdWanted, State.tableFull, Bool.or_eq_true, or_assoc, decide_eq_true_eq, beq_iff_eq]
  rfl

theorem change_iff (w : Bool) (l : Lane) (u : FieldUnit) (r : OutRecord) : l.change w = some (u, r) ↔
    u = .lane l.number ∧ ((l.signal = .go ∧ w = true ∧ r = .laneHold) ∨ (l.signal = .hold ∧ w = false ∧ r = .laneGo)) := by
  unfold Lane.change
  cases l.signal <;> cases w <;> simp [eq_comm]

/-- Settles O22: each lane is judged, and told where its signal changes. -/
theorem laneSignalsAreJudged : Obligations.LaneSignalsAreJudged := by
  intro s
  refine ⟨fun l hl => ⟨l.judged (s.holdWanted l), List.mem_map.2 ⟨l, hl, rfl⟩, rfl, rfl, rfl, fun hw => ?_, fun hw => ?_⟩,
    ?_, ⟨_, rfl, fun u r => ?_⟩, judgeLanes_frame s⟩
  · rw [(holdWanted_iff l).2 hw]
    rfl
  · rw [Bool.eq_false_iff.2 (mt (holdWanted_iff l).1 hw)]
    rfl
  · exact List.map_map.trans (List.map_congr_left fun _ _ => rfl)
  · rw [List.mem_filterMap]
    refine exists_congr fun l => and_congr_right fun _ => ?_
    rw [change_iff, ← Bool.not_eq_true, holdWanted_iff]

end Sys2Proof.Machine
end

section
/-! SUPPORT. The requests that replace a setting (R49, R54, R55, R83, R103 to R105, R111, R112, R135, R141, R172 to R174, R186, R193). -/

namespace Sys2Proof.Machine

open Sys2Proof

variable {c : Instr} {s t : State}

theorem all_inRange {lo hi : Nat} {ns : List Nat} : ns.all (inRange lo hi) = true ↔ ∀ n ∈ ns, lo ≤ n ∧ n ≤ hi := by
  simp only [List.all_eq_true, inRange_iff]

theorem all_inRange_false {lo hi : Nat} {ns : List Nat} :
    ns.all (inRange lo hi) = false ↔ ∃ n ∈ ns, n < lo ∨ hi < n := by
  rw [← Bool.not_eq_true, all_inRange]
  simp only [not_forall, not_and_or, not_le, exists_prop]

theorem optInRange_of {lo hi : Nat} {b : Option Nat} (h : b = none ∨ ∃ n, b = some n ∧ lo ≤ n ∧ n ≤ hi) :
    optInRange lo hi b = true := by
  refine optInRange_iff.2 fun n hn => ?_
  rcases h with h | ⟨k, hk, hr⟩
  · rw [h] at hn
    cases hn
  · rw [hk] at hn
    cases hn
    exact hr

/-! ### Plain settings -/

theorem setCommonCap_map (b : Option Nat) (items vu : Nat) (s : State) :
    (match b with
      | none => { s with chutes := s.chutes.map (fun c : Chute => { c with capItems := items, capVu := vu }) }
      | some n => s.updChute n (fun c => { c with capItems := items, capVu := vu })) =
    { s with chutes := s.chutes.map (fun c : Chute =>
      if b = none ∨ b = some c.bench then { c with capItems := items, capVu := vu } else c) } := by
  cases b with
  | none => simp
  | some n => simp [updChute_eq, eq_comm]

/-- R49, R173: the set of a list of numbers from 1 holds bit n - 1 for a number n of the list. -/
theorem getLsbD_setOf {w : Nat} (ns : List Nat) (v : BitVec w) (i : Nat) :
    (ns.foldl (fun v n => v ||| BitVec.ofNat w (2 ^ (n - 1))) v).getLsbD i = true ↔
      v.getLsbD i = true ∨ ∃ n ∈ ns, i < w ∧ n - 1 = i := by
  induction ns generalizing v with
  | nil => simp
  | cons n ns ih =>
    rw [List.foldl_cons, ih]
    simp only [BitVec.getLsbD_or, BitVec.getLsbD_ofNat, Nat.testBit_two_pow, Bool.or_eq_true, Bool.and_eq_true,
      decide_eq_true_eq, List.mem_cons, exists_eq_or_imp, or_assoc]

theorem benchIn_benchSetOf {v : List Nat} (h : ∀ b ∈ v, 1 ≤ b ∧ b ≤ 12) (b : Nat) :
    benchIn (benchSetOf v) b = decide (b ∈ v) := by
  rw [Bool.eq_iff_iff, benchIn, benchSetOf, Bool.and_eq_true, getLsbD_setOf, decide_eq_true_eq, decide_eq_true_eq]
  constructor
  · rintro ⟨h1, h0 | ⟨n, hn, -, he⟩⟩
    · simp at h0
    · have := h n hn
      rwa [show b = n by omega]
  · intro hb
    have := h b hb
    exact ⟨this.1, .inr ⟨b, hb, by omega, rfl⟩⟩

theorem kindIn_kindSetOf {codes : List Nat} (h : ∀ k ∈ codes, 1 ≤ k ∧ k ≤ 17) (k : FaultKind) :
    kindIn (kindSetOf codes) k = decide (k.code ∈ codes) := by
  have hk := kindCode_range k
  rw [Bool.eq_iff_iff, kindIn, kindSetOf, getLsbD_setOf, decide_eq_true_eq]
  constructor
  · rintro (h0 | ⟨n, hn, -, he⟩)
    · simp at h0
    · have := h n hn
      rwa [show k.code = n by omega]
  · exact fun hc => .inr ⟨k.code, hc, by omega, rfl⟩

/-- Settles O35: each setting by its range and its owner. -/
theorem plainSettingsAreReplaced : Obligations.PlainSettingsAreReplaced := by
  refine fun s rq => ⟨fun items vu ht => ?pool, fun b items vu ht => ?cap, fun lane v ht => ?lane,
    fun d m p r ht => ?timers, fun g n skus ht => ?group, fun ht => taken_next ht rfl rfl⟩
  case pool =>
    have range (hi : items ≤ 64) (hv : vu ≤ 3200) : (inRange 0 64 items && inRange 0 3200 vu) = true := by
      simp [inRange, hi, hv]
    have used : (s.chutes.any (fun c => c.heldItems != 0 || c.heldVu != 0)) = true ↔
        ∃ c ∈ s.chutes, c.heldItems ≠ 0 ∨ c.heldVu ≠ 0 := by simp
    refine ⟨fun hi hv h1 h2 => taken_next ht (range hi hv) (if_pos ⟨h1, h2⟩), fun hi hv hne hfree => ?_,
      fun hi hv hne huse => ?_, fun hbad => taken_bad ht ?_⟩
    · refine taken_next ht (range hi hv) ((if_neg (by omega)).trans (if_neg ?_))
      rw [used]
      rintro ⟨c, hc, h⟩
      have := hfree c hc
      omega
    · exact taken_next ht (range hi hv) ((if_neg (by omega)).trans (if_pos (used.2 huse)))
    · rw [Bool.and_eq_false_iff, inRange_false, inRange_false]
      omega
  case cap =>
    refine ⟨fun hb hi hv => taken_next ht ?_ ?_, fun hbad => taken_bad ht ?_⟩
    · simp [optInRange_of hb, inRange, hi, hv]
    · exact congrArg (Prod.mk _) (setCommonCap_map b items vu s)
    · rw [Bool.and_eq_false_iff, Bool.and_eq_false_iff, optInRange_false, inRange_false, inRange_false]
      rcases hbad with ⟨n, hn, h⟩ | h | h
      · exact .inl (.inl ⟨n, hn, by omega⟩)
      · exact .inl (.inr (by omega))
      · exact .inr (by omega)
  case lane =>
    refine ⟨fun h1 h6 hv => ⟨taken_next ht ?_ ?_, benchIn_benchSetOf hv⟩, fun hbad => taken_bad ht ?_⟩
    · rw [Bool.and_eq_true, inRange_iff, all_inRange]
      exact ⟨⟨h1, h6⟩, hv⟩
    · exact congrArg (Prod.mk _) (updLane_eq s lane _)
    · rw [Bool.and_eq_false_iff, inRange_false, all_inRange_false]
      rcases hbad with h | h | ⟨b, hb, h⟩
      · exact .inl (by omega)
      · exact .inl (by omega)
      · exact .inr ⟨b, hb, by omega⟩
  case timers =>
    refine ⟨fun hd hm hp hr => taken_next ht ?_ rfl, fun hbad => taken_bad ht ?_⟩
    · simp only [Bool.and_eq_true, optInRange_iff]
      exact ⟨⟨⟨hd, hm⟩, hp⟩, hr⟩
    · simpa only [Bool.and_eq_false_iff, optInRange_false, or_assoc] using hbad
  case group =>
    have fits (hn : n = skus.length) : rq.lengthOk = true → (rq.lengthOk && skus.length == n) = true := by
      simp [hn]
    have range (hn : n = skus.length) (h1 : 1 ≤ g) (h31 : g ≤ 31) (h6 : skus.length ≤ 6)
        (hk : ∀ k ∈ skus, 1 ≤ k ∧ k ≤ 16777214) :
        (inRange 1 31 g && inRange 0 6 n && skus.all (inRange 1 maxSku)) = true := by
      simp only [Bool.and_eq_true, inRange_iff, all_inRange]
      exact ⟨⟨⟨h1, h31⟩, by omega⟩, hk⟩
    refine ⟨fun hn h1 h31 h6 hk hd => taken_next ht (range hn h1 h31 h6 hk) ?_ (hl := fits hn),
      fun hn h1 h31 h6 hk hd => taken_next ht (range hn h1 h31 h6 hk) (if_pos ?_) (hl := fits hn),
      fun hn hbad => taken_bad ht ?_ (fits hn), fun hn => taken_len ht ?_⟩
    · rw [if_neg (by simp [(distinct_iff skus).2 hd]), amend_eq]
      rfl
    · simpa [distinct_iff, ← Bool.not_eq_true] using hd
    · rw [Bool.and_eq_false_iff, Bool.and_eq_false_iff, inRange_false, inRange_false, all_inRange_false]
      rcases hbad with h | h | h | ⟨k, hk, h⟩
      · exact .inl (.inl (by omega))
      · exact .inl (.inl (by omega))
      · exact .inl (.inr (by omega))
      · exact .inr ⟨k, hk, by rw [maxSku]; omega⟩
    · simp [Ne.symm hn]


/-! ### The Fault Monitor -/

/-- R172: the entries of a kind code carried once, applied. -/
theorem mapped_map {es : List MapField} (h : (es.map (·.code)).Nodup) (m : FaultMonitor) :
    (es.foldl FaultMonitor.mapped m).map = m.map.map (fun e : MapEntry =>
      ((es.find? (fun f => f.code == e.kind.code)).map
        (fun f => { e with enabled := f.enable, severity := f.severity })).getD e) := by
  induction es generalizing m with
  | nil => simp
  | cons f es ih =>
    rw [List.map_cons, List.nodup_cons] at h
    rw [List.foldl_cons, ih h.2, FaultMonitor.mapped, List.map_map]
    refine List.map_congr_left fun e _ => ?_
    simp only [Function.comp, List.find?_cons]
    by_cases hf : f.code = e.kind.code
    · have hnone : es.find? (fun g => g.code == e.kind.code) = none := by
        refine List.find?_eq_none.2 fun g hg hc => h.1 ?_
        rw [hf, ← beq_iff_eq.1 hc]
        exact List.mem_map_of_mem hg
      simp [hf, hnone]
    · have hne : (e.kind.code == f.code) = false := beq_false_of_ne (Ne.symm hf)
      simp [hne, beq_false_of_ne hf]

/-- R172: what an accepted Set Fault Map leaves in the monitor. -/
theorem faultMap_eq {es : List MapField} (h : (es.map (·.code)).Nodup) (a0 a1 a2 : Option FaultAction)
    (m : FaultMonitor) : (es.foldl FaultMonitor.mapped m).withActions a0 a1 a2 = { m with
      map := m.map.map (fun e : MapEntry => ((es.find? (fun f => f.code == e.kind.code)).map
        (fun f => { e with enabled := f.enable, severity := f.severity })).getD e)
      severities := m.severities.map (fun v : Severity => { v with action := (actionFor a0 a1 a2 v.number).getD v.action }) } := by
  obtain ⟨-, hs, hc, hn⟩ := mapped_foldl es m
  simp only [FaultMonitor.withActions, mapped_map h, hs, hc, hn]

theorem namedOrAll_iff {n : Option Nat} {k : Nat} : namedOrAll n k = true ↔ n = none ∨ n = some k := by
  cases n with
  | none => simp [namedOrAll]
  | some m => simpa [namedOrAll] using eq_comm

/-- Settles O36: each request by its range, the codes that name one kind twice, and its owner. -/
theorem monitorRequestsTakeEffect : Obligations.MonitorRequestsTakeEffect := by
  refine fun s rq => ⟨fun es a0 a1 a2 ht hvalue h17 hes => ?map, fun n es a0 a1 a2 ht => ?mapBad,
    fun n codes ht => ?select, fun n ht => ?records, fun n ht => ?counter⟩
  case map =>
    have hv : (rq.valueOk && inRange 0 17 es.length && es.all State.mapFieldOk) = true := by
      simp only [Bool.and_eq_true, inRange_iff, List.all_eq_true, State.mapFieldOk]
      exact ⟨⟨hvalue, Nat.zero_le _, h17⟩, fun f hf => ⟨⟨(hes f hf).1, (hes f hf).2.1⟩, Nat.zero_le _, (hes f hf).2.2⟩⟩
    refine ⟨fun hd => taken_next ht hv ?_ (hl := by simp), fun hd => taken_next ht hv (if_pos ?_) (hl := by simp)⟩
    · have hact (k : Nat) : actionFor a0 a1 a2 k = if k = 0 then a0 else if k = 1 then a1 else if k = 2 then a2 else none := by
        rcases k with _ | _ | _ | k <;> rfl
      rw [if_neg (by simp [(distinct_iff _).2 hd]), faultMap_eq hd]
      simp only [hact]
      rfl
    · simpa [distinct_iff, ← Bool.not_eq_true] using hd
  case mapBad =>
    refine ⟨fun hn => taken_len ht (by simp [Ne.symm hn]), fun hn hbad => taken_bad ht ?_ (by simp [hn])⟩
    rw [Bool.and_eq_false_iff, Bool.and_eq_false_iff, inRange_false]
    rcases hbad with h | h | ⟨f, hf, h⟩
    · exact .inl (.inl h)
    · exact .inl (.inr (.inr h))
    · refine .inr (List.all_eq_false.2 ⟨f, hf, ?_⟩)
      rw [Bool.not_eq_true, State.mapFieldOk, Bool.and_eq_false_iff, inRange_false, inRange_false]
      omega
  case select =>
    have range (h1 : 1 ≤ n) (h2 : n ≤ 2) (hk : ∀ k ∈ codes, 1 ≤ k ∧ k ≤ 17) :
        (inRange 1 2 n && codes.all (inRange 1 17)) = true := by
      rw [Bool.and_eq_true, inRange_iff, all_inRange]
      exact ⟨⟨h1, h2⟩, hk⟩
    refine ⟨fun c hc h1 h2 hk hd => ⟨taken_next ht (range h1 h2 hk) ?_, kindIn_kindSetOf hk⟩,
      fun h1 h2 hk hd => taken_next ht (range h1 h2 hk) (if_pos ?_), fun hbad => taken_bad ht ?_⟩
    · rw [if_neg (by simp [(distinct_iff codes).2 hd]), hc, State.updCounter, amend_eq]
      rfl
    · simpa [distinct_iff, ← Bool.not_eq_true] using hd
    · rw [Bool.and_eq_false_iff, inRange_false, all_inRange_false]
      rcases hbad with h | h | ⟨k, hk, h⟩
      · exact .inl (by omega)
      · exact .inl (by omega)
      · exact .inr ⟨k, hk, by omega⟩
  case records =>
    refine ⟨fun h => taken_next ht (optInRange_of (h.imp_right fun ⟨k, hk, hle⟩ => ⟨k, hk, Nat.zero_le k, hle⟩)) ?_,
      fun k hk h => taken_bad ht (optInRange_false.2 ⟨k, hk, .inr h⟩)⟩
    simp only [namedOrAll_iff]
    rfl
  case counter =>
    refine ⟨fun c hc h1 h2 => taken_next ht (inRange_iff.2 ⟨h1, h2⟩) ?_, fun h => taken_bad ht (inRange_false.2 (by omega))⟩
    rw [hc, State.updCounter, amend_eq]
    rfl

/-! ### The notices -/

theorem flagsOk_iff (v : BitVec 16) : flagsOk v = true ↔ v.toNat < 2048 := by
  simp [flagsOk]

/-- Settles O37: the eleven flags of a set, and what each request does with it. -/
theorem noticeRequestsTakeEffect : Obligations.NoticeRequestsTakeEffect := by
  have bad {v : BitVec 16} (h : 2048 ≤ v.toNat) : flagsOk v = false :=
    Bool.eq_false_iff.2 fun hok => absurd ((flagsOk_iff v).1 hok) (by omega)
  refine fun s rq => ⟨fun v ht => ⟨fun h => taken_next ht ((flagsOk_iff v).2 h) rfl, fun h => taken_bad ht (bad h)⟩,
    fun p ht => ⟨fun h => taken_next ht h rfl, fun h => taken_bad ht h⟩, fun v ht => ⟨fun h => ?_, fun h => taken_bad ht (bad h)⟩⟩
  have hflag (f : NoticeFlag) : flagIn (flagSetOf v) f = v.getLsbD f.number := by
    simp [flagIn, flagSetOf, flagNumber_lt]
  refine ⟨_, taken_next ht ((flagsOk_iff v).2 h) rfl, fun f => ?_, ?_, rfl⟩
  · rw [← hflag]
    simp [Notices.acknowledged, flagIn, flagNumber_lt]
  · show (s.notices.mark && !flagIn (flagSetOf v) .faultNotice) = _
    rw [hflag]
    rfl


/-! ### Settings that binding or admission follows -/

theorem chuteHeld_iff (b : Nat) : s.chuteHeld b = true ↔ ∃ i ∈ s.items, i.hold = .chute b ∨ i.hold = .both b := by
  have hold (h : Hold) : State.holdAtChute h b = true ↔ h = .chute b ∨ h = .both b := by
    cases h <;> simp [State.holdAtChute]
  simp only [State.chuteHeld, List.any_eq_true, hold]

/-- Settles O40: the ranges, the reserve in use, and the passes that follow. -/
theorem benchSettingsThenBinding : Obligations.BenchSettingsThenBinding := by
  refine fun s rq => ⟨fun n p ht h1 h8 hp => ?template, fun n p ht hbad => ?templateBad, fun p => ?plan,
    fun b ch hv lg it vu c ht hvalue h1 h12 hlg hit hvu hc => ?profile, fun b ch hv lg it vu ht hbad => ?profileBad,
    fun n ht h3 => ?floor, fun n ht h3 => taken_bad ht (inRange_false.2 (.inr h3))⟩
  case template =>
    refine taken_reply ht ?_ ?_ (r := bare .ok)
    · rw [Bool.and_eq_true, inRange_iff]
      exact ⟨⟨h1, h8⟩, hp⟩
    · rw [State.defineTemplate, amend_eq]
  case templateBad =>
    refine taken_bad ht ?_
    rw [Bool.and_eq_false_iff, inRange_false]
    exact hbad.elim (fun h => .inl (by omega)) fun h => h.imp (fun h => .inr h) id
  case plan =>
    simp only [planOk, Bool.and_eq_true, inRange_iff, Nat.zero_le, true_and, List.forall_mem_cons, List.not_mem_nil,
      false_implies, implies_true, and_true]
    omega
  case profile =>
    have hrange : (rq.valueOk && inRange 1 12 b && optInRange 1 4 lg && optInRange 0 8 it && optInRange 0 400 vu) = true := by
      simp only [Bool.and_eq_true, inRange_iff, optInRange_iff]
      exact ⟨⟨⟨⟨hvalue, h1, h12⟩, hlg⟩, fun n hn => ⟨Nat.zero_le n, hit n hn⟩⟩, fun n hn => ⟨Nat.zero_le n, hvu n hn⟩⟩
    have changes : s.reserveChanges b it vu = true ↔
        it.getD c.reserveItems ≠ c.reserveItems ∨ vu.getD c.reserveVu ≠ c.reserveVu := by
      simp [State.reserveChanges, hc]
    refine ⟨fun hch hheld => taken_next ht hrange (if_pos ?_),
      fun hch hheld => taken_reply ht hrange ((if_neg ?_).trans ?_) (r := bare .ok),
      fun hch => taken_reply ht hrange ((if_neg ?_).trans ?_) (r := bare .ok)⟩
    · rw [Bool.and_eq_true, changes, chuteHeld_iff]
      exact ⟨hch, hheld⟩
    · rw [Bool.and_eq_true, chuteHeld_iff]
      exact fun h => hheld h.2
    · rw [State.profileBench, if_pos (changes.2 hch), updBench_eq, updChute_eq]
      rfl
    · rw [Bool.and_eq_true, changes]
      exact fun h => hch h.1
    · rw [State.profileBench, if_neg (mt changes.1 hch), updBench_eq]
      rfl
  case profileBad =>
    refine taken_bad ht ?_
    simp only [Bool.and_eq_false_iff, inRange_false, optInRange_false, or_assoc]
    rcases hbad with h | h | h | h | ⟨n, hn, h⟩ | ⟨n, hn, h⟩
    · exact .inl h
    · exact .inr (.inl (by omega))
    · exact .inr (.inr (.inl h))
    · exact .inr (.inr (.inr (.inl h)))
    · exact .inr (.inr (.inr (.inr (.inl ⟨n, hn, .inr h⟩))))
    · exact .inr (.inr (.inr (.inr (.inr ⟨n, hn, .inr h⟩))))
  case floor =>
    have hrange : inRange 0 3 n = true := inRange_iff.2 ⟨Nat.zero_le n, h3⟩
    refine ⟨fun hle => taken_next ht hrange ?_, fun hlt => taken_reply ht hrange ?_ (r := okWith (.rushFloor s.rushFloor))⟩
    · exact congrArg (Prod.mk _) (if_neg (by omega))
    · exact congrArg (Prod.mk _) (if_pos hlt)

/-- Settles O41: the schedule and the loop, then admission. -/
theorem loopSettingsThenAdmission : Obligations.LoopSettingsThenAdmission := by
  refine fun s rq => ⟨fun es ht => ⟨fun hlen hes => ?_, fun hlen => ?_, fun hlen hes => ?_⟩,
    fun c l ht => ⟨fun hfits hfree => ?_, fun hfits hc hocc => ?_, fun hfits => ?_⟩⟩
  · exact taken_reply ht (all_inRange.2 fun e he => ⟨Nat.zero_le e, hes e he⟩) rfl (by simp [hlen]) (r := bare .ok)
  · exact taken_len ht (by simp [hlen])
  · obtain ⟨e, he, h6⟩ := hes
    exact taken_bad ht (all_inRange_false.2 ⟨e, he, .inr h6⟩) (by simp [hlen])
  all_goals
    have hrange : (optInRange 1 32 c && optInRange 1 15 l) = true ↔
        (∀ n, c = some n → 1 ≤ n ∧ n ≤ 32) ∧ ∀ n, l = some n → 1 ≤ n ∧ n ≤ 15 := by
      rw [Bool.and_eq_true, optInRange_iff, optInRange_iff]
  · refine taken_reply ht (hrange.2 hfits) (if_neg ?_) (r := bare .ok)
    rcases hfree with h | h <;> simp [h]
  · refine taken_next ht (hrange.2 hfits) (if_pos ?_)
    simp [Option.isSome_iff_ne_none, hc, hocc]
  · exact taken_bad ht (Bool.eq_false_iff.2 (mt hrange.1 hfits))

end Sys2Proof.Machine
end

section
/-! SUPPORT. The checks of a request (R13, R189), and the requests that read (R4, R23, R36, R106, R133, R173, R174, R181, R186, R187, R193). -/

namespace Sys2Proof.Machine

open Sys2Proof

variable {c : Instr} {s t : State}

/-! ### Every request -/

/-- R179, R180, R189: what a reply BAD_LENGTH carries. -/
def badLengthBody (s : State) : Instr → ReplyBody
  | .commitSetup _ => s.setupView
  | .startCell _ | .pauseCell _ | .stopCell _ | .clearHalt _ => .cellState s.cell.state
  | _ => .none

/-- R189: every request is handed to an owner that refuses a body of the wrong length. -/
theorem exec_request {rq : ReqHead} {kind : Byte} (hc : requestOf c = some (rq, kind)) (s : State) :
    ∃ owner : State → Reply × State, exec c s = request c rq kind owner s ∧
      (rq.lengthOk = false → owner s = (⟨.badLength, badLengthBody s c⟩, s)) := by
  cases c <;> cases hc
  case commitSetup => exact ⟨_, rfl, fun hl => by simp [State.commitSetup, hl, badLengthBody]⟩
  case loadOrder => exact ⟨_, rfl, fun hl => by unfold State.loadOrder; exact checked_len hl⟩
  case startCell | pauseCell | stopCell | clearHalt =>
    exact ⟨_, rfl, fun hl => by simp [State.cellCommand, hl, badLengthBody]⟩
  all_goals exact ⟨_, rfl, fun hl => checked_len (by simp [hl])⟩

/-- R13: the answer to a request on an order in a state in which it is not allowed. -/
def refusedReply (o : Order) (s : State) : Reply × State := (⟨.wrongState, .slot o.slot⟩, s)

theorem holdOrder_refused {o : Order} (s : State) (h : openOrder o.state = false) : State.holdOrder o s = refusedReply o s := by
  cases hs : o.state <;> simp_all [State.holdOrder, openOrder, refusedReply, State.refusedWith, orderReply]

theorem resumeOrder_refused {o : Order} (s : State) (h : openOrder o.state = false) : State.resumeOrder o s = refusedReply o s := by
  cases hs : o.state <;> simp_all [State.resumeOrder, openOrder, refusedReply, State.refusedWith, orderReply]

theorem cancelOrder_refused {o : Order} (s : State) (h : (!(o.state == .sealed || o.state == .dispatched)) = false) :
    State.cancelOrder o s = refusedReply o s := by
  cases hs : o.state <;> simp_all [State.cancelOrder, refusedReply, State.refusedWith, orderReply]

/-- R13: an order request passes the checks of an order request, its state judged by the check or by its owner. -/
theorem exec_orderRequest {rq : ReqHead} {kind : Byte} {v : Bool} {ref : Nat} {allowed : OrderState → Bool}
    (hc : requestOf c = some (rq, kind)) (ho : orderRequestOf c = some (v, ref, allowed)) (s : State) :
    ∃ (checks : OrderState → Bool) (owner : Order → State → Reply × State),
      exec c s = request c rq kind (orderRequest rq v ref checks owner) s ∧
      ∀ o : Order, allowed o.state = false → checks o.state = false ∨ owner o s = refusedReply o s := by
  cases c <;> cases ho <;> cases hc
  case holdOrder =>
    exact ⟨anyOrder, _, rfl, fun o h => .inr (holdOrder_refused s h)⟩
  case resumeOrder =>
    exact ⟨anyOrder, _, rfl, fun o h => .inr (resumeOrder_refused s h)⟩
  case cancelOrder =>
    exact ⟨anyOrder, _, rfl, fun o h => .inr (cancelOrder_refused s h)⟩
  all_goals exact ⟨_, _, rfl, fun o h => .inl h⟩

/-- Settles O31: the length first, then the checks of an order request in their order. -/
theorem requestsAreCheckedInOrder : Obligations.RequestsAreCheckedInOrder := by
  refine fun c rq kind s hc => ⟨fun hturn hlen => ?length, fun hturn hfull => ?full, fun hturn hroom => ?room,
    answerBusy_link s _ _, fun v ref allowed ho ht => ⟨fun hbad => ?bad, fun hv h1 h2 hnone => ?missing,
      fun hv h1 h2 o hor hst => ?state⟩⟩
  case length =>
    obtain ⟨owner, hexec, hown⟩ := exec_request hc s
    refine (hexec.trans (request_same hturn (hown hlen))).trans ?_
    cases c <;> rfl
  case full =>
    obtain ⟨owner, hexec, -⟩ := exec_request hc s
    rw [hexec, request, hturn, if_neg Bool.false_ne_true, State.requestArrives,
      if_neg (by simpa [Config.linkRoom] using hfull)]
  case room =>
    obtain ⟨owner, hexec, -⟩ := exec_request hc s
    rw [hexec, request, hturn, if_neg Bool.false_ne_true, State.requestArrives,
      if_pos (by simpa [Config.linkRoom] using hroom)]
  all_goals
    obtain ⟨checks, owner, hexec, hrefused⟩ := exec_orderRequest hc ho s
    rw [hexec]
  case bad =>
    refine taken_bad ht ?_ (hc := hc)
    rw [Bool.and_eq_false_iff, inRange_false, maxRef]
    exact hbad.imp_right fun h => by omega
  case missing =>
    have hrange : (v && inRange 1 maxRef ref) = true := by simp [hv, inRange, maxRef, h1, h2]
    have hno : s.orderOf? ref = none := List.find?_eq_none.2 fun o ho => by simpa using hnone o ho
    refine taken_next ht hrange ?_ (hc := hc)
    rw [hno]
    rfl
  case state =>
    have hrange : (v && inRange 1 maxRef ref) = true := by simp [hv, inRange, maxRef, h1, h2]
    refine taken_next ht hrange ?_ (hc := hc)
    rw [hor]
    dsimp only
    rcases hrefused o hst with h | h
    · rw [h, if_neg Bool.false_ne_true]
      rfl
    · rw [h]
      exact ite_self _


/-! ### Requests that read -/

theorem filter_named {α : Type} {key : α → Nat} {n : Nat} {xs : List α} :
    xs.filter (fun x => namedOrAll (some n) (key x)) = xs.filter (fun x => key x == n) := rfl

theorem countsAsRef_iff (w : Nat) (o : Order) : State.countsAsRef w o =
    decide (o.wave = w ∧ o.state ≠ .dispatched ∧ o.state ≠ .cancelled) :=
  eq_decide_of_iff (by simp [State.countsAsRef, and_assoc])

theorem countsAsUnsealed_iff (w : Nat) (o : Order) : State.countsAsUnsealed w o = decide (o.wave = w ∧
    (o.state = .loaded ∨ o.state = .building ∨ o.state = .held ∨ o.state = .complete)) :=
  eq_decide_of_iff (by simp [State.countsAsUnsealed, or_assoc])

theorem listed_iff (states : List OrderState) (overdue late : Bool) (o : Order) : State.listed states overdue late o =
    decide ((states = [] ∨ o.state ∈ states) ∧ (overdue = true → o.overdue = true) ∧ (late = true → o.late = true)) := by
  refine eq_decide_of_iff ?_
  cases overdue <;> cases late <;> simp [State.listed, and_assoc]

theorem waveView_eq (s : State) (w : Wave) : s.waveView w = if w.state = .unused then ⟨w, 0, 0⟩ else
    ⟨w, s.book.orders.countP (fun o => decide (o.wave = w.number ∧ o.state ≠ .dispatched ∧ o.state ≠ .cancelled)),
      s.book.orders.countP (fun o => decide (o.wave = w.number ∧ (o.state = .loaded ∨ o.state = .building ∨
        o.state = .held ∨ o.state = .complete)))⟩ := by
  simp only [State.waveView, State.waveRefs, State.waveUnsealed, ← countsAsRef_iff, ← countsAsUnsealed_iff]

/-- Settles O32: each reading by its owner, which leaves the state. -/
theorem cellAndOrderReadingsAnswer : Obligations.CellAndOrderReadingsAnswer := by
  refine fun s rq => ⟨fun ht => taken_next ht rfl rfl, fun ht => ?status, fun ht => taken_next ht rfl rfl,
    ⟨fun ht => ?waves, fun n w ht h1 h8 hw => ?wave, fun n ht hbad => taken_bad ht (optInRange_false.2 ⟨n, rfl, by omega⟩)⟩,
    fun ref o hn => ?order, fun states overdue late ht hv => ?list, fun states overdue late ht hv => taken_bad ht hv⟩
  case status =>
    refine taken_next ht rfl (congrArg (fun v => (okWith (.cellStatus v), s)) ?_)
    have hout (x : Bench) : x.instructionOut = true ↔ x.state = .fitting ∨ x.state = .sealing ∨ x.state = .releasing ∨
        (x.state = .building ∧ x.hamper.map (·.pocket) = some .requested) ∨ (x.state = .unpacking ∧ x.unpacked = false) := by
      rw [instructionOut_iff]
      simp only [Option.map_eq_some_iff]
    have hquiet : s.quiet = decide ((∀ i ∈ s.items, i.location ≠ .onLoop) ∧ s.arbiter.releases = [] ∧
        (∀ i ∈ s.items, i.outstanding = .none) ∧ ∀ x ∈ s.benches, ¬(x.state = .fitting ∨ x.state = .sealing ∨
          x.state = .releasing ∨ (x.state = .building ∧ x.hamper.map (·.pocket) = some .requested) ∨
          (x.state = .unpacking ∧ x.unpacked = false))) :=
      eq_decide_of_iff (by simp only [quiet_iff, ← hout, Bool.not_eq_true])
    have hcount : s.benches.countP Bench.instructionOut = s.benches.countP (fun x => decide (x.state = .fitting ∨
        x.state = .sealing ∨ x.state = .releasing ∨ (x.state = .building ∧ x.hamper.map (·.pocket) = some .requested) ∨
        (x.state = .unpacking ∧ x.unpacked = false))) :=
      congrArg (List.countP · s.benches) (funext fun x => eq_decide_of_iff (hout x))
    rw [State.cellView, State.outstandingCount, hquiet, hcount]
    rfl
  case waves =>
    refine taken_next ht rfl ?_
    rfl
  case wave =>
    refine taken_next ht (optInRange_iff.2 fun k hk => by cases hk; exact ⟨h1, h8⟩) ?_
    simp only [hw, List.map_cons, List.map_nil, waveView_eq]
    rfl
  case order =>
    obtain ⟨hturn, hl⟩ := (takes_iff rfl).1 hn.1
    exact request_same hturn (orderRequest_owner hn rfl rfl rfl)
  case list =>
    refine taken_next ht hv ?_
    simp only [← listed_iff]
    rfl


theorem filter_all {α : Type} (key : α → Nat) (xs : List α) : xs.filter (fun x => namedOrAll none (key x)) = xs := by
  simp [namedOrAll]

theorem namedOrAll_eq (b : Option Nat) (n : Nat) : namedOrAll b n = decide (b = none ∨ b = some n) :=
  eq_decide_of_iff namedOrAll_iff

/-- R69, R133: the view of one bench. -/
theorem benchView_eq (s : State) (x : Bench) : s.benchView x = match x.hamper with
    | none => ⟨x, [], []⟩
    | some h => ⟨x,
        [1, 1 + h.base.slots.length, 1 + h.base.slots.length + h.middle.slots.length,
          1 + h.base.slots.length + h.middle.slots.length + h.top.slots.length],
        h.places.map (fun e => ⟨e.tag, (s.item? e.tag).bind (fun i => i.outstanding.placeMinute), e.timedOut⟩)⟩ := by
  unfold State.benchView
  cases x.hamper with
  | none => rfl
  | some h => rfl

/-- Settles O34: each reading by its owner, which leaves the state. -/
theorem statusReadingsAnswer : Obligations.StatusReadingsAnswer := by
  refine fun s rq => ⟨⟨fun ht => ?benches, fun b x ht h1 h12 hx => ?bench,
    fun b ht hbad => taken_bad ht (optInRange_false.2 ⟨b, rfl, by omega⟩)⟩,
    ⟨fun b ht hb => ?staging, fun b ht hbad => taken_bad ht (optInRange_false.2 ⟨b, rfl, by omega⟩)⟩,
    ⟨fun n ht hn => ?records, fun k ht hk => taken_bad ht (optInRange_false.2 ⟨k, rfl, .inr hk⟩)⟩,
    fun ht => taken_next ht rfl rfl, fun ht => taken_next ht rfl rfl⟩
  case benches =>
    refine taken_next ht rfl ?_
    rw [filter_all]
    rfl
  case bench =>
    refine taken_next ht (optInRange_iff.2 fun k hk => by cases hk; exact ⟨h1, h12⟩) ?_
    rw [filter_named, hx, List.map_cons, List.map_nil, benchView_eq]
    cases x.hamper <;> rfl
  case staging =>
    refine taken_next ht (optInRange_of hb) ?_
    simp only [State.stagingView, namedOrAll_eq]
    rfl
  case records =>
    refine taken_next ht (optInRange_of (hn.imp_right fun ⟨k, hk, hle⟩ => ⟨k, hk, Nat.zero_le k, hle⟩)) ?_
    simp only [namedOrAll_eq]
    rfl

/-! ### Dispatch lanes -/

/-- A table of numbered entries has one of each number. -/
theorem look_of_keys {α : Type} {key : α → Nat} {n k : Nat} {xs : List α} (h : xs.map key = upTo k) (h1 : 1 ≤ n)
    (hk : n ≤ k) : ∃ x, look key n xs = some x := by
  have hmem : n ∈ xs.map key := by
    rw [h, upTo, List.mem_map]
    exact ⟨n - 1, List.mem_range.2 (by omega), by omega⟩
  obtain ⟨x, hx, hn⟩ := List.mem_map.1 hmem
  rw [look, ← Option.isSome_iff_exists, List.find?_isSome]
  exact ⟨x, hx, by simpa using hn⟩

theorem room_false_iff (d : DispatchLane) : d.room = false ↔ d.capacity ≤ d.count + d.inFlight := by
  simp [DispatchLane.room]

/-- R156: the full flag of a lane, set while the lane has no room. -/
theorem judgeFull_set (s : State) (n : Nat) : s.updDispatch n (fun d => { d with full := !d.room }) =
    { s with dispatch := s.dispatch.map (fun c : DispatchLane => if c.number = n then
      { c with full := decide (c.capacity ≤ c.count + c.inFlight) } else c) } := by
  have hfull (d : DispatchLane) : (!d.room) = decide (d.capacity ≤ d.count + d.inFlight) :=
    eq_decide_of_iff (by rw [Bool.not_eq_true', room_false_iff])
  rw [updDispatch_eq]
  simp only [hfull]

/-- Settles O42: the full flag judged, then the requests that judge it. -/
theorem dispatchRequestsJudgeAndServe : Obligations.DispatchRequestsJudgeAndServe := by
  refine ⟨fun s n release => ⟨fun hnone => ?_, fun d hd => ⟨fun hclear hfull => ?_, fun hfull => ?_⟩⟩,
    fun s rq hi => ⟨fun n c m ht h1 h4 hc hm => ?_, fun n c m ht hbad => ?_, fun n d ht h1 h4 hd => ?_,
      fun n ht hbad => taken_bad ht (inRange_false.2 (by omega))⟩⟩
  · rw [State.judgeFull, hnone]
  · have hroom := (room_false_iff d).2 hfull
    simp only [State.judgeFull, hd, hclear, hroom, judgeFull_set, Bool.not_false, Bool.and_self, if_true]
    rfl
  · have hcond : (!d.full && !d.room) = false := by
      rcases hfull with h | h
      · rw [h]
        rfl
      · have : d.room = true := by
          rw [← Bool.not_eq_false, room_false_iff]
          omega
        rw [this, Bool.not_true, Bool.and_false]
    simp only [State.judgeFull, hd, hcond, judgeFull_set, Bool.false_eq_true, if_false]
  · let set : DispatchLane → DispatchLane := fun d =>
      { d with capacity := c.getD d.capacity, matchCount := m.getD d.matchCount }
    have hset : (s.updDispatch n set).Inv := { hi with dispatchKeys := keys_of_amend hi.dispatchKeys }
    have hinv := ((judgeFull_work n none _).trans (serveLane_work n _)).inv hset
    have hrange : (inRange 1 4 n && optInRange 1 40 c && optInRange 0 40 m) = true := by
      simp only [Bool.and_eq_true, inRange_iff, optInRange_iff]
      exact ⟨⟨⟨h1, h4⟩, hc⟩, fun k hk => ⟨Nat.zero_le k, hm k hk⟩⟩
    obtain ⟨d, hd⟩ := look_of_keys hinv.dispatchKeys h1 h4
    rw [updDispatch_eq] at hd
    refine ⟨d, hd, taken_reply ht hrange ?_ (r := okWith (.dispatchLane d))⟩
    dsimp only
    rw [updDispatch_eq, show State.dispatchLane? _ n = some d from hd]
  · refine taken_bad ht ?_
    simp only [Bool.and_eq_false_iff, inRange_false, optInRange_false, or_assoc]
    rcases hbad with h | h | h | ⟨k, hk, h⟩
    · exact .inl (by omega)
    · exact .inr (.inl h)
    · exact .inr (.inr (.inl h))
    · exact .inr (.inr (.inr ⟨k, hk, .inr h⟩))
  · refine taken_reply ht (inRange_iff.2 ⟨h1, h4⟩) ?_ (r := okWith (.cageCount d.count))
    rw [hd, State.swapCage, updDispatch_eq]
    rfl

end Sys2Proof.Machine
end

section
/-! SUPPORT. The host link: frames, the receive queue, the transmitter (R188, R189, R191, R194). -/

namespace Sys2Proof.Machine

open Sys2Proof

variable {c : Instr} {s t : State}

/-! ### Whole frames (R188, R190) -/

/-- A whole frame ends by the check value that it carries. -/
theorem frameEnd_covered (counted crc : List Byte) :
    frameEnd (leBytes 2 counted.length ++ counted ++ crc) counted.length =
      if crcBytes (leBytes 2 counted.length ++ counted) = crc then .good counted else .badCrc := by
  have hlen : (leBytes 2 counted.length ++ counted).length = counted.length + 2 := by
    rw [List.length_append, leBytes_length, Nat.add_comm]
  rw [frameEnd, List.take_left' hlen, List.drop_left' hlen, List.append_assoc, List.drop_left' (leBytes_length _ _),
    List.take_left]

theorem frame_count (counted crc : List Byte) (h : counted.length < 65536) :
    fieldAt (leBytes 2 counted.length ++ counted ++ crc) 0 2 = counted.length := by
  rw [List.append_assoc]
  exact fieldAt_head 2 _ _ h

theorem frame_length (counted crc : List Byte) (hcrc : crc.length = 2) :
    (leBytes 2 counted.length ++ counted ++ crc).length = counted.length + 4 := by
  simp only [List.length_append, leBytes_length, hcrc]
  omega

/-- R188: a whole host frame that arrives outside a frame. -/
theorem hostBytes_whole (s : State) (counted crc : List Byte) (hcrc : crc.length = 2) (h2 : 2 ≤ counted.length)
    (hmax : counted.length ≤ 1026) (h0 : s.link.rx = none) :
    State.hostBytes (0xA5 :: (leBytes 2 counted.length ++ counted ++ crc)) s =
      s.hostFrameEnds (if crcBytes (leBytes 2 counted.length ++ counted) = crc then .good counted else .badCrc) := by
  rw [← frameEnd_covered]
  exact hostBytes_frame s _ _ (frame_length counted crc hcrc) h2 hmax (frame_count counted crc (by omega)) h0

/-- R188: the bytes of a good host frame are its request. -/
theorem hostBytes_request (s : State) (tag kind : Byte) (body : List Byte) (hbody : body.length ≤ 1024)
    (h0 : s.link.rx = none) : event (State.hostBytes (hostFrameBytes tag kind body)) s =
      .next (s.requestArrives tag kind (requestOfFrame tag kind body)) := by
  have hbytes : State.hostBytes (hostFrameBytes tag kind body) s =
      s.requestArrives tag kind (requestOfFrame tag kind body) := by
    have h := hostBytes_whole s (tag :: kind :: body) (crcBytes (leBytes 2 (tag :: kind :: body).length ++ tag :: kind :: body))
      rfl (by simp) (by simp; omega) h0
    rwa [if_pos rfl] at h
  have hlink := requestArrives_link s tag kind (requestOfFrame tag kind body)
  rw [event, hbytes]
  exact congrArg Host.Outcome.next (judgeQuiet_same (congrArg State.quietParts hlink).symm
    (congrArg (fun u : State => u.cell.state) hlink).symm)

/-! ### Requests spelled by frames (R194) -/

theorem requestOfFrame_listed {tag kind : Byte} (body : List Byte) (h : kindListed kind.toNat = true) :
    ∃ rq, requestOf (requestOfFrame tag kind body) = some (rq, kind) ∧ rq.tag = tag := by
  unfold requestOfFrame
  dsimp only
  have code {k : Nat} (hk : kind.toNat = k) : BitVec.ofNat 8 k = kind := by
    rw [← hk, BitVec.ofNat_toNat, BitVec.setWidth_eq]
  split
  case h_8 hk => split <;> exact ⟨_, congrArg (fun k => some (_, k)) (code hk), rfl⟩
  case h_16 hk => split <;> exact ⟨_, congrArg (fun k => some (_, k)) (code hk), rfl⟩
  case h_52 =>
    simp only [kindListed, decide_eq_true_eq] at h
    simp only [imp_false] at *
    exfalso
    omega
  case h_41 hk => exact ⟨_, congrArg (fun k => some (_, k)) (code hk), rfl⟩
  all_goals exact ⟨_, congrArg (fun k => some (_, k)) (code ‹_›), rfl⟩

theorem requestOfFrame_unlisted {tag kind : Byte} (body : List Byte) (h : kindListed kind.toNat = false) :
    requestOfFrame tag kind body = .unknownKind tag kind := by
  have listed {k : Nat} (hk : kind.toNat = k) (hl : kindListed k = true) : False := by
    rw [hk, hl] at h
    cases h
  unfold requestOfFrame
  dsimp only
  split
  case h_52 => rfl
  all_goals exact (listed ‹_› rfl).elim

/-- R179, R180, R186, R187, R193: the requests whose body is empty. -/
theorem requestOfFrame_empty {tag kind : Byte} (body : List Byte)
    (h : kind ∈ [(0x01 : Byte), 0x02, 0x03, 0x04, 0x05, 0x06, 0x07, 0x09, 0x0A, 0x54, 0x5A]) :
    requestOf (requestOfFrame tag kind body) = some (⟨tag, decide (body = []), true⟩, kind) := by
  simp only [List.mem_cons, List.not_mem_nil, or_false] at h
  rcases h with rfl | rfl | rfl | rfl | rfl | rfl | rfl | rfl | rfl | rfl | rfl <;> rfl

/-- R197: a field of w bytes that may be absent is absent where it is all ones. -/
theorem presentIn_none {w n : Nat} : presentIn w n = none ↔ n = 256 ^ w - 1 := by
  have hpos : 1 ≤ 256 ^ w := Nat.one_le_pow _ _ (by decide)
  rw [presentIn]
  split
  · simp; omega
  · simp; omega

theorem presentIn_getD {w n : Nat} : (presentIn w n).getD (256 ^ w - 1) = n := by
  rw [presentIn]
  split
  · simp; omega
  · rfl

theorem bodyCodeOpt_none {α : Type} [Inhabited α] (kind : Byte) (body : List Byte) (k : Nat) :
    1 ≤ codeWidth kind k ∧ ((bodyCodeOpt kind body k : Option α) = none ↔
      fieldAt body (Config.fieldPlace kind body k 0) (codeWidth kind k) = 256 ^ codeWidth kind k - 1) := by
  refine ⟨Nat.le_add_right 1 _, ?_⟩
  rw [bodyCodeOpt, Option.map_eq_none_iff, presentIn_none]
  rfl

theorem bodyOpt_none (kind : Byte) (body : List Byte) {w : Nat} (k : Nat) (hw : 1 ≤ w) :
    1 ≤ w ∧ (bodyOpt kind body w k = none ↔ fieldAt body (Config.fieldPlace kind body k 0) w = 256 ^ w - 1) :=
  ⟨hw, presentIn_none⟩

theorem busyKind_cases (kind : Byte) : busyKind kind = kind ∨ busyKind kind = replyKind kind := by
  unfold busyKind
  split
  · exact .inl rfl
  · exact .inr rfl

/-! ### The receive queue -/

/-- R189: a request that finds 4 queued, by the transmitter and the BUSY replies that wait. -/
theorem answerBusy_held {tag kind : Byte} (hhold : s.link.busyHold.length < 4) (htx : s.link.tx ≠ none) :
    s.answerBusy tag kind = { s with link := { s.link with busyHold := s.link.busyHold ++ [(tag, kind)] } } := by
  simp [State.answerBusy, State.startIfFree, Config.linkRoom, hhold, htx]

theorem answerBusy_begun {tag kind : Byte} {e : Byte × Byte} {es : List (Byte × Byte)}
    (hhold : s.link.busyHold.length < 4) (htx : s.link.tx = none) (he : s.link.busyHold ++ [(tag, kind)] = e :: es) :
    s.answerBusy tag kind = { s with link := { s.link with
      busyHold := es
      tx := some (busyFrame e)
      sent := s.link.sent ++ [busyFrame e] } } := by
  simp [State.answerBusy, State.startIfFree, State.beginReply, State.beginFrame, Config.linkRoom, hhold, htx, he]

theorem answerBusy_dropped {tag kind : Byte} (hhold : 4 ≤ s.link.busyHold.length) : s.answerBusy tag kind = s :=
  if_neg (by simpa [Config.linkRoom] using hhold)

/-- Settles O23: a good frame is its request, which is queued, or answered BUSY, or dropped. -/
theorem hostFrameIsQueuedOrAnsweredBusy : Obligations.HostFrameIsQueuedOrAnsweredBusy := by
  intro s tag kind body hbody h0
  have arrives := hostBytes_request s tag kind body hbody h0
  have busy (hfull : 4 ≤ s.link.queue.length) (q : Instr) : s.requestArrives tag kind q = s.answerBusy tag kind :=
    if_neg (by simpa [Config.linkRoom] using hfull)
  refine ⟨fun hroom => ?queued, requestOfFrame_listed body, rfl, requestOfFrame_empty body, fun n hn => ?pair,
    ⟨_, _, _, _, rfl⟩,
    ⟨⟨_, _, _, _, _, _, _, _, _, _, _, _, _, _, rfl, bodyCodeOpt_none 0x31 body 3, bodyCodeOpt_none 0x31 body 4,
      bodyOpt_none 0x31 body 5 (by decide), bodyOpt_none 0x31 body 6 (by decide), bodyOpt_none 0x31 body 7 (by decide),
      presentIn_getD, presentIn_getD, presentIn_getD⟩,
      _, _, _, _, _, _, _, _, _, _, _, _, rfl, bodyCodeOpt_none 0x50 body 6, bodyCodeOpt_none 0x50 body 7,
      bodyCodeOpt_none 0x50 body 8⟩,
    rfl, rfl, rfl, requestOfFrame_unlisted body, fun hfull hhold htx => ?held, fun hfull hhold htx e es he => ?begun,
    fun hfull hhold => ?dropped, busyKind_cases kind⟩
  case queued => exact arrives.trans (congrArg Host.Outcome.next (if_pos (by simpa [Config.linkRoom] using hroom)))
  case pair =>
    subst hn
    refine ⟨rfl, rfl, rfl, fun hne => ?_⟩
    show Instr.getItem ⟨tag, decide (body = [] ∨ body.length = 2), true⟩ (if body = [] then none else _) = _
    simp only [hne, false_or, if_false]
    rfl
  case held => exact arrives.trans (congrArg Host.Outcome.next ((busy hfull _).trans (answerBusy_held hhold htx)))
  case begun => exact arrives.trans (congrArg Host.Outcome.next ((busy hfull _).trans (answerBusy_begun hhold htx he)))
  case dropped => exact arrives.trans (congrArg Host.Outcome.next ((busy hfull _).trans (answerBusy_dropped hhold)))

/-! ### Bad frames -/

/-- R188: the report of a frame that changes nothing else. -/
theorem event_report {k : FaultKind} {d : Nat} {f : State → State} (h : f s = t.raiseFault k FaultCtx.empty d)
    (hq : s.quietParts = t.quietParts := by rfl) (hc : s.cell.state = t.cell.state := by rfl) :
    event f s = .next (t.raiseFault k FaultCtx.empty d) := by
  rw [event, h, judgeQuiet_fault k _ d s t hq hc]

/-- R188, R190: a count outside its range ends the frame with its second byte. -/
theorem rxByte_badLength {low high n : Nat} (hn : n < low ∨ high < n) (h : n < 65536) :
    (leBytes 2 n) = [BitVec.ofNat 8 n, BitVec.ofNat 8 (n / 256)] ∧
    rxByte low high (some []) (BitVec.ofNat 8 n) = (some [BitVec.ofNat 8 n], none) ∧
    rxByte low high (some [BitVec.ofNat 8 n]) (BitVec.ofNat 8 (n / 256)) = (none, some .badLength) := by
  have hlen : fieldAt [BitVec.ofNat 8 n, BitVec.ofNat 8 (n / 256)] 0 2 = n := leNat_leBytes 2 n h
  refine ⟨rfl, rfl, ?_⟩
  have hbad : (decide (n < low) || decide (high < n)) = true := by simpa using hn
  simp only [rxByte, List.cons_append, List.nil_append, hlen, hbad, if_true]
  rfl

theorem hostBytes_badLength {n : Nat} (hn : n < 2 ∨ 1026 < n ∧ n < 65536) (h0 : s.link.rx = none) :
    State.hostBytes (0xA5 :: leBytes 2 n) s = s.raiseFault .linkFrame FaultCtx.empty 1 := by
  obtain ⟨hbytes, hfirst, hsecond⟩ := rxByte_badLength (low := 2) (high := 1026) (n := n) (by omega) (by omega)
  have hstart : rxByte 2 1026 none 0xA5 = (some [], none) := rfl
  have hrx : { s.link with rx := none } = s.link := by rw [← h0]
  rw [hbytes]
  simp only [State.hostBytes, h0, hstart, hfirst, hsecond, hrx]
  rfl

/-- R188: bytes outside a frame without the start byte begin none. -/
theorem hostBytes_noStart {bs : List Byte} (h : (0xA5 : Byte) ∉ bs) (h0 : s.link.rx = none) : State.hostBytes bs s = s := by
  induction bs with
  | nil => rfl
  | cons b bs ih =>
    obtain ⟨hb, hbs⟩ := not_or.1 (mt List.mem_cons.2 h)
    have hrx : { s.link with rx := none } = s.link := by rw [← h0]
    have hnone : rxByte 2 1026 none b = (none, none) := by
      rw [rxByte, startByte, if_neg (Ne.symm hb)]
    simp only [State.hostBytes, h0, hnone, hrx]
    exact ih hbs

/-- Settles O24: what ends a frame badly, and what stands outside one. -/
theorem badHostFramesAreReported : Obligations.BadHostFramesAreReported := by
  refine fun s => ⟨fun h0 n hn => event_report (hostBytes_badLength hn h0), fun h0 tag kind body crc hbody hcrc hne => ?_,
    fun got hgot => event_report (t := { s with link := { s.link with rx := none } }) ?_, fun h0 => ?_, fun h0 bs hbs => ?_⟩
  · refine event_report ?_
    have h := hostBytes_whole s (tag :: kind :: body) crc hcrc (by simp) (by simp; omega) h0
    exact h.trans (congrArg (State.hostFrameEnds · s) (if_neg (Ne.symm hne)))
  · rw [State.hostGap, hgot]
  · show Host.Outcome.next (State.judgeQuiet s s.hostGap) = _
    rw [State.hostGap, h0, judgeQuiet_self]
  · show Host.Outcome.next (State.judgeQuiet s (State.hostBytes bs s)) = _
    rw [hostBytes_noStart hbs h0, judgeQuiet_self]

/-! ### Replies -/

/-- Settles O25: the reply of the oldest request takes its place, and begins where the transmitter is free. -/
theorem repliesLeaveInRequestOrder : Obligations.RepliesLeaveInRequestOrder := by
  refine ⟨fun s tag kind r c after => ⟨answer_link s tag kind r, ?_, fun hq htx => ?_, fun hq htx hb => ?_,
    fun hq htx => ?_, fun hq htx hb => ?_⟩, fun s tag kind hk hturn => ⟨?_, answer_link s tag kind _, rfl⟩⟩
  · unfold State.inTurn State.atHead
    cases hq : s.link.queue with
    | nil => simp
    | cons e es => simp
  · have htx' : (s.link.tx == none) = false := beq_false_of_ne htx
    simp only [State.answer, hq, State.startIfFree, htx', Bool.false_eq_true, if_false]
  · simp only [State.answer, hq, State.startIfFree, htx, beq_self_eq_true, if_true, State.beginReply, hb, State.beginFrame]
  · have htx' : (s.link.tx == none) = false := beq_false_of_ne htx
    simp only [State.answer, hq, State.startIfFree, htx', Bool.false_eq_true, if_false]
  · simp only [State.answer, hq, State.startIfFree, htx, beq_self_eq_true, if_true, State.beginReply, hb, State.beginFrame]
  · show execUnknownKind tag kind s = _
    rw [execUnknownKind, hk, if_neg Bool.false_ne_true]
    exact request_same hturn rfl

/-! ### The transmitter -/

/-- Settles O26: BUSY first, then the reply that is made or the Notice that is due. -/
theorem transmitterSendsTheNextFrame : Obligations.TransmitterSendsTheNextFrame := by
  refine fun s => ⟨fun e es hb => ?_, fun hb => ⟨fun e es r hq hr => ⟨fun hd => ?_, fun hd => ?_⟩,
    fun hno => ⟨fun hd => ?_, fun hd => ?_⟩⟩, fun hd htx hb => ?_, fun h => ?_⟩
  · show Host.Outcome.next _ = _
    simp [State.beginNext, State.beginReply, hb, State.beginFrame, busyFrame]
  · show Host.Outcome.next _ = _
    simp [State.beginNext, State.beginReply, hb, hq, hr, hd, State.beginFrame]
  · refine ⟨_, rfl, ?_⟩
    cases hbit : Config.freeBit s.freeCount <;>
      simp [State.beginNext, State.replyWaits, State.beginReply, State.beginNotice, hb, hq, hr, hd, hbit, State.beginFrame]
  · show Host.Outcome.next _ = _
    cases hq : s.link.queue with
    | nil => simp [State.beginNext, State.beginReply, hb, hq, hd]
    | cons e es =>
      cases hstage : e.stage with
      | waiting c => simp [State.beginNext, State.beginReply, hb, hq, hd, hstage]
      | answered r => exact absurd hstage (hno e r (by rw [hq]; rfl))
  · show Host.Outcome.next _ = _
    cases hq : s.link.queue with
    | nil => simp [State.beginNext, State.replyWaits, State.beginNotice, hb, hq, hd, State.beginFrame]
    | cons e es =>
      cases hstage : e.stage with
      | waiting c => simp [State.beginNext, State.replyWaits, State.beginNotice, hb, hq, hd, hstage, State.beginFrame]
      | answered r => exact absurd hstage (hno e r (by rw [hq]; rfl))
  · show Host.Outcome.next _ = _
    simp [hd, htx, hb, State.beginNotice, State.beginFrame]
  · show Host.Outcome.next _ = _
    rw [if_neg]
    rcases h with h | h | h <;> simp [h]

end Sys2Proof.Machine
end

section
/-! SUPPORT. The cell bus: frames, and the records that they carry (R190, R195). -/

namespace Sys2Proof.Machine

open Sys2Proof

variable {c : Instr} {s t : State}

/-! ### Frames -/

/-- R190: a whole cell bus frame that arrives outside a frame. -/
theorem busBytes_whole (s : State) (counted crc : List Byte) (hcrc : crc.length = 2) (h3 : 3 ≤ counted.length)
    (hmax : counted.length ≤ 1027) (h0 : s.bus.rx = none) :
    State.busBytes (0xA5 :: (leBytes 2 counted.length ++ counted ++ crc)) s = State.judgeQuiet s (s.busFrameEnds
      (if crcBytes (leBytes 2 counted.length ++ counted) = crc then .good counted else .badCrc)) := by
  rw [← frameEnd_covered]
  exact busBytes_frame s _ _ (frame_length counted crc hcrc) h3 hmax (frame_count counted crc (by omega)) h0

theorem busBytes_good (s : State) (addr tag kind : Byte) (body : List Byte) (hbody : body.length ≤ 1024)
    (h0 : s.bus.rx = none) : exec (.cellBusFrame (busFrameBytes addr tag kind body)) s =
      event (fun s => if tag = 0 then s.recordArrives addr kind body else s.raiseFault .cellBusFrame FaultCtx.empty 4) s := by
  have h := busBytes_whole s (addr :: tag :: kind :: body)
    (crcBytes (leBytes 2 (addr :: tag :: kind :: body).length ++ addr :: tag :: kind :: body)) rfl (by simp) (by simp; omega) h0
  rw [if_pos rfl] at h
  exact congrArg Host.Outcome.next h

theorem busBytes_badLength {n : Nat} (hn : n < 3 ∨ 1027 < n ∧ n < 65536) (h0 : s.bus.rx = none) :
    State.busBytes (0xA5 :: leBytes 2 n) s = s.raiseFault .cellBusFrame FaultCtx.empty 1 := by
  obtain ⟨hbytes, hfirst, hsecond⟩ := rxByte_badLength (low := 3) (high := 1027) (n := n) (by omega) (by omega)
  have hstart : rxByte 3 1027 none 0xA5 = (some [], none) := rfl
  have hrx : { s.bus with rx := none } = s.bus := by rw [← h0]
  rw [hbytes]
  simp only [State.busBytes, h0, hstart, hfirst, hsecond, hrx]
  exact judgeQuiet_fault _ _ _ s s rfl rfl

theorem busBytes_noStart {bs : List Byte} (h : (0xA5 : Byte) ∉ bs) (h0 : s.bus.rx = none) : State.busBytes bs s = s := by
  induction bs with
  | nil => rfl
  | cons b bs ih =>
    obtain ⟨hb, hbs⟩ := not_or.1 (mt List.mem_cons.2 h)
    have hrx : { s.bus with rx := none } = s.bus := by rw [← h0]
    have hnone : rxByte 3 1027 none b = (none, none) := by
      rw [rxByte, startByte, if_neg (Ne.symm hb)]
    simp only [State.busBytes, h0, hnone, hrx]
    exact ih hbs

/-! ### Records -/

theorem unitOf_iff (addr : Byte) (u : FieldUnit) : unitOf addr = some u ↔
    match u with
    | .lane n => addr.toNat = n ∧ 1 ≤ n ∧ n ≤ 6
    | .sorter => addr = 0x10
    | .buffer => addr = 0x11
    | .bench n => addr.toNat = 0x20 + n ∧ 1 ≤ n ∧ n ≤ 12 := by
  have hbyte (k : Byte) : addr = k ↔ addr.toNat = k.toNat := BitVec.toNat_inj.symm
  cases u with
  | lane n | bench n =>
    simp only [unitOf]
    repeat' split
    all_goals simp only [Option.some.injEq, FieldUnit.lane.injEq, FieldUnit.bench.injEq, reduceCtorEq, false_iff, not_and, not_le]
    all_goals omega
  | sorter | buffer =>
    simp only [unitOf, hbyte, BitVec.reduceToNat]
    repeat' split
    all_goals simp only [Option.some.injEq, reduceCtorEq, false_iff, true_iff]
    all_goals omega

theorem sends_iff (u : FieldUnit) (k : Nat) : u.sends k = true ↔
    match u with
    | .lane _ => k = 0x01
    | .sorter => k = 0x10 ∨ k = 0x11 ∨ k = 0x12
    | .buffer => k = 0x18 ∨ k = 0x19
    | .bench _ => 0x20 ≤ k ∧ k ≤ 0x2A := by
  cases u <;> simp [FieldUnit.sends, or_assoc]

theorem fieldRecord_noUnit {hd : RecHead} {kind : Nat} (owner : Nat → State → State) (s : State)
    (hu : unitOf hd.addr = none) : State.fieldRecord hd kind owner s = s.raiseFault .fieldMismatch FaultCtx.empty 10 := by
  simp [State.fieldRecord, recordFault, hu]

theorem fieldRecord_badLength {hd : RecHead} {kind : Nat} {u : FieldUnit} (owner : Nat → State → State) (s : State)
    (hu : unitOf hd.addr = some u) (hk : u.sends kind = true) (hl : hd.lengthOk = false) :
    State.fieldRecord hd kind owner s = s.raiseFault .fieldMismatch u.ctx 12 := by
  simp [State.fieldRecord, recordFault, hu, hk, hl]

/-- R190: a report of a record is the whole event. -/
theorem event_mismatch {f : State → State} {x : FaultCtx} {d : Nat} (h : f s = s.raiseFault .fieldMismatch x d) :
    event f s = .next (s.raiseFault .fieldMismatch x d) := by
  rw [event, h, judgeQuiet_fault _ _ _ s s rfl rfl]

theorem badLength_report {hd : RecHead} {kind : Nat} {u : FieldUnit} {owner : Nat → State → State}
    (hexec : exec c s = event (State.fieldRecord hd kind owner) s) (hu : unitOf hd.addr = some u)
    (hk : u.sends kind = true) (hl : hd.lengthOk = false) :
    exec c s = .next (s.raiseFault .fieldMismatch u.ctx 12) :=
  hexec.trans (event_mismatch (fieldRecord_badLength owner s hu hk hl))

/-- R190: a record of a bench whose body length does not fit. -/
theorem benchRecord_badLength {hd : RecHead} {tag b : Nat} {r : RefuseReason}
    (hc : c = .benchOpen hd ∨ c = .benchClose hd ∨ c = .baseFitted hd ∨ c = .pocketFitted hd ∨ c = .placed hd tag ∨
      c = .placeRefused hd tag r ∨ c = .returned hd tag ∨ c = .pulled hd tag ∨ c = .hamperSealed hd ∨ c = .hamperOut hd ∨
      c = .unpacked hd) (hu : unitOf hd.addr = some (.bench b)) (hl : hd.lengthOk = false) :
    exec c s = .next (s.raiseFault .fieldMismatch (FieldUnit.bench b).ctx 12) := by
  have sent {k : Nat} (h : 0x20 ≤ k ∧ k ≤ 0x2A) : (FieldUnit.bench b).sends k = true := decide_eq_true h
  rcases hc with rfl | rfl | rfl | rfl | rfl | rfl | rfl | rfl | rfl | rfl | rfl
  all_goals exact badLength_report rfl hu (sent (by decide)) hl

/-- R195: every field record is handed to its owner by its address and its kind. -/
theorem exec_record {addr : Byte} {kind : Nat} (h : recordOf c = some (addr, kind)) (s : State) :
    ∃ (hd : RecHead) (owner : Nat → State → State), hd.addr = addr ∧
      exec c s = event (State.fieldRecord hd kind owner) s := by
  cases c <;> cases h <;> exact ⟨_, _, rfl, rfl⟩

/-- R190: what a record of a kind that no unit sends does. -/
theorem exec_misaddressed (addr kind : Byte) (s : State) (hd : RecHead) (owner : Nat → State → State) (ha : hd.addr = addr)
    (hk : ∀ u : FieldUnit, u.sends kind.toNat = false) :
    exec (.misaddressedRecord addr kind) s = event (State.fieldRecord hd kind.toNat owner) s := by
  subst ha
  refine congrArg (fun u => Host.Outcome.next (State.judgeQuiet s u)) ?_
  cases hu : unitOf hd.addr with
  | none => simp [recordFault, State.fieldRecord, hu]
  | some u => simp [recordFault, State.fieldRecord, hu, hk u]

theorem misaddressed_report {addr kind : Byte} {x : FaultCtx} {d : Nat} (h : recordFault addr kind.toNat true = some (x, d)) :
    exec (.misaddressedRecord addr kind) s = .next (s.raiseFault .fieldMismatch x d) := by
  show execMisaddressedRecord addr kind s = _
  unfold execMisaddressedRecord
  exact event_mismatch (by rw [h])

/-- Settles O27: a good frame is the record of its kind. -/
theorem cellBusFrameIsItsRecord : Obligations.CellBusFrameIsItsRecord := by
  intro s addr kind body hbody h0
  refine (busBytes_good s addr 0 kind body hbody h0).trans ?_
  have hframe : (fun s : State => if (0 : Byte) = 0 then s.recordArrives addr kind body
      else s.raiseFault .cellBusFrame FaultCtx.empty 4) = fun s => State.fieldRecord
        ⟨addr, body.length == bodyLength kind.toNat⟩ kind.toNat (State.recordOwner kind.toNat body) s :=
    funext fun _ => if_pos rfl
  rw [hframe]
  split
  case h_18 =>
    refine (exec_misaddressed addr kind s _ _ rfl fun u => ?_).symm
    rw [← Bool.not_eq_true, sends_iff]
    simp only [imp_false] at *
    cases u <;> dsimp only <;> omega
  all_goals
    rename_i hk
    rw [hk]
    rfl

/-- Settles O28: bad frames, the address map, and the records that do not fit. -/
theorem badFramesAndMisaddressedRecordsAreReported : Obligations.BadFramesAndMisaddressedRecordsAreReported := by
  refine ⟨fun s => ⟨fun h0 n hn => congrArg Host.Outcome.next (busBytes_badLength hn h0),
      fun h0 addr tag kind body crc hbody hcrc hne => ?crc, fun h0 addr tag kind body hbody htag => ?tag,
      fun got hgot => ?gap, fun h0 => ?noGap, fun h0 bs hbs => congrArg Host.Outcome.next (busBytes_noStart hbs h0)⟩,
    unitOf_iff, sends_iff, fun n => ⟨rfl, rfl, rfl, rfl⟩, fun s c addr kind hc => ⟨fun hu => ?noUnit, fun u hu hk => ?wrongUnit⟩,
    fun s addr kind hu => misaddressed_report (by simp [recordFault, hu]),
    fun s addr kind u hu hk => misaddressed_report (by simp [recordFault, hu, hk]),
    fun s hd u tag p r hu hl => ⟨fun c hs hc => ?sorter, fun c hs hc => ?buffer, fun c b hs hc => ?bench⟩⟩
  case crc =>
    have h := busBytes_whole s (addr :: tag :: kind :: body) crc hcrc (by simp) (by simp; omega) h0
    rw [if_neg (show ¬crcBytes (leBytes 2 (addr :: tag :: kind :: body).length ++ addr :: tag :: kind :: body) = crc from
      Ne.symm hne)] at h
    exact congrArg Host.Outcome.next (h.trans (judgeQuiet_fault _ _ _ s s rfl rfl))
  case tag =>
    refine (busBytes_good s addr tag kind body hbody h0).trans (event_report ?_)
    rw [if_neg htag]
  case gap =>
    refine event_report (t := { s with bus := { s.bus with rx := none } }) ?_
    rw [State.busGap, hgot]
  case noGap =>
    show Host.Outcome.next (State.judgeQuiet s s.busGap) = _
    rw [State.busGap, h0, judgeQuiet_self]
  case noUnit =>
    obtain ⟨hd, owner, ha, hexec⟩ := exec_record hc s
    rw [hexec]
    exact event_mismatch (fieldRecord_noUnit owner s (ha ▸ hu))
  case wrongUnit =>
    obtain ⟨hd, owner, ha, hexec⟩ := exec_record hc s
    rw [hexec]
    exact event_wrongUnit owner s (ha ▸ hu) hk
  case sorter =>
    subst hs
    rcases hc with rfl | rfl | rfl <;> exact badLength_report rfl hu rfl hl
  case buffer =>
    subst hs
    rcases hc with rfl | rfl <;> exact badLength_report rfl hu rfl hl
  case bench =>
    subst hs
    exact benchRecord_badLength hc hu hl

end Sys2Proof.Machine
end

section
/-! SUPPORT. The bodies of records and replies, written and read back (R197, R199 to R203). -/

namespace Sys2Proof.Machine

open Sys2Proof

/-! ### Fields one after another -/

/-- A field that stands past a first part of its body. -/
theorem fieldAt_past {xs ys : List Byte} {o n : Nat} (h : xs.length ≤ o) :
    fieldAt (xs ++ ys) o n = fieldAt ys (o - xs.length) n := fieldAt_skip xs ys o (o - xs.length) n (by omega)

theorem fieldAt_number {n v : Nat} (h : v < 256 ^ n) : fieldAt (leBytes n v) 0 n = v := by
  simpa using fieldAt_head n v [] h

theorem fieldAt_optional {n : Nat} {v : Option Nat} (h : ∀ m, v = some m → m < 256 ^ n) :
    fieldAt (leBytesOpt n v) 0 n = v.getD (256 ^ n - 1) := by
  simpa using fieldAt_opt n v [] h

theorem fieldAt_drop (xs : List Byte) (a b n : Nat) : fieldAt xs (a + b) n = fieldAt (xs.drop a) b n := by
  rw [fieldAt, fieldAt, List.drop_drop]

theorem leBytes_mod (w n : Nat) : leBytes w (n % 256 ^ w) = leBytes w n := by
  induction w generalizing n with
  | zero => rfl
  | succ w ih =>
    have hpow : 256 ^ (w + 1) = 256 * 256 ^ w := pow_succ' 256 w
    have hdiv : n % 256 ^ (w + 1) / 256 = n / 256 % 256 ^ w := by rw [hpow, Nat.mod_mul_right_div_self]
    have hlow : BitVec.ofNat 8 (n % 256 ^ (w + 1)) = BitVec.ofNat 8 n := by
      refine BitVec.eq_of_toNat_eq ?_
      rw [BitVec.toNat_ofNat, BitVec.toNat_ofNat, hpow]
      exact Nat.mod_mul_right_mod n 256 (256 ^ w)
    rw [leBytes, leBytes, hdiv, ih, hlow]

theorem fieldAt_leBytes (w n : Nat) : fieldAt (leBytes w n) 0 w = n % 256 ^ w := by
  rw [← leBytes_mod, fieldAt_number (Nat.mod_lt _ (Nat.pow_pos (by decide)))]

/-! ### Arrival and Load Order -/

theorem arrival_read {a : ArrivalFields} (htag : a.tag < 65536) (hsku : a.sku < 16777216) (hcls : a.cls < 256)
    (hmass : a.mass < 65536) (hvol : a.volume < 65536) (hexit : ∀ m, a.chillExit = some m → m < 65535) :
    ArrivalFields.read a.bytes = a := by
  have hexit' : ∀ m, a.chillExit = some m → m < 256 ^ 2 := fun m hm => by have := hexit m hm; omega
  have habsent : absentOr (a.chillExit.getD 65535) = a.chillExit := by
    cases h : a.chillExit with
    | none => rfl
    | some m =>
      have := hexit m h
      simp only [Option.getD_some, absentOr]
      rw [if_neg (by omega)]
  have tag := fieldAt_head 2 a.tag (leBytes 3 a.sku ++ (leBytes 1 a.cls ++ (leBytes 2 a.mass ++ (leBytes 2 a.volume ++
    leBytesOpt 2 a.chillExit)))) (by omega)
  have sku := fieldAt_head 3 a.sku (leBytes 1 a.cls ++ (leBytes 2 a.mass ++ (leBytes 2 a.volume ++
    leBytesOpt 2 a.chillExit))) (by omega)
  have cls := fieldAt_head 1 a.cls (leBytes 2 a.mass ++ (leBytes 2 a.volume ++ leBytesOpt 2 a.chillExit)) (by omega)
  have mass := fieldAt_head 2 a.mass (leBytes 2 a.volume ++ leBytesOpt 2 a.chillExit) (by omega)
  have vol := fieldAt_head 2 a.volume (leBytesOpt 2 a.chillExit) (by omega)
  have exit := fieldAt_optional hexit'
  simp only [ArrivalFields.read, ArrivalFields.bytes, List.append_assoc]
  simp only [fieldAt_past, leBytes_length, Nat.reduceLeDiff, Nat.reduceSub, tag, sku, cls, mass, vol, exit]
  simp only [Nat.reducePow, Nat.reduceSub, habsent]


theorem line_length (l : LineFields) : l.bytes.length = 6 := by simp [LineFields.bytes]

theorem lines_length (ls : List LineFields) : (ls.flatMap LineFields.bytes).length = 6 * ls.length := by
  induction ls with
  | nil => rfl
  | cons l ls ih =>
    rw [List.flatMap_cons, List.length_append, line_length, ih, List.length_cons]
    omega

/-- R201: line n stands 6 bytes after the line before it. -/
theorem lines_drop (ls : List LineFields) (n : Nat) :
    (ls.flatMap LineFields.bytes).drop (6 * n) = (ls.drop n).flatMap LineFields.bytes := by
  induction n generalizing ls with
  | zero => rfl
  | succ n ih =>
    cases ls with
    | nil => simp
    | cons l ls =>
      rw [List.flatMap_cons, List.drop_succ_cons, ← ih, show 6 * (n + 1) = l.bytes.length + 6 * n by rw [line_length]; omega,
        List.drop_append]
      simp

/-- R201: the fields of a line at its place. -/
theorem line_read {l : LineFields} (rest : List Byte)
    (hl : l.sku < 16777216 ∧ l.cls < 256 ∧ l.required < 256 ∧ l.group < 256) :
    fieldAt (l.bytes ++ rest) 0 3 = l.sku ∧ fieldAt (l.bytes ++ rest) 3 1 = l.cls ∧
      fieldAt (l.bytes ++ rest) 4 1 = l.required ∧ fieldAt (l.bytes ++ rest) 5 1 = l.group := by
  obtain ⟨hsku, hcls, hreq, hgroup⟩ := hl
  have sku := fieldAt_head 3 l.sku (leBytes 1 l.cls ++ (leBytes 1 l.required ++ (leBytes 1 l.group ++ rest))) (by omega)
  have cls := fieldAt_head 1 l.cls (leBytes 1 l.required ++ (leBytes 1 l.group ++ rest)) (by omega)
  have req := fieldAt_head 1 l.required (leBytes 1 l.group ++ rest) (by omega)
  have group := fieldAt_head 1 l.group rest (by omega)
  simp only [LineFields.bytes, List.append_assoc, fieldAt_past, leBytes_length, Nat.reduceLeDiff, Nat.reduceSub, sku, cls,
    req, group, and_self]

theorem loadOrder_read {f : LoadFields} (href : f.ref < 4294967296) (hprio : f.priority < 256) (hwave : f.wave < 256)
    (htemplate : f.template < 256) (hcount : f.lines.length < 256)
    (hlines : ∀ l ∈ f.lines, l.sku < 16777216 ∧ l.cls < 256 ∧ l.required < 256 ∧ l.group < 256) :
    LoadFields.read f.bytes = f := by
  let ls := f.lines.flatMap LineFields.bytes
  have ref := fieldAt_head 4 f.ref (leBytes 1 f.priority ++ (leBytes 1 f.wave ++ (leBytes 1 f.template ++
    (leBytes 1 f.lines.length ++ ls)))) (by omega)
  have prio := fieldAt_head 1 f.priority (leBytes 1 f.wave ++ (leBytes 1 f.template ++ (leBytes 1 f.lines.length ++ ls))) (by omega)
  have wave := fieldAt_head 1 f.wave (leBytes 1 f.template ++ (leBytes 1 f.lines.length ++ ls)) (by omega)
  have template := fieldAt_head 1 f.template (leBytes 1 f.lines.length ++ ls) (by omega)
  have count := fieldAt_head 1 f.lines.length ls (by omega)
  have lines : (List.range f.lines.length).map (LineFields.read f.bytes) = f.lines := by
    refine List.ext_getElem (by simp) fun n hn hn' => ?_
    have hdrop : f.bytes.drop (8 + 6 * n) = f.lines[n].bytes ++ (f.lines.drop (n + 1)).flatMap LineFields.bytes := by
      have h8 : f.bytes.drop 8 = ls := by
        rw [LoadFields.bytes]
        exact List.drop_left' (by simp)
      rw [← List.drop_drop, h8, lines_drop, List.drop_eq_getElem_cons hn', List.flatMap_cons]
    have at_ (j k : Nat) : fieldAt f.bytes (8 + 6 * n + j) k =
        fieldAt (f.lines[n].bytes ++ (f.lines.drop (n + 1)).flatMap LineFields.bytes) j k := by
      rw [fieldAt_drop, hdrop]
    obtain ⟨hsku, hcls, hreq, hgroup⟩ := line_read ((f.lines.drop (n + 1)).flatMap LineFields.bytes)
      (hlines _ (List.getElem_mem hn'))
    rw [List.getElem_map, List.getElem_range, LineFields.read, show 11 + 6 * n = 8 + 6 * n + 3 by omega,
      show 12 + 6 * n = 8 + 6 * n + 4 by omega, show 13 + 6 * n = 8 + 6 * n + 5 by omega, at_, at_, at_, hcls, hreq, hgroup]
    rw [← at_ 0 3, Nat.add_zero] at hsku
    rw [hsku]
  have hfields : fieldAt f.bytes 0 4 = f.ref ∧ fieldAt f.bytes 4 1 = f.priority ∧ fieldAt f.bytes 5 1 = f.wave ∧
      fieldAt f.bytes 6 1 = f.template ∧ fieldAt f.bytes 7 1 = f.lines.length := by
    simp only [LoadFields.bytes, List.append_assoc]
    simp only [fieldAt_past, leBytes_length, Nat.reduceLeDiff, Nat.reduceSub]
    exact ⟨ref, prio, wave, template, count⟩
  obtain ⟨h1, h2, h3, h4, h5⟩ := hfields
  rw [LoadFields.read, loadLineCount, h1, h2, h3, h4, h5, lines]

/-- Settles O29: both bodies read back field by field. -/
theorem recordBodiesReadBack : Obligations.RecordBodiesReadBack := by
  refine ⟨fun a htag hsku hcls hmass hvol hexit => ⟨arrival_read htag hsku hcls hmass hvol hexit, ?_⟩,
    fun f href hprio hwave htemplate hcount hlines => ⟨loadOrder_read href hprio hwave htemplate hcount hlines, ?_⟩⟩
  · simp [ArrivalFields.bytes]
  · simp only [LoadFields.bytes, List.length_append, leBytes_length, lines_length]

/-! ### Bodies that the part sends -/

theorem place_fields {tag slot : Nat} (z : Zone) (htag : tag < 65536) (hslot : slot < 256) :
    (placeBody tag z slot).length = 4 ∧ fieldAt (placeBody tag z slot) 0 2 = tag ∧
      fieldAt (placeBody tag z slot) 2 1 = z.code ∧ fieldAt (placeBody tag z slot) 3 1 = slot := by
  have hz : z.code < 256 := by cases z <;> decide
  have htag' := fieldAt_head 2 tag (leBytes 1 z.code ++ leBytes 1 slot) (by omega)
  have hzone := fieldAt_head 1 z.code (leBytes 1 slot) (by omega)
  have hslot' := fieldAt_number (n := 1) (v := slot) (by omega)
  refine ⟨by simp [placeBody], ?_⟩
  simp only [placeBody, List.append_assoc, fieldAt_past, leBytes_length, Nat.reduceLeDiff, Nat.reduceSub, htag', hzone,
    hslot', and_self]

theorem optional_lt {v : Option Nat} {n m : Nat} (h : ∀ k, v = some k → k < n) (hnm : n ≤ m) : ∀ k, v = some k → k < m :=
  fun k hk => lt_of_lt_of_le (h k hk) hnm

theorem faultRecord_fields {r : FaultRecord} (hminute : r.minute < 65536) (hdetail : r.detail < 256)
    (htag : ∀ n, r.ctx.tag = some n → n < 65535) (hslot : ∀ n, r.ctx.slot = some n → n < 255)
    (hbench : ∀ n, r.ctx.bench = some n → n < 255) (hlane : ∀ n, r.ctx.lane = some n → n < 255)
    (hsku : ∀ n, r.ctx.sku = some n → n < 16777215) :
    let b := faultRecordBytes (some r)
    b.length = 12 ∧ fieldAt b 0 1 = r.kind.code ∧ fieldAt b 1 2 = r.minute ∧ fieldAt b 3 2 = r.ctx.tag.getD 65535 ∧
      fieldAt b 5 1 = r.ctx.slot.getD 255 ∧ fieldAt b 6 1 = r.ctx.bench.getD 255 ∧
      fieldAt b 7 1 = r.ctx.lane.getD 255 ∧ fieldAt b 8 3 = r.ctx.sku.getD 16777215 ∧ fieldAt b 11 1 = r.detail := by
  have hkind := kindCode_range r.kind
  let sku := leBytesOpt 3 r.ctx.sku ++ leBytes 1 r.detail
  let lane := leBytesOpt 1 r.ctx.lane ++ sku
  let bench := leBytesOpt 1 r.ctx.bench ++ lane
  let slot := leBytesOpt 1 r.ctx.slot ++ bench
  let tag := leBytesOpt 2 r.ctx.tag ++ slot
  have kind' := fieldAt_head 1 r.kind.code (leBytes 2 r.minute ++ tag) (by omega)
  have minute' := fieldAt_head 2 r.minute tag (by omega)
  have tag' := fieldAt_opt 2 r.ctx.tag slot (optional_lt htag (by decide))
  have slot' := fieldAt_opt 1 r.ctx.slot bench (optional_lt hslot (by decide))
  have bench' := fieldAt_opt 1 r.ctx.bench lane (optional_lt hbench (by decide))
  have lane' := fieldAt_opt 1 r.ctx.lane sku (optional_lt hlane (by decide))
  have sku' := fieldAt_opt 3 r.ctx.sku (leBytes 1 r.detail) (optional_lt hsku (by decide))
  have detail' := fieldAt_number (n := 1) (v := r.detail) (by omega)
  refine ⟨by simp [faultRecordBytes], ?_⟩
  simp only [faultRecordBytes, List.append_assoc]
  simp only [fieldAt_past, leBytes_length, leBytesOpt_length, Nat.reduceLeDiff, Nat.reduceSub]
  exact ⟨kind', minute', tag', slot', bench', lane', sku', detail'⟩

/-- R197: the bits of a set of n bytes. -/
theorem setBytes_testBit {w : Nat} (v : BitVec w) (n : Nat) (h : w ≤ 8 * n) (i : Nat) :
    (fieldAt (leBytes n v.toNat) 0 n).testBit i = v.getLsbD i := by
  have hlt : v.toNat < 256 ^ n := by
    calc v.toNat < 2 ^ w := v.isLt
      _ ≤ 2 ^ (8 * n) := Nat.pow_le_pow_right (by decide) h
      _ = 256 ^ n := by rw [pow_mul, show 2 ^ 8 = 256 from rfl]
  rw [fieldAt_number hlt, BitVec.testBit_toNat]

theorem allUnits_address : ∀ u ∈ allUnits, unitOf u.address = some u := by decide

/-- R2, R23: an order record is its own fields, then its lines with their numbers. -/
theorem orderBytes_eq (o : Order) (age : Nat) : ∃ own : List Byte,
    ReplyBody.bytes (.order o age) = own ++ Config.listHead .line o.lines.length ++
      ((o.lines.mapIdx (fun k x => Line.bytes (k + 1) x)).flatten) ∧
    ∃ gs : List (List Byte), gs.Perm [leBytes 1 o.slot, leBytes 4 o.ref, Layout.order.num 0 o.loadSeq 2,
      Layout.order.num 1 age 2, leBytes 1 o.priority, leBytes 1 o.wave, leBytes 1 o.template, Layout.order.coded 2 o.state,
      Layout.order.coded 3 o.held, leBytesOpt 1 o.bench, Layout.order.coded 4 (o.overdue, o.late),
      Layout.order.codedOpt 5 o.topGate, Layout.order.coded 6 o.fragileBegun, Layout.order.num 7 o.withdrawals,
      leBytesOpt 2 o.sealMinute, Layout.order.numOpt 8 o.dispatchLane] ∧ own = gs.flatten := by
  refine ⟨_, ?_, Layout.fields_perm .order _⟩
  have hlines : Layout.line.list (fun x => Line.bytes x.1 x.2) (o.lines.mapIdx (fun k x => (k + 1, x))) =
      Config.listHead .line o.lines.length ++ (o.lines.mapIdx (fun k x => Line.bytes (k + 1) x)).flatten := by
    rw [Layout.list, List.length_mapIdx, List.flatMap_def, List.mapIdx_eq_zipIdx_map, List.mapIdx_eq_zipIdx_map,
      List.map_map]
    rfl
  show Order.bytes age o = _
  rw [Order.bytes, hlines, List.append_assoc]
  rfl

/-- Settles O30: the layouts given byte by byte, and the free ones as their fields in some order. -/
theorem outgoingBodiesFollowTheirLayouts : Obligations.OutgoingBodiesFollowTheirLayouts := by
  refine ⟨fun tag slot z htag hslot => place_fields z htag hslot,
    fun r hm hd ht hs hb hl hk => faultRecord_fields hm hd ht hs hb hl hk, rfl, fun p m hm => ?notice, fun v => ?flags,
    fun v => ?kinds, fun tag kind r => ⟨rfl, rfl⟩, fun st => ?status, ⟨rfl, fun v => rfl, fun v => rfl, fun rs seen => rfl⟩,
    ?layouts, fun p m => rfl, allUnits_address, fun u r => rfl, fun tag slot z => rfl, fun r => ?code, fun s u r => ?line⟩
  case notice =>
    have hp : p.toNat < 65536 := lt_trans p.isLt (by decide)
    have hset := fieldAt_head 2 p.toNat (leBytes 2 m) (by omega)
    have hminute := fieldAt_number (n := 2) (v := m) (by omega)
    refine ⟨by simp [noticeBody, noticeSetBytes], hset, ?_, rfl⟩
    rw [noticeBody, noticeSetBytes, fieldAt_past (by simp), leBytes_length, hminute]
  case flags =>
    refine ⟨leBytes_length _ _, fun f => setBytes_testBit v 2 (by decide) _, fun n hn => ?_⟩
    rw [noticeSetBytes, setBytes_testBit v 2 (by decide), BitVec.getLsbD_of_ge v n hn]
  case kinds =>
    refine ⟨leBytes_length _ _, fun f => setBytes_testBit v 3 (by decide) _, fun n hn => ?_⟩
    rw [kindSetBytes, setBytes_testBit v 3 (by decide), BitVec.getLsbD_of_ge v n hn]
  case status => cases st <;> rfl
  case layouts =>
    refine ⟨fun l k w => ⟨rfl, fun n => ⟨rfl, rfl⟩⟩, fun w n => ⟨leBytes_length w n, fieldAt_leBytes w n⟩,
      fun c => ?_, fun z => ?_, fun v => Layout.fields_perm .notices _, fun cs => rfl, fun c => Layout.fields_perm .counter _,
      fun i => Layout.fields_perm .item _, fun o age => orderBytes_eq o age, fun number x => Layout.fields_perm .line _,
      fun n => ⟨rfl, rfl⟩, fun skus => rfl, fun tag => ⟨rfl, rfl, rfl⟩, fun tag reason => Layout.fields_perm .reject _,
      fun tag point => Layout.fields_perm .route _, fun tag point => Layout.fields_perm .bufferRelease _, fun n => ⟨rfl, rfl⟩⟩
    · cases c <;> rfl
    · rcases z with _ | z
      · rfl
      · cases z <;> rfl
  case code => cases r <;> rfl
  case line =>
    refine ⟨rfl, ?_⟩
    simp [Bus.line, State.withSent]

end Sys2Proof.Machine
end

section
/-! SUPPORT. The requests on orders and their lines (R14 to R19, R22, R137 to R139). -/

namespace Sys2Proof.Machine

open Sys2Proof

variable {c : Instr} {s t : State}

/-! ### Load Order -/

theorem loadFields_iff (f : LoadFields) : loadFieldsOk f = true ↔ 1 ≤ f.ref ∧ f.ref ≤ 4294967294 ∧ f.priority ≤ 3 ∧
    1 ≤ f.wave ∧ f.wave ≤ 8 ∧ 1 ≤ f.template ∧ f.template ≤ 8 ∧ 1 ≤ f.lines.length ∧ f.lines.length ≤ 24 ∧
    (∀ l ∈ f.lines, 1 ≤ l.sku ∧ l.sku ≤ 16777214 ∧ classOfCode l.cls ≠ none ∧ 1 ≤ l.required ∧ l.required ≤ 12 ∧
      l.group ≤ 31) ∧ (f.lines.map (·.required)).sum ≤ 96 := by
  simp only [loadFieldsOk, lineFieldsOk, Bool.and_eq_true, inRange_iff, List.all_eq_true, Option.isSome_iff_ne_none,
    decide_eq_true_eq, and_assoc, Nat.zero_le, true_and]
  rfl

/-- R1: the lowest FREE slot. -/
theorem freeSlot_some {n : Nat} (h : s.freeSlot? = some n) :
    n < 64 ∧ s.order? n = none ∧ ∀ k < n, s.order? k ≠ none := by
  unfold State.freeSlot? at h
  rw [List.find?_range_eq_some] at h
  obtain ⟨hfree, hlt, hbefore⟩ := h
  refine ⟨List.mem_range.1 hlt, by simpa using hfree, fun k hk => ?_⟩
  have := hbefore k hk
  intro hnone
  simp [hnone] at this

theorem freeSlot_none (h : s.freeSlot? = none) : ∀ k < 64, s.order? k ≠ none := by
  intro k hk hnone
  have := List.find?_eq_none.1 h k (List.mem_range.2 hk)
  simp [hnone] at this

theorem waveShut_iff (w : Nat) : s.waveShut w = true ↔ s.waveState w = .unused ∨ s.waveState w = .departed := by
  simp [State.waveShut]

/-- R14: the answer to a Load Order that is handed over. -/
theorem loadOrder_reply {tag : Byte} {body : List Byte} {r : Reply} (ht : s.Takes (.loadOrder tag body))
    (ho : State.loadOrder body s = (r, t)) :
    exec (.loadOrder tag body) s = s.replies t ⟨tag, true, true⟩ 0x20 r.status r.body :=
  request_reply (rq := ⟨tag, true, true⟩) ((takes_iff (rq := ⟨tag, loadLengthOk body, true⟩) rfl).1 ht).1 ho

theorem loadOrder_same {tag : Byte} {body : List Byte} {r : Reply} (ht : s.Takes (.loadOrder tag body))
    (ho : State.loadOrder body s = (r, s)) : exec (.loadOrder tag body) s = .next (s.answer tag 0x20 r) :=
  request_same (rq := ⟨tag, true, true⟩) ((takes_iff (rq := ⟨tag, loadLengthOk body, true⟩) rfl).1 ht).1 ho

theorem loadOrder_bad {body : List Byte} (hl : loadLengthOk body = true) (hf : loadFieldsOk (LoadFields.read body) = false) :
    State.loadOrder body s = (⟨.badValue, .none⟩, s) := by
  unfold State.loadOrder
  exact checked_bad hl hf

theorem loadOrder_checked {body : List Byte} (hl : loadLengthOk body = true)
    (hf : loadFieldsOk (LoadFields.read body) = true) : State.loadOrder body s =
    if (s.orderOf? (LoadFields.read body).ref).isSome || !distinct ((LoadFields.read body).lines.map (·.sku)) then
      (⟨.duplicate, .none⟩, s)
    else if s.cell.state == .restarting || s.waveShut (LoadFields.read body).wave ||
        (s.plan? (LoadFields.read body).template).isNone then (⟨.wrongState, .none⟩, s)
    else match s.freeSlot? with
      | none => (⟨.noRoom, .none⟩, s)
      | some slot =>
        if Config.linePool < s.linesUsed + (LoadFields.read body).lines.length then (⟨.noRoom, .none⟩, s)
        else (⟨.ok, .slot slot⟩, s.acceptOrder slot (LoadFields.read body)) := by
  unfold State.loadOrder
  exact checked_ok hl hf

/-- R14: an accepted order, written out. -/
theorem acceptOrder_eq (slot : Nat) (f : LoadFields) (s : State) : s.acceptOrder slot f = ({ s with
    book := ⟨insertBy Order.slot (s.newOrder slot f) s.book.orders, (s.book.loadSeq + 1) % 65536⟩
    notices := if s.waveState f.wave = .cut then s.notices.raised .orderOverdue else s.notices } : State).bindPass := by
  unfold State.acceptOrder State.newOrder
  by_cases h : s.waveState f.wave = .cut
  · simp only [h, beq_self_eq_true, if_true]
    rfl
  · simp only [beq_false_of_ne h, h, Bool.false_eq_true, if_false]
    rfl

/-- Settles O43: the checks of R14 one after another. -/
theorem loadOrderChecksThenLoads : Obligations.LoadOrderChecksThenLoads := by
  intro s tag body ht f
  have hl : loadLengthOk body = true := ((takes_iff rfl).1 ht).2
  have fields := loadFields_iff f
  have twice : ((s.orderOf? f.ref).isSome || !distinct (f.lines.map (·.sku))) = true ↔
      (∃ o ∈ s.book.orders, o.ref = f.ref) ∨ ¬(f.lines.map (·.sku)).Nodup := by
    rw [Bool.or_eq_true, Bool.not_eq_true', ← Bool.not_eq_true, distinct_iff, State.orderOf?, List.find?_isSome]
    simp only [beq_iff_eq]
  have shut : (s.cell.state == .restarting || s.waveShut f.wave || (s.plan? f.template).isNone) = true ↔
      s.cell.state = .restarting ∨ s.waveState f.wave = .unused ∨ s.waveState f.wave = .departed ∨
        s.plan? f.template = none := by
    rw [Bool.or_eq_true, Bool.or_eq_true, waveShut_iff, beq_iff_eq, Option.isNone_iff_eq_none]
    tauto
  have good (h : loadFieldsOk f = true) := loadOrder_checked (s := s) hl h
  refine ⟨fun h => ?ranges, fun h1 h2 => ?twice, fun h1 h2 h3 => ?shut, fun h1 h2 h3 h4 => ?full, fun h1 h2 h3 h4 => ?loads⟩
  case ranges => exact loadOrder_same ht (loadOrder_bad hl (Bool.eq_false_iff.2 (mt fields.1 h)))
  case twice => exact loadOrder_same ht ((good (fields.2 h1)).trans (if_pos (twice.2 h2)))
  case shut =>
    exact loadOrder_same ht ((good (fields.2 h1)).trans ((if_neg (mt twice.1 h2)).trans (if_pos (shut.2 h3))))
  all_goals
    have hown := (good (fields.2 h1)).trans ((if_neg (mt twice.1 h2)).trans (if_neg (mt shut.1 h3)))
    have used : Config.linePool < s.linesUsed + f.lines.length ↔
        640 - (s.book.orders.map (fun o => o.lines.length)).sum < f.lines.length := by
      have hlen : 1 ≤ f.lines.length := h1.2.2.2.2.2.2.2.1
      rw [State.linesUsed, Config.linePool]
      omega
  case full =>
    refine loadOrder_same ht (hown.trans ?_)
    cases hslot : s.freeSlot? with
    | none => rfl
    | some n =>
      obtain ⟨hlt, hfree, -⟩ := freeSlot_some hslot
      exact if_pos (used.2 (h4.resolve_left fun h => h n hlt hfree))
  case loads =>
    cases hslot : s.freeSlot? with
    | none => exact absurd (.inl (freeSlot_none hslot)) h4
    | some n =>
      obtain ⟨hlt, hfree, hlow⟩ := freeSlot_some hslot
      rw [hslot] at hown
      refine ⟨n, hlt, hfree, hlow, (loadOrder_reply ht (hown.trans (if_neg (mt used.1 fun h => h4 (.inr h))))).trans ?_⟩
      rw [acceptOrder_eq]
      rfl

end Sys2Proof.Machine
end

section
/-! SUPPORT. The requests that name an order (R13): Hold, Resume and Retire Order (R19, R22), and the requests on its
lines (R137 to R139). -/

namespace Sys2Proof.Machine

open Sys2Proof

variable {c : Instr} {s t : State}

/-! ### A request that names an order (R13) -/

section

variable {rq : ReqHead} {kind : Byte} {v : Bool} {ref : Nat} {allowed : OrderState → Bool} {o : Order}
  {owner : Order → State → Reply × State} {r : Reply}

/-- A request on an order that passes its checks: what its owner answers, the quiet condition judged. -/
theorem named_reply (hn : s.Names c ref o) (hv : v = true) (ha : allowed o.state = true) (ho : owner o s = (r, t))
    (hc : requestOf c = some (rq, kind) := by rfl) :
    request c rq kind (orderRequest rq v ref allowed owner) s = s.replies t rq kind r.status r.body :=
  request_reply ((takes_iff hc).1 hn.1).1 ((orderRequest_owner hn hc hv ha).trans ho)

/-- The same, where no part of the quiet condition changes. -/
theorem named_next (hn : s.Names c ref o) (hv : v = true) (ha : allowed o.state = true) (ho : owner o s = (r, t))
    (hq : s.quietParts = t.quietParts := by rfl) (hcell : s.cell.state = t.cell.state := by rfl)
    (hc : requestOf c = some (rq, kind) := by rfl) :
    request c rq kind (orderRequest rq v ref allowed owner) s = .next (t.answer rq.tag kind r) :=
  request_next ((takes_iff hc).1 hn.1).1 ((orderRequest_owner hn hc hv ha).trans ho) hq hcell

end

theorem openOrder_iff {st : OrderState} : openOrder st = true ↔ st = .loaded ∨ st = .building ∨ st = .held := by
  simp [openOrder, or_assoc]

theorem lineNumberOk_iff {n : Nat} : lineNumberOk n = true ↔ 1 ≤ n ∧ n ≤ 24 := inRange_iff

theorem line_eq {o : Order} {n : Nat} (hn : 1 ≤ n) : o.line? n = o.lines[n - 1]? := if_neg (by omega)

/-- An order that a request names stands in its slot. -/
theorem named_order (hi : s.Inv) {ref : Nat} {o : Order} (hn : s.Names c ref o) : s.order? o.slot = some o := by
  obtain ⟨-, -, -, hfind⟩ := hn
  exact orderOf_slot hi hfind

/-- An order put in its own place changes nothing. -/
theorem withOrder_self (hi : s.Inv) {o : Order} (ho : s.order? o.slot = some o) : s.withOrder o = s := by
  have hsame : s.book.orders.map (fun p => if p.slot = o.slot then o else p) = s.book.orders := by
    refine (List.map_congr_left fun p hp => ?_).trans (List.map_id _)
    split
    case isTrue h => exact Option.some.inj (ho.symm.trans (h ▸ order_of_mem hi hp))
    case isFalse => rfl
  unfold State.withOrder
  rw [hsame]

/-! ### Hold, Resume and Retire Order (R19, R22) -/

section

variable {o : Order}

theorem holdOrder_loaded (hi : s.Inv) (ho : s.order? o.slot = some o) (h : o.state = .loaded) :
    State.holdOrder o s = (⟨.ok, .slot o.slot⟩, s.withOrder { o with held := true }) := by
  rw [← updOrder_eq_withOrder hi ho (fun o => { o with held := true })]
  simp only [State.holdOrder, h, State.taken, orderReply]

theorem holdOrder_building (hi : s.Inv) (ho : s.order? o.slot = some o) (h : o.state = .building) :
    State.holdOrder o s = (⟨.ok, .slot o.slot⟩, s.withOrder { o with state := .held, held := true }) := by
  rw [← updOrder_eq_withOrder hi ho (fun o => { o with state := .held, held := true })]
  simp only [State.holdOrder, h, State.taken, orderReply]

theorem holdOrder_held (h : o.state = .held) : State.holdOrder o s = (⟨.ok, .slot o.slot⟩, s) := by
  simp only [State.holdOrder, h, State.taken, orderReply]

theorem resumeOrder_waiting (hi : s.Inv) (ho : s.order? o.slot = some o) (h : o.state = .loaded) (hb : o.bench = none)
    (hheld : o.held = true) :
    State.resumeOrder o s = (⟨.ok, .slot o.slot⟩, (s.withOrder { o with held := false }).bindPass) := by
  have hthere := withOrder_order hi ho (p := { o with held := false }) rfl
  have hbind : (s.withOrder { o with held := false }).bindIfWaiting o.slot = _ :=
    (bindIfWaiting_eq hthere).trans (if_pos ((isWaiting_iff (o := { o with held := false })).2 ⟨h, rfl, hb⟩))
  rw [← hbind, ← updOrder_eq_withOrder hi ho (fun o => { o with held := false })]
  simp only [State.resumeOrder, h, hheld, if_true, State.taken, orderReply]

theorem resumeOrder_loaded (hi : s.Inv) (ho : s.order? o.slot = some o) (h : o.state = .loaded)
    (hw : o.bench ≠ none ∨ o.held = false) :
    State.resumeOrder o s = (⟨.ok, .slot o.slot⟩, s.withOrder { o with held := false }) := by
  by_cases hheld : o.held = true
  · have hb : o.bench ≠ none := hw.resolve_right (by simp [hheld])
    have hthere := withOrder_order hi ho (p := { o with held := false }) rfl
    have hbind : (s.withOrder { o with held := false }).bindIfWaiting o.slot = _ :=
      (bindIfWaiting_eq hthere).trans
        (if_neg fun hwait => hb ((isWaiting_iff (o := { o with held := false })).1 hwait).2.2)
    rw [← hbind, ← updOrder_eq_withOrder hi ho (fun o => { o with held := false })]
    simp only [State.resumeOrder, h, hheld, if_true, State.taken, orderReply]
  · have hself : { o with held := false } = o := by cases o; simp_all
    rw [hself, withOrder_self hi ho]
    simp only [State.resumeOrder, h, hheld, State.taken, orderReply, Bool.false_eq_true, if_false]

theorem resumeOrder_held (hi : s.Inv) (ho : s.order? o.slot = some o) (h : o.state = .held) :
    State.resumeOrder o s = (⟨.ok, .slot o.slot⟩,
      ((s.withOrder { o with state := .building, held := false }).completionCheck o.slot).arbitrate) := by
  rw [← updOrder_eq_withOrder hi ho (fun o => { o with state := .building, held := false })]
  simp only [State.resumeOrder, h, State.taken, orderReply]

/-- An order that leaves the table takes its lines with it. -/
theorem sum_lines_filter {orders : List Order} (h : (orders.map (·.slot)).Nodup) (ho : o ∈ orders) :
    (orders.map (fun p => p.lines.length)).sum =
      o.lines.length + ((orders.filter (fun p => decide (p.slot ≠ o.slot))).map (fun p => p.lines.length)).sum := by
  induction orders with
  | nil => cases ho
  | cons p ps ih =>
    obtain ⟨hp, hps⟩ := List.nodup_cons.1 h
    rcases List.mem_cons.1 ho with rfl | hmem
    · have hrest : ps.filter (fun p => decide (p.slot ≠ o.slot)) = ps :=
        List.filter_eq_self.2 fun q hq => decide_eq_true fun heq => hp (List.mem_map.2 ⟨q, hq, heq⟩)
      rw [List.filter_cons_of_neg (by simp), hrest]
      rfl
    · have hne : p.slot ≠ o.slot := fun heq => hp (List.mem_map.2 ⟨o, hmem, heq.symm⟩)
      have := ih hps hmem
      simp only [ne_eq, hne, not_false_eq_true, decide_true, List.filter_cons_of_pos, List.map_cons, List.sum_cons] at *
      omega

end

/-- Settles O45: one equation per row of R19, and R22. -/
theorem holdResumeRetireFollowTheirTables : Obligations.HoldResumeRetireFollowTheirTables := by
  intro s rq ref o hi
  refine ⟨fun hn => ?hold, fun hn => ?resume, fun hn hdone => ?retire⟩
  all_goals have ho := named_order hi hn
  case hold =>
    exact ⟨fun h => named_next hn rfl rfl (holdOrder_loaded hi ho h),
      fun h => named_next hn rfl rfl (holdOrder_building hi ho h), fun h => named_next hn rfl rfl (holdOrder_held h)⟩
  case resume =>
    refine ⟨fun h hb hheld => named_reply (r := ⟨.ok, .slot o.slot⟩) hn rfl rfl (resumeOrder_waiting hi ho h hb hheld),
      fun h hw => named_reply (r := ⟨.ok, .slot o.slot⟩) hn rfl rfl (resumeOrder_loaded hi ho h hw),
      fun h => named_reply (r := ⟨.ok, .slot o.slot⟩) hn rfl rfl ?_,
      fun h => named_reply (r := ⟨.ok, .slot o.slot⟩) hn rfl rfl (resumeOrder_held hi ho h)⟩
    simp only [State.resumeOrder, h, State.taken, orderReply]
  case retire =>
    intro t
    have hret : State.retireOrder o s = (⟨.ok, .slot o.slot⟩, t) := by
      simp only [State.retireOrder, dropKey_eq]
      rfl
    have hmem : o ∈ s.book.orders := (look_some ho).1
    refine ⟨named_next hn rfl (by simpa [State.retirable] using hdone) hret, fun p hp => ?_, ?_⟩
    · exact of_decide_eq_true (List.mem_filter.1 hp).2
    · exact sum_lines_filter (List.pairwise_map.2 (hi.slots.imp fun h => Nat.ne_of_lt h)) hmem

/-! ### Declare Short, Restore Line and Close Line (R137 to R139) -/

/-- Settles O47: each request by the state of the line it names. -/
theorem lineRequestsFollowTheirTables : Obligations.LineRequestsFollowTheirTables := by
  intro s rq ref n o hi h1 h24 hopen
  have hv : lineNumberOk n = true := lineNumberOk_iff.2 ⟨h1, h24⟩
  have ha : openOrder o.state = true := openOrder_iff.2 hopen
  refine ⟨fun hn => ⟨fun hnone => ?_, fun l hl => ?short⟩, fun hn => ⟨fun hnone => ?_, fun l hl => ?restore⟩,
    fun hn => ⟨fun hnone => ?_, fun l hl => ?close⟩⟩
  case short =>
    have ho := named_order hi hn
    have hline := (line_eq h1).trans hl
    refine ⟨fun h => named_next hn hv ha ?_, fun h => named_next hn hv ha ?_, fun h => named_next hn hv ha ?_⟩
    · rw [← updLine_eq_withOrder hi ho hl (fun l => { l with state := .short, shortMark := true })]
      simp only [State.declareShort, hline, h, State.taken, orderReply]
    · simp only [State.declareShort, hline, h, State.taken, orderReply]
    · rcases h with h | h <;> simp only [State.declareShort, hline, h, State.refusedWith, orderReply]
  case restore =>
    have ho := named_order hi hn
    have hline := (line_eq h1).trans hl
    refine ⟨fun h => named_next hn hv ha ?_, fun h hmark => named_next hn hv ha ?_, fun h => named_next hn hv ha ?_,
      fun h => named_next hn hv ha ?_⟩
    · rw [← updLine_eq_withOrder hi ho hl (fun l =>
        { l with state := .opened, shortMark := false, lastProgress := s.clock.minute })]
      simp only [State.restoreLine, hline, h, State.taken, orderReply]
    · rw [← updLine_eq_withOrder hi ho hl (fun l => { l with shortMark := false, lastProgress := s.clock.minute })]
      simp only [State.restoreLine, hline, h, hmark, State.taken, orderReply, if_true]
    · rcases h with h | ⟨h, hmark⟩
      · simp only [State.restoreLine, hline, h, State.taken, orderReply]
      · simp only [State.restoreLine, hline, h, hmark, State.taken, orderReply, Bool.false_eq_true, if_false]
    · simp only [State.restoreLine, hline, h, State.refusedWith, orderReply]
  case close =>
    have ho := named_order hi hn
    have hline := (line_eq h1).trans hl
    refine ⟨fun h => named_next hn hv ha ?_, fun h => named_reply (r := ⟨.ok, .slot o.slot⟩) hn hv ha ?_⟩
    · simp only [State.closeLine, hline, h, State.taken, orderReply]
    · rw [← updLine_eq_withOrder hi ho hl (fun l => { l with state := .closed })]
      simp only [State.closeLine, hline, State.taken, orderReply, beq_iff_eq]
      cases hs : l.state with
      | closed => exact absurd hs h
      | opened => rfl
      | short => rfl
      | filled => rfl
  all_goals
    have hline := (line_eq h1).trans hnone
    refine named_next hn hv ha ?_
    simp only [State.declareShort, State.restoreLine, State.closeLine, hline, State.refusedWith, orderReply, bare]

end Sys2Proof.Machine
end

section
/-! SUPPORT. Amend Order (R15 to R18). -/

namespace Sys2Proof.Machine

open Sys2Proof

variable {c : Instr} {s t : State}

section

variable {o p : Order}

/-! ### What runs after an amendment (R12, R9, R25) -/

/-- R25: an order as much on the waiting list as another. -/
theorem waits_iff (h : p.isWaiting = o.isWaiting := by rfl) :
    p.isWaiting = true ↔ o.state = .loaded ∧ o.held = false ∧ o.bench = none := by
  rw [h, isWaiting_iff]

/-- Gate, completion check and binding after order p took the place of o. -/
theorem amended_checks (ht : t.Inv) (hp : t.order? o.slot = some p) (hw : p.isWaiting = o.isWaiting := by rfl) :
    ((t.recomputeGate o.slot).completionCheck o.slot).bindIfWaiting o.slot =
      if o.state = .loaded ∧ o.held = false ∧ o.bench = none then t.bindPass
      else (t.recomputeGate o.slot).completionCheck o.slot :=
  (checks_then_bind ht hp).trans (if_congr (waits_iff hw) rfl rfl)

/-- Gate and binding after order p took the place of o. -/
theorem amended_gate (ht : t.Inv) (hp : t.order? o.slot = some p) (hw : p.isWaiting = o.isWaiting := by rfl) :
    (t.recomputeGate o.slot).bindIfWaiting o.slot =
      if o.state = .loaded ∧ o.held = false ∧ o.bench = none then t.bindPass else t.recomputeGate o.slot :=
  (gate_then_bind ht hp).trans (if_congr (waits_iff hw) rfl rfl)

/-- Binding alone. -/
theorem amended_bind (h : t.order? o.slot = some p) (hw : p.isWaiting = o.isWaiting := by rfl) :
    t.bindIfWaiting o.slot = if o.state = .loaded ∧ o.held = false ∧ o.bench = none then t.bindPass else t := (bindIfWaiting_eq h).trans (if_congr (waits_iff hw) rfl rfl)

/-! ### The conditions of R16, R17 and R18 -/

/-- R18. -/
theorem heavyShut_iff (o : Order) : s.heavyShut o = true ↔
    o.fragileBegun = true ∨ ∃ b h, o.bench = some b ∧ s.hamper? b = some h ∧ h.baseClosed = true := by
  rw [State.heavyShut, Bool.or_eq_true]
  refine or_congr Iff.rfl ?_
  cases hb : o.bench with
  | none => simp
  | some b => cases hh : s.hamper? b <;> simp [hh]

/-- R17: the bench of a bound order cannot take the class. -/
theorem benchLacks_iff (o : Order) (k : ItemClass) : s.benchLacks o k = true ↔ ∃ b x, o.bench = some b ∧
    s.bench? b = some x ∧ (k = .chilled ∧ x.chilledCapable = false ∨ k = .heavy ∧ x.heavyCapable = false) := by
  rw [State.benchLacks]
  cases hb : o.bench with
  | none => simp
  | some b => cases hx : s.bench? b <;> simp [hx]

/-- R7, R16: the state of a line that is not CLOSED after its required count is set. -/
theorem settled_required {l : Line} {q : Nat} (hopen : l.state ≠ .closed) (hq : l.committed ≤ q) :
    ({ l with required := q } : Line).settled = { l with
      required := q
      state := if l.committed = q then .filled
        else if l.state = .filled then if l.shortMark = true then .short else .opened else l.state } := by
  have hle : q ≤ l.committed ↔ l.committed = q := by omega
  have hlt : l.committed < q ↔ ¬l.committed = q := by omega
  cases hs : l.state with
  | closed => exact absurd hs hopen
  | opened | short =>
    simp only [Line.settled, hle]
    split <;> simp_all
  | filled =>
    simp only [Line.settled, hlt]
    split <;> simp_all

/-! ### The change kinds -/

/-- R16: Set Quantity of a line that the order has. -/
theorem setQuantity_eq {n q : Nat} {l : Line} (hl : o.line? n = some l) : State.setQuantity n q o s =
    if l.state = .closed then (⟨.wrongState, .slot o.slot⟩, s)
    else if q < l.committed ∨ 96 < o.totalRequired - l.required + q then (⟨.badValue, .none⟩, s)
    else if l.cls = .heavy ∧ l.required < q ∧ s.heavyShut o = true then (⟨.wrongState, .slot o.slot⟩, s)
    else (⟨.ok, .slot o.slot⟩, (((s.updLine o.slot n (fun l => { l with required := q }.settled)).recomputeGate
      o.slot).completionCheck o.slot).bindIfWaiting o.slot) := by
  simp only [State.setQuantity, hl, State.refusedWith, State.taken, orderReply, bare, beq_iff_eq, Bool.and_eq_true,
    decide_eq_true_eq, and_assoc]
  rfl

/-- R17: Add Line. -/
theorem addLine_eq {k q g : Nat} {kc : ItemClass} : State.addLine k kc q g o s =
    if ∃ l ∈ o.lines, l.sku = k then (⟨.duplicate, .slot o.slot⟩, s)
    else if 24 ≤ o.lines.length ∨ 96 < o.totalRequired + q then (⟨.badValue, .none⟩, s)
    else if s.benchLacks o kc = true ∨ kc = .heavy ∧ s.heavyShut o = true then (⟨.wrongState, .slot o.slot⟩, s)
    else if 640 ≤ s.linesUsed then (⟨.noRoom, .slot o.slot⟩, s)
    else (⟨.ok, .slot o.slot⟩, ((s.updOrder o.slot (fun o => { o with lines := o.lines ++
      [s.newLine k kc q g] })).recomputeGate o.slot).bindIfWaiting o.slot) := by
  simp only [State.addLine, State.refusedWith, State.taken, orderReply, bare, beq_iff_eq, Bool.and_eq_true,
    List.any_eq_true]
  rw [← ite_or]
  rfl

/-- R17: Remove Line of a line that the order has. -/
theorem removeLine_eq {n : Nat} {l : Line} (hl : o.line? n = some l) : State.removeLine n o s =
    if l.committed ≠ 0 then (⟨.inUse, .slot o.slot⟩, s)
    else if o.lines.length ≤ 1 then (⟨.badValue, .none⟩, s)
    else (⟨.ok, .slot o.slot⟩, ((((s.updOrder o.slot (fun o => { o with lines := o.lines.eraseIdx (n - 1) })).renumber
      o.slot n).recomputeGate o.slot).completionCheck o.slot).bindIfWaiting o.slot) := by
  simp only [State.removeLine, hl, State.refusedWith, State.taken, orderReply, bare]

/-- R17: renumbering, said by the allocations. -/
theorem renumber_eq (slot n : Nat) (s : State) : s.renumber slot n = { s with
    items := s.items.map (fun i : Item => { i with alloc := i.alloc.map (fun a : Alloc =>
      if a.slot = slot ∧ n < a.line then { a with line := a.line - 1 } else a) }) } := by
  unfold State.renumber
  congr 1
  refine List.map_congr_left fun i _ => ?_
  cases h : i.alloc with
  | none => cases i; cases h; rfl
  | some a =>
    simp only [Option.map_some]
    split
    · rfl
    · cases i; cases h; rfl

/-- Renumbering keeps every table in order. -/
theorem renumber_inv {slot n : Nat} (hi : s.Inv) : (s.renumber slot n).Inv := (renumber_work slot n s).inv hi

/-- R17: a line removed. -/
theorem removeLine_done {n : Nat} {l : Line} (hi : s.Inv) (ho : s.order? o.slot = some o) (hl : o.line? n = some l)
    (h0 : l.committed = 0) (hlen : ¬o.lines.length ≤ 1) :
    State.removeLine n o s = (⟨.ok, .slot o.slot⟩,
      if o.state = .loaded ∧ o.held = false ∧ o.bench = none then
        ((s.withOrder { o with lines := o.lines.eraseIdx (n - 1) }).renumber o.slot n).bindPass
      else (((s.withOrder { o with lines := o.lines.eraseIdx (n - 1) }).renumber o.slot n).recomputeGate
        o.slot).completionCheck o.slot) := by
  refine (removeLine_eq hl).trans ((if_neg (not_not.2 h0)).trans ((if_neg hlen).trans (congrArg _ ?_)))
  rw [updOrder_eq_withOrder hi ho _ rfl]
  exact amended_checks (o := o) (p := { o with lines := o.lines.eraseIdx (n - 1) })
    (renumber_inv (withOrder_inv (p := { o with lines := o.lines.eraseIdx (n - 1) }) hi ho rfl))
    (withOrder_order (p := { o with lines := o.lines.eraseIdx (n - 1) }) hi ho rfl)

/-- R15: an order put on another wave. -/
theorem amendWave_done {w : Nat} (hi : s.Inv) (ho : s.order? o.slot = some o) (hshut : ¬s.waveShut w = true)
    (hw : w ≠ o.wave) (ht : t = { s.withOrder { o with wave := w, overdue := o.overdue || s.waveState w == .cut } with
      notices := if s.waveState w = .cut then s.notices.raised .orderOverdue else s.notices }) :
    State.amendWave w o s = (⟨.ok, .slot o.slot⟩,
      if o.state = .loaded ∧ o.held = false ∧ o.bench = none then t.bindPass else t) := by
  have hthere : t.order? o.slot = some { o with wave := w, overdue := o.overdue || s.waveState w == .cut } := by
    rw [ht]
    exact withOrder_order (p := { o with wave := w, overdue := o.overdue || s.waveState w == .cut }) hi ho rfl
  rw [← amended_bind hthere, State.amendWave, if_neg hshut, if_neg hw]
  refine congrArg (Prod.mk _) (congrArg (State.bindIfWaiting o.slot) ?_)
  rw [updOrder_eq_withOrder hi ho _ rfl, ht]
  by_cases hcut : s.waveState w = .cut
  · rw [if_pos (beq_iff_eq.2 hcut), if_pos hcut]
    rfl
  · rw [if_neg (mt beq_iff_eq.1 hcut), if_neg hcut]
    rfl

end

/-- Settles O44: each change kind by the cases of its owner, and what runs after it. -/
theorem amendOrderFollowsItsRules : Obligations.AmendOrderFollowsItsRules := by
  intro s rq ref o hi hvok hopen
  have ha : openOrder o.state = true := openOrder_iff.2 hopen
  refine ⟨fun n q hn1 hn24 hq1 hq12 hn => ?quantity, fun k cls q g kc hfields hclass hn => ?add,
    fun n hn1 hn24 hn => ?remove, fun p hp hn => ?priority, fun w hw1 hw8 hn => ?wave⟩
  all_goals have ho := named_order hi hn
  case quantity =>
    have hv : (rq.valueOk && lineNumberOk n && inRange 1 12 q) = true := by
      rw [hvok, lineNumberOk_iff.2 ⟨hn1, hn24⟩, inRange_iff.2 ⟨hq1, hq12⟩]
      rfl
    refine ⟨fun hnone => named_next hn hv ha ?_, fun l hl => ?_⟩
    · simp only [State.setQuantity, (line_eq hn1).trans hnone, State.refusedWith, orderReply, bare]
    · have hown := setQuantity_eq (s := s) (q := q) ((line_eq hn1).trans hl)
      have hshut := heavyShut_iff (s := s) o
      refine ⟨fun h => named_next hn hv ha (hown.trans (if_pos h)),
        fun h1 h2 => named_next hn hv ha ((hown.trans (if_neg h1)).trans (if_pos h2)), fun h1 h2 h3 => ?_⟩
      have hcount : ¬(q < l.committed ∨ 96 < o.totalRequired - l.required + q) := not_or.2 ⟨not_lt.2 h2, not_lt.2 h3⟩
      have hrest := (hown.trans (if_neg h1)).trans (if_neg hcount)
      refine ⟨fun h4 h5 h6 => named_next hn hv ha (hrest.trans (if_pos ⟨h4, h5, hshut.2 h6⟩)), fun h4 => ?_⟩
      refine named_reply (r := ⟨.ok, .slot o.slot⟩) hn hv ha ((hrest.trans (if_neg ?_)).trans (congrArg _ ?_))
      · exact fun h => h4 ⟨h.1, h.2.1, hshut.1 h.2.2⟩
      · rw [updLine_eq_withOrder hi ho hl, settled_required h1 h2]
        exact amended_checks (withOrder_inv hi ho rfl) (withOrder_order hi ho rfl)
  case add =>
    have hv : (rq.valueOk && lineFieldsOk k cls q g) = true := by rw [hvok, hfields]; rfl
    have hown := addLine_eq (s := s) (o := o) (k := k) (q := q) (g := g) (kc := kc)
    have hclass' : (classOfCode cls).getD .ambient = kc := by rw [hclass]; rfl
    rw [← hclass'] at hown
    have hlacks : (s.benchLacks o kc = true ∨ kc = .heavy ∧ s.heavyShut o = true) ↔ _ :=
      or_congr (benchLacks_iff o kc) (and_congr_right fun _ => heavyShut_iff o)
    refine ⟨fun h => named_next hn hv ha (hown.trans (if_pos h)), fun h1 => ?_⟩
    have h1' : ¬∃ l ∈ o.lines, l.sku = k := fun ⟨l, hl, h⟩ => h1 l hl h
    refine ⟨fun h2 => named_next hn hv ha ((hown.trans (if_neg h1')).trans (if_pos h2)), fun h2 h3 => ?_⟩
    have hcount : ¬(24 ≤ o.lines.length ∨ 96 < o.totalRequired + q) := not_or.2 ⟨not_le.2 h2, not_lt.2 h3⟩
    have hrest := (hown.trans (if_neg h1')).trans (if_neg hcount)
    rw [hclass'] at hrest
    refine ⟨fun h4 => named_next hn hv ha ?_, fun h4 => ?_⟩
    · rw [hclass']
      exact hrest.trans (if_pos (hlacks.2 h4))
    · have hrest := hrest.trans (if_neg (mt hlacks.1 h4))
      rw [← hclass'] at hrest
      refine ⟨fun h5 => named_next hn hv ha (hrest.trans (if_pos h5)), fun h5 =>
        named_reply (r := ⟨.ok, .slot o.slot⟩) hn hv ha ((hrest.trans (if_neg (not_le.2 h5))).trans (congrArg _ ?_))⟩
      rw [updOrder_eq_withOrder hi ho _ rfl, hclass']
      exact amended_gate (withOrder_inv hi ho rfl) (withOrder_order hi ho rfl)
  case remove =>
    have hv : (rq.valueOk && lineNumberOk n) = true := by rw [hvok, lineNumberOk_iff.2 ⟨hn1, hn24⟩]; rfl
    refine ⟨fun hnone => named_next hn hv ha ?_, fun l hl => ?_⟩
    · simp only [State.removeLine, (line_eq hn1).trans hnone, State.refusedWith, orderReply, bare]
    · have hown := removeLine_eq (s := s) ((line_eq hn1).trans hl)
      have hsome : 1 ≤ o.lines.length := by
        have := (List.getElem?_eq_some_iff.1 hl).1
        omega
      refine ⟨fun h => named_next hn hv ha (hown.trans (if_pos h)), fun h1 h2 => named_next hn hv ha
        ((hown.trans (if_neg (not_not.2 h1))).trans (if_pos h2.le)), fun h1 h2 => ?_⟩
      refine named_reply (r := ⟨.ok, .slot o.slot⟩) hn hv ha
        ((removeLine_done hi ho ((line_eq hn1).trans hl) h1 (by omega)).trans ?_)
      rw [renumber_eq]
      rfl
  case priority =>
    have hv : (rq.valueOk && inRange 0 3 p) = true := by rw [hvok, inRange_iff.2 ⟨p.zero_le, hp⟩]; rfl
    refine named_reply (r := ⟨.ok, .slot o.slot⟩) hn hv ha ?_
    simp only [State.setPriority, State.taken, orderReply]
    rw [updOrder_eq_withOrder hi ho _ rfl, amended_bind (withOrder_order (p := { o with priority := p }) hi ho rfl)]
  case wave =>
    have hv : (rq.valueOk && inRange 1 8 w) = true := by rw [hvok, inRange_iff.2 ⟨hw1, hw8⟩]; rfl
    refine ⟨fun h => named_next hn hv ha ?_, fun h => ?_⟩
    · rw [State.amendWave, if_pos ((waveShut_iff w).2 h)]
      rfl
    have hshut : ¬s.waveShut w = true := fun hs => by rcases (waveShut_iff w).1 hs with h' | h' <;> simp [h'] at h
    refine ⟨fun h1 => named_next hn hv ha ?_,
      fun h1 => named_reply (r := ⟨.ok, .slot o.slot⟩) hn hv ha (amendWave_done hi ho hshut h1 rfl)⟩
    rw [State.amendWave, if_neg hshut, if_pos h1]
    rfl

end Sys2Proof.Machine
end

section
/-! SUPPORT. The work that the meanings share: lines, gate, completion check, stalls, credits, releases, withdrawals (R5 to R12, R21,
R80, R89 to R91, R114, R116, R124, R127, R147). -/

namespace Sys2Proof.Machine

open Sys2Proof

variable {c : Instr} {s t : State}

/-! ### Lines and allocations (R5, R7, R12) -/

/-- R7. -/
def Line.Done (l : Line) : Prop := (l.state = .filled ∧ l.placed = l.required) ∨ (l.state = .closed ∧ l.placed = l.committed)

theorem complete_iff (l : Line) : l.complete = true ↔ l.Done := by simp [Line.complete, Line.Done]

theorem allocatedTo_iff (i : Item) (slot : Nat) : i.allocatedTo slot = true ↔ ∃ a, i.alloc = some a ∧ a.slot = slot := by
  rw [Item.allocatedTo]
  cases i.alloc <;> simp

theorem settled_unfilled {l : Line} (h : l.state = .opened ∨ l.state = .short) :
    l.settled = if l.required ≤ l.committed then { l with state := .filled } else l := by
  rcases h with h | h <;> simp only [Line.settled, h]

theorem settled_filled {l : Line} (h : l.state = .filled) :
    l.settled = if l.committed < l.required then { l with state := if l.shortMark then .short else .opened } else l := by
  simp only [Line.settled, h]

theorem settled_closed {l : Line} (h : l.state = .closed) : l.settled = l := by simp only [Line.settled, h]

/-- R80, R114: what a released unit does to its line. -/
theorem release_eq (rank : Nat) (l : Line) : l.release rank = { l with
    committed := l.committed - 1
    substituted := l.substituted - (if rank = 0 then 0 else 1) }.settled := by
  unfold Line.release
  split
  · rfl
  · rfl

theorem lineHeavy_iff (s : State) (slot n : Nat) : s.lineHeavy slot n = true ↔
    ∃ o l, s.order? slot = some o ∧ 1 ≤ n ∧ o.lines[n - 1]? = some l ∧ l.cls = .heavy := by
  rw [State.lineHeavy]
  cases ho : s.order? slot with
  | none => simp
  | some o =>
    rcases Nat.eq_zero_or_pos n with rfl | hn
    · simp [Order.line?]
    · rw [Option.bind_some, line_eq hn]
      cases hl : o.lines[n - 1]? with
      | none => simp [hl]
      | some l => simp [hl, Nat.succ_le_of_lt hn]

/-! ### The hamper (R114, R116) -/

theorem zone_updZone_same (h : Hamper) (z : Zone) (f : ZoneRec → ZoneRec) : (h.updZone z f).zone z = f (h.zone z) := by
  cases z <;> rfl

theorem zone_updZone_other (h : Hamper) {z y : Zone} (hy : y ≠ z) (f : ZoneRec → ZoneRec) :
    (h.updZone z f).zone y = h.zone y := by
  cases z <;> cases y <;> simp_all [Hamper.updZone, Hamper.zone]

/-- R77: a zone whose slots keep their number leaves the numbering. -/
theorem firstSlot_updZone (h : Hamper) (z y : Zone) (f : ZoneRec → ZoneRec)
    (hf : ∀ r, (f r).slots.length = r.slots.length) : (h.updZone z f).firstSlot y = h.firstSlot y := by
  cases z <;> cases y <;> simp [Hamper.updZone, Hamper.firstSlot, hf]

/-- What a released unit does to its zone, the slots aside. -/
def ZoneRec.freed (vu : Nat) (r : ZoneRec) : ZoneRec :=
  { r with committed := r.committed - vu, capacity := if r.clamped then r.capacity - vu else r.capacity }

theorem updZone_updZone (h : Hamper) (z : Zone) (f g : ZoneRec → ZoneRec) :
    (h.updZone z f).updZone z g = h.updZone z (fun r => g (f r)) := by
  cases z <;> rfl

theorem vacate_eq (h : Hamper) (z : Zone) (n mass vu : Nat) : h.vacate z n mass vu =
    { h with mass := h.mass - mass }.updZone z (fun r =>
      { r.freed vu with slots := r.slots.set (n - h.firstSlot z) .free }) := by
  have hfirst : ({ h with mass := h.mass - mass }.updZone z (ZoneRec.freed vu)).firstSlot z = h.firstSlot z :=
    firstSlot_updZone { h with mass := h.mass - mass } z z _ fun _ => rfl
  have hset := updZone_updZone { h with mass := h.mass - mass } z (ZoneRec.freed vu)
    (fun r => { r with slots := r.slots.set (n - h.firstSlot z) .free })
  rw [← hfirst] at hset ⊢
  exact hset

/-! ### The gate (R12) -/

theorem gateOf_opened_iff (ls : List Line) : gateOf ls = .opened ↔ ∀ l ∈ ls, l.cls = .heavy → l.complete = true := by
  have hall : ls.all (fun l => !(l.cls == .heavy) || l.complete) = true ↔ ∀ l ∈ ls, l.cls = .heavy → l.complete = true := by
    simp only [List.all_eq_true, Bool.or_eq_true, Bool.not_eq_true', beq_eq_false_iff_ne, ne_eq, Decidable.imp_iff_not_or]
  rw [← hall, gateOf]
  split <;> simp [*]

theorem gateOf_eq (ls : List Line) :
    gateOf ls = if ∀ l ∈ ls, l.cls = .heavy → l.complete = true then .opened else .shut := by
  split
  case isTrue h => exact (gateOf_opened_iff ls).2 h
  case isFalse h =>
    have := mt (gateOf_opened_iff ls).1 h
    cases hg : gateOf ls
    · exact absurd hg this
    · rfl

/-- R12: every HEAVY line of an order is complete. -/
def Order.HeavyDone (o : Order) : Prop := ∀ l ∈ o.lines, l.cls = .heavy → l.Done

theorem heavyDone_iff (o : Order) : gateOf o.lines = .opened ↔ o.HeavyDone := by
  simp only [gateOf_opened_iff, complete_iff, Order.HeavyDone]

theorem gateOpens_iff (s : State) (slot : Nat) : s.gateOpens slot = true ↔
    ∃ o, s.order? slot = some o ∧ o.bench ≠ none ∧ o.topGate = some .shut ∧ o.HeavyDone := by
  rw [State.gateOpens]
  cases ho : s.order? slot with
  | none => simp
  | some o => simp [← heavyDone_iff, and_assoc]

/-- R12: the gate of the order in a slot evaluated, where it has one. -/
def State.gateJudged (s : State) (slot : Nat) : State :=
  { s with book := { s.book with orders := s.book.orders.map (fun o : Order =>
    if o.slot = slot ∧ o.bench ≠ none ∧ o.topGate ≠ none then { o with
      topGate := some (if ∀ l ∈ o.lines, l.cls = .heavy → l.complete = true then .opened else .shut) } else o) } }

/-- R12: the waits for the gate end. -/
def State.gateWaitsOver (s : State) (slot : Nat) : State :=
  { s with items := s.items.map (fun i : Item =>
    if i.wait = .topGate ∧ (∃ a, i.alloc = some a ∧ a.slot = slot) then { i with wait := .none } else i) }

theorem clearWaits_gate (s : State) (slot : Nat) : s.clearWaits slot .topGate = s.gateWaitsOver slot := by
  unfold State.clearWaits State.gateWaitsOver
  congr 1
  refine List.map_congr_left fun i _ => if_congr ?_ rfl rfl
  rw [Bool.and_eq_true, allocatedTo_iff, beq_iff_eq, and_comm]

theorem gateJudged_eq (s : State) (slot : Nat) : s.updOrder slot (fun o =>
    if o.bench != none && o.topGate != none then { o with topGate := some (gateOf o.lines) } else o) = s.gateJudged slot := by
  rw [updOrder_eq]
  unfold State.gateJudged
  congr 1
  refine congrArg (Book.mk · s.book.loadSeq) (List.map_congr_left fun o _ => ?_)
  by_cases hs : o.slot = slot
  · simp only [hs, if_true, true_and, Bool.and_eq_true, bne_iff_ne, gateOf_eq]
  · simp only [hs, if_false, false_and]

theorem setGate_shut {slot : Nat} (h : ¬s.gateOpens slot = true) : s.setGate slot = s.gateJudged slot :=
  (if_neg h).trans (gateJudged_eq s slot)

theorem setGate_opens {slot : Nat} (h : s.gateOpens slot = true) :
    s.setGate slot = (s.gateJudged slot).gateWaitsOver slot := by
  refine (if_pos h).trans ?_
  rw [gateJudged_eq, clearWaits_gate]

theorem recomputeGate_shut {slot : Nat} (h : ¬s.gateOpens slot = true) : s.recomputeGate slot = s.gateJudged slot :=
  (if_neg h).trans (setGate_shut h)

theorem recomputeGate_opens {slot : Nat} (h : s.gateOpens slot = true) :
    s.recomputeGate slot = ((s.gateJudged slot).gateWaitsOver slot).arbitrate :=
  (if_pos h).trans (congrArg State.arbitrate (setGate_opens h))

/-- R12: an order without a gate. -/
theorem gateJudged_none (hi : s.Inv) {o : Order} (ho : s.order? o.slot = some o) (h : o.bench = none ∨ o.topGate = none) :
    s.gateJudged o.slot = s := by
  have hf : ∀ k : Order, k = o → (if k.bench != none && k.topGate != none then
      { k with topGate := some (gateOf k.lines) } else k) = o := by
    rintro k rfl
    exact if_neg (by rcases h with h | h <;> simp [h])
  rw [← gateJudged_eq, updOrder_eq_withOrder hi ho _ (by rw [hf o rfl]), hf o rfl, withOrder_self hi ho]

/-- R12: an order with a gate. -/
theorem gateJudged_bound (hi : s.Inv) {o : Order} (ho : s.order? o.slot = some o) (hb : o.bench ≠ none)
    (hg : o.topGate ≠ none) : s.gateJudged o.slot = s.withOrder { o with topGate := some (gateOf o.lines) } := by
  have hf : (if o.bench != none && o.topGate != none then { o with topGate := some (gateOf o.lines) } else o) =
      { o with topGate := some (gateOf o.lines) } := if_pos (by simp [hb, hg])
  rw [← gateJudged_eq, updOrder_eq_withOrder hi ho _ (by rw [hf]), hf]

/-! ### The completion check (R9, R10) -/

theorem hamper_of_bench {b : Nat} {x : Bench} (hb : s.bench? b = some x) : s.hamper? b = x.hamper := by
  rw [State.hamper?, hb]
  rfl

theorem orderComplete_iff {o : Order} {b : Nat} {x : Bench} (hb : o.bench = some b) (hx : s.bench? b = some x) :
    s.orderComplete o = true ↔ o.state = .building ∧ (∀ l ∈ o.lines, l.Done) ∧
      (∀ i ∈ s.items, (∃ a, i.alloc = some a ∧ a.slot = o.slot) → i.location = .inHamper ∧
        (∀ m, i.outstanding ≠ .ret m) ∧ ∀ m, i.outstanding ≠ .pull m) ∧ ∀ h, x.hamper = some h → h.places = [] := by
  rw [State.orderComplete, Bool.and_eq_true, Bool.and_eq_true, Bool.and_eq_true, and_assoc, and_assoc]
  refine and_congr beq_iff_eq (and_congr ?lines (and_congr ?items ?places))
  case lines => simp only [List.all_eq_true, complete_iff]
  case items =>
    rw [List.all_eq_true]
    refine forall₂_congr fun i _ => ?_
    rw [← allocatedTo_iff, Bool.or_eq_true, Bool.not_eq_true', Bool.and_eq_true, beq_iff_eq, ← Bool.not_eq_true,
      ← Decidable.imp_iff_not_or]
    cases i.outstanding <;> simp
  case places =>
    rw [hb, Option.bind_some, hamper_of_bench hx]
    cases x.hamper <;> simp

theorem completionCheck_open {o : Order} (ho : s.order? o.slot = some o) (h : ¬s.orderComplete o = true) :
    s.completionCheck o.slot = s := by
  simp only [State.completionCheck, ho, h, Bool.false_eq_true, if_false]

theorem completionCheck_done (hi : s.Inv) {o : Order} {b : Nat} (ho : s.order? o.slot = some o) (hb : o.bench = some b)
    (h : s.orderComplete o = true) (hsome : 1 ≤ (o.lines.map (·.placed)).sum) : s.completionCheck o.slot =
      ({ s.withOrder { o with state := .complete } with notices := s.notices.raised .orderComplete } : State).sealTry b := by
  have hplaced : 1 ≤ o.totalPlaced := hsome
  simp only [State.completionCheck, ho, h, hplaced, if_true]
  rw [updOrder_eq_withOrder hi ho _ rfl, hb]
  rfl

theorem completionCheck_empty {o : Order} (ho : s.order? o.slot = some o) (h : s.orderComplete o = true)
    (hnone : (o.lines.map (·.placed)).sum = 0) : s.completionCheck o.slot = s.enterCancelling o.slot := by
  have hplaced : ¬1 ≤ o.totalPlaced := by rw [Order.totalPlaced, hnone]; decide
  simp only [State.completionCheck, ho, h, hplaced, if_true, if_false]

/-! ### Stalls (R127) -/

/-- R127: a tag of a bench's placement list bears its mark. -/
def Bench.Marked (x : Bench) : Prop := ∃ h, x.hamper = some h ∧ ∃ e ∈ h.places, e.timedOut = true

theorem judgeStall_stands {b : Nat} {x : Bench} (hx : s.bench? b = some x) (h : x.stalled = false ∨ x.Marked) :
    s.judgeStall b = s := by
  simp only [State.judgeStall, hx]
  refine if_neg fun hc => ?_
  rw [Bool.and_eq_true] at hc
  rcases h with h | ⟨g, hg, e, he, hmark⟩
  · simp [h] at hc
  · have : g.places.any (·.timedOut) = true := List.any_eq_true.2 ⟨e, he, hmark⟩
    simp [hg, this] at hc

theorem judgeStall_ends {b : Nat} {x : Bench} (hx : s.bench? b = some x) (hs : x.stalled = true) (hm : ¬x.Marked) :
    s.judgeStall b = ({ s with benches := s.benches.map (fun y : Bench =>
      if y.number = b then { y with stalled := false } else y) } : State).placeTry b := by
  rw [← updBench_eq s b (fun y => { y with stalled := false })]
  simp only [State.judgeStall, hx]
  refine if_pos ?_
  rw [hs, Bool.true_and, Bool.not_eq_true', ← Bool.not_eq_true]
  intro hc
  cases hg : x.hamper with
  | none => simp [hg] at hc
  | some g =>
    rw [hg] at hc
    obtain ⟨e, he, hmark⟩ := List.any_eq_true.1 hc
    exact hm ⟨g, hg, e, he, hmark⟩

end Sys2Proof.Machine
end

section
/-! SUPPORT. The work on one item: releases, withdrawals, Return and Pull, credits (R21, R80, R89 to R91, R124, R147), and what the
shared work comes to. -/

namespace Sys2Proof.Machine

open Sys2Proof

variable {c : Instr} {s t : State}

/-! ### A record read after it was updated -/

theorem order_updOrder_same {slot : Nat} {o : Order} (ho : s.order? slot = some o) (f : Order → Order)
    (hf : ∀ o, (f o).slot = o.slot := by exact fun _ => rfl) : (s.updOrder slot f).order? slot = some (f o) :=
  (look_amend_same hf s.book.orders).trans (congrArg (Option.map f) ho)

theorem bench_updBench_same {b : Nat} {x : Bench} (hx : s.bench? b = some x) (f : Bench → Bench)
    (hf : ∀ x, (f x).number = x.number := by exact fun _ => rfl) : (s.updBench b f).bench? b = some (f x) :=
  (look_amend_same hf s.benches).trans (congrArg (Option.map f) hx)

/-! ### Releasing an allocation (R80) -/

/-- R80: the line, the hamper and the item record at a release. -/
def State.released (s : State) (i : Item) (a : Alloc) : State :=
  { s with
    book := { s.book with orders := s.book.orders.map (fun o : Order => if o.slot = a.slot then
      { o with lines := o.lines.modify (a.line - 1) (fun l : Line => { l with
        committed := l.committed - 1
        substituted := l.substituted - (if a.rank = 0 then 0 else 1) }.settled) } else o) }
    benches := s.benches.map (fun y : Bench => if y.number = a.bench then
      { y with hamper := y.hamper.map (Hamper.vacate a.zone a.slotNo i.mass i.vu) } else y)
    items := s.items.map (fun j : Item => if j.tag = i.tag then { j with alloc := none, wait := .none } else j) }

theorem releaseCore_eq {i : Item} {a : Alloc} (hi : s.item? i.tag = some i) (ha : i.alloc = some a) :
    s.releaseCore i.tag = s.released i a := by
  simp only [State.releaseCore, hi, ha, State.updLine]
  rw [updOrder_eq, updHamper_eq, updItem_eq]
  simp only [funext (release_eq a.rank)]
  rfl

theorem releaseAlloc_none {i : Item} (hi : s.item? i.tag = some i) (ha : i.alloc = none) : s.releaseAlloc i.tag = s := by
  simp only [State.releaseAlloc, hi, ha]

theorem releaseAlloc_eq {i : Item} {a : Alloc} (hi : s.item? i.tag = some i) (ha : i.alloc = some a) :
    s.releaseAlloc i.tag = (if s.lineHeavy a.slot a.line then (s.released i a).recomputeGate a.slot
      else s.released i a).completionCheck a.slot := by
  simp only [State.releaseAlloc, hi, ha, releaseCore_eq hi ha]

/-! ### A pending withdrawal (R21, R132) -/

/-- R21: a pending withdrawal taken off its order. -/
def State.withdrawn (s : State) (i : Item) (slot : Nat) : State :=
  { s with
    items := s.items.map (fun j : Item => if j.tag = i.tag then { j with withdrawal := none } else j)
    book := { s.book with orders := s.book.orders.map (fun p : Order => if p.slot = slot then
      { p with withdrawals := p.withdrawals - 1 } else p) } }

theorem withdrawn_eq (s : State) (i : Item) (slot : Nat) : (s.updItem i.tag (fun x => { x with withdrawal := none })).updOrder slot
    (fun o => { o with withdrawals := o.withdrawals - 1 }) = s.withdrawn i slot := by
  rw [updItem_eq, updOrder_eq]
  rfl

theorem withdrawn_order {i : Item} {slot : Nat} {o : Order} (ho : s.order? slot = some o) :
    (s.withdrawn i slot).order? slot = some { o with withdrawals := o.withdrawals - 1 } := by
  rw [← withdrawn_eq]
  exact order_updOrder_same (s := s.updItem i.tag _) ho _

theorem answerWithdrawal_none {i : Item} (hi : s.item? i.tag = some i) (hw : i.withdrawal = none) :
    s.answerWithdrawal i.tag = s := by
  simp only [State.answerWithdrawal, hi, Option.bind_some, hw]

theorem answerWithdrawal_eq {i : Item} {slot : Nat} (hi : s.item? i.tag = some i) (hw : i.withdrawal = some slot) :
    s.answerWithdrawal i.tag = if (s.withdrawn i slot).cancelDone slot then (s.withdrawn i slot).becomeCancelled slot
      else s.withdrawn i slot := by
  simp only [State.answerWithdrawal, hi, Option.bind_some, hw, withdrawn_eq]

/-- R21: the last withdrawal of a CANCELLING order whose Unpacked has come. -/
theorem cancelDone_iff {i : Item} {slot : Nat} {o : Order} (ho : s.order? slot = some o) :
    (s.withdrawn i slot).cancelDone slot = true ↔ o.state = .cancelling ∧ o.withdrawals ≤ 1 ∧
      ∃ b x, o.bench = some b ∧ s.bench? b = some x ∧ x.unpacked = true := by
  rw [State.cancelDone, withdrawn_order ho]
  have hbench : (s.withdrawn i slot).bench? = s.bench? := rfl
  dsimp only
  rw [hbench, Bool.and_eq_true, Bool.and_eq_true, beq_iff_eq, beq_iff_eq, and_assoc]
  refine and_congr Iff.rfl (and_congr (by omega) ?_)
  cases hb : o.bench with
  | none => simp
  | some b => cases hx : s.bench? b <;> simp [hx]

/-- R132: a bench handed back. -/
theorem handBack_eq {b : Nat} {x : Bench} (hx : s.bench? b = some x) : s.handBack b =
    if x.staffed then ({ s with benches := s.benches.map (fun y : Bench => if y.number = b then { y with
        orderSlot := none, hamper := none, unpacked := false, stalled := false
        state := if y.staffed then .idle else .closed } else y) } : State).bindPass
    else { s with benches := s.benches.map (fun y : Bench => if y.number = b then { y with
        orderSlot := none, hamper := none, unpacked := false, stalled := false
        state := if y.staffed then .idle else .closed } else y) } := by
  rw [← updBench_eq]
  have hthere : (s.updBench b (fun y => { y with
      orderSlot := none, hamper := none, unpacked := false, stalled := false
      state := if y.staffed then .idle else .closed })).bench? b = some { x with
      orderSlot := none, hamper := none, unpacked := false, stalled := false
      state := if x.staffed then .idle else .closed } := bench_updBench_same hx _
  simp only [State.handBack, hthere]
  cases x.staffed <;> rfl

/-- R21, R132: the order in a slot CANCELLED, its bench handed back. -/
def State.cancelledAt (s : State) (slot b : Nat) : State :=
  { s with
    book := { s.book with orders := s.book.orders.map (fun p : Order => if p.slot = slot then
      { p with state := .cancelled, bench := none } else p) }
    notices := s.notices.raised .orderCancelled
    benches := s.benches.map (fun y : Bench => if y.number = b then { y with
        orderSlot := none, hamper := none, unpacked := false, stalled := false
        state := if y.staffed then .idle else .closed } else y) }

theorem becomeCancelled_bound {slot b : Nat} {o : Order} {x : Bench} (ho : s.order? slot = some o) (hb : o.bench = some b)
    (hx : s.bench? b = some x) :
    s.becomeCancelled slot = if x.staffed then (s.cancelledAt slot b).bindPass else s.cancelledAt slot b := by
  simp only [State.becomeCancelled, ho, hb]
  rw [updOrder_eq]
  exact handBack_eq (s := ({ s with book := _ } : State).raiseNotice .orderCancelled) (x := x) hx

/-! ### Return and Pull (R124, R147) -/

/-- An instruction of a bench sent for an item. -/
def State.instructed (s : State) (i : Item) (b : Nat) (r : OutRecord) (out : Outstanding) : State :=
  { s with items := s.items.map (fun j : Item => if j.tag = i.tag then { j with outstanding := out } else j) : State }.withSent
    (.bench b) r

theorem instructed_eq (s : State) (i : Item) (b : Nat) (r : OutRecord) (out : Outstanding) :
    (s.send (.bench b) r).updItem i.tag (fun x => { x with outstanding := out }) = s.instructed i b r out := by
  rw [updItem_eq]
  rfl

theorem sendPull_eq (s : State) (i : Item) (b : Nat) :
    s.sendPull b i.tag = s.instructed i b (.pull i.tag) (.pull s.clock.minute) := instructed_eq s i b _ _

theorem sendReturn_sent {i : Item} {b m : Nat} (hi : s.item? i.tag = some i) (h : i.outstanding = .ret m) :
    s.sendReturn b i.tag = s := by
  simp only [State.sendReturn, hi, h]

theorem sendReturn_sends {i : Item} {b : Nat} (hi : s.item? i.tag = some i)
    (h : i.outstanding = .none ∨ ∃ m, i.outstanding = .pull m) :
    s.sendReturn b i.tag = s.instructed i b (.ret i.tag) (.ret s.clock.minute) := by
  rw [← instructed_eq]
  rcases h with h | ⟨m, h⟩ <;> simp only [State.sendReturn, hi, h]

/-- R120: a tag off the placement list of a bench. -/
def State.unlisted (s : State) (i : Item) (b : Nat) : State :=
  { s with benches := s.benches.map (fun y : Bench => if y.number = b then
    { y with hamper := y.hamper.map (fun h : Hamper =>
      { h with places := h.places.filter (fun e => decide (e.tag ≠ i.tag)) }) } else y) }

theorem unlisted_eq (s : State) (i : Item) (b : Nat) : s.dropPlace b i.tag = s.unlisted i b := by
  rw [State.dropPlace, updHamper_eq]
  simp only [bne_decide]
  rfl

theorem sendReturn_replaces {i : Item} {b m : Nat} (hi : s.item? i.tag = some i) (h : i.outstanding = .place m) :
    s.sendReturn b i.tag =
      (((s.unlisted i b).instructed i b (.ret i.tag) (.ret s.clock.minute)).judgeStall b).placeTry b := by
  rw [← instructed_eq, ← unlisted_eq]
  simp only [State.sendReturn, hi, h]

/-! ### Credits (R89, R90) -/

/-- The hold of an item set. -/
def State.holding (s : State) (i : Item) (h : Hold) : State :=
  { s with items := s.items.map (fun j : Item => if j.tag = i.tag then { j with hold := h } else j) }

theorem returnChute_none {i : Item} (hi : s.item? i.tag = some i) (h : i.hold.chuteAt = none) : s.returnChute i.tag = s := by
  refine if_neg ?_
  rw [State.holdsChute, hi]
  cases hh : i.hold <;> simp_all [Hold.chuteAt]

theorem returnCommon_none {i : Item} (hi : s.item? i.tag = some i) (h : i.hold.commonAt = none) :
    s.returnCommon i.tag = s := by
  rw [State.returnCommon, hi]
  cases hh : i.hold <;> simp_all [Hold.commonAt]

theorem returnChute_chute {i : Item} {b : Nat} (hi : s.item? i.tag = some i) (h : i.hold = .chute b) :
    s.returnChute i.tag = ((s.holding i .none).credited i.vu (some b) none).arbitrate := by
  simp only [State.returnChute, State.holdsChute, State.dropChuteHold, hi, h, if_true]
  rw [credited_chute, updItem_eq]
  rfl

theorem returnChute_both {i : Item} {b : Nat} (hi : s.item? i.tag = some i) (h : i.hold = .both b) :
    s.returnChute i.tag = ((s.holding i (.common b)).credited i.vu (some b) none).arbitrate := by
  simp only [State.returnChute, State.holdsChute, State.dropChuteHold, hi, h, if_true]
  rw [credited_chute, updItem_eq]
  rfl

theorem returnCommon_common {i : Item} {b : Nat} (hi : s.item? i.tag = some i) (h : i.hold = .common b) :
    s.returnCommon i.tag = (s.holding i .none).credited i.vu none (some b) := by
  simp only [State.returnCommon, hi, h]
  rw [credited_common, updItem_eq]
  rfl

theorem returnCommon_both {i : Item} {b : Nat} (hi : s.item? i.tag = some i) (h : i.hold = .both b) :
    s.returnCommon i.tag = (s.holding i (.chute b)).credited i.vu none (some b) := by
  simp only [State.returnCommon, hi, h]
  rw [credited_common, updItem_eq]
  rfl

/-- R85: what a return to a chute adds. -/
theorem credited_toChute (s : State) (vu b : Nat) : s.credited vu (some b) none =
    { s with chutes := s.chutes.map (fun c : Chute => if c.bench = b then
      { c with freeItems := c.freeItems + 1, freeVu := c.freeVu + vu } else c) } := by
  rw [← credited_chute, State.giveChute, updChute_eq]

/-- R86: what a return to the pool adds and takes. -/
theorem credited_toPool (s : State) (vu b : Nat) : s.credited vu none (some b) = { s with
    pool := { s.pool with freeItems := s.pool.freeItems + 1, freeVu := s.pool.freeVu + vu }
    chutes := s.chutes.map (fun c : Chute => if c.bench = b then
      { c with heldItems := c.heldItems - 1, heldVu := c.heldVu - vu } else c) } := by
  rw [← credited_common, State.giveCommon, updChute_eq]

/-! ### The shared work -/

/-- Settles O16: each piece by its lemma. -/
theorem sharedWorkFollowsItsRules : Obligations.SharedWorkFollowsItsRules := by
  refine ⟨eitherOrder_cases, fun l => ⟨complete_iff l, settled_unfilled, settled_filled, settled_closed⟩,
    fun h z n mass vu => ?hamper, lineHeavy_iff, fun s slot => ?gate, fun s o hi ho => ?gated, fun s o b x hi ho hb hx => ?check,
    fun s b x hx => ⟨judgeStall_stands hx, judgeStall_ends hx⟩, fun s vu b => ?credits, fun s i hi => ?item⟩
  case hamper =>
    have hv := vacate_eq h z n mass vu
    refine ⟨?_, fun y hy => ?_, ?_, ?_⟩
    · rw [hv]
      cases z <;> rfl
    · rw [hv, zone_updZone_other _ hy]
      cases y <;> rfl
    · rw [hv, zone_updZone_same]
      cases z <;> rfl
    · rw [hv]
      cases z <;> rfl
  case gate =>
    have hopens := gateOpens_iff s slot
    exact ⟨fun h => ⟨setGate_shut (mt hopens.1 h), recomputeGate_shut (mt hopens.1 h)⟩,
      fun h => ⟨setGate_opens (hopens.2 h), recomputeGate_opens (hopens.2 h)⟩⟩
  case gated =>
    have hopens : s.gateOpens o.slot = true ↔ o.bench ≠ none ∧ o.topGate = some .shut ∧ o.HeavyDone := by
      rw [gateOpens_iff, ho]
      simp
    refine ⟨fun h => ?_, fun hb hg hd => ?_, fun hb hg hd => ?_, fun hb hg hd => ?_⟩
    · refine (recomputeGate_shut fun hc => ?_).trans (gateJudged_none hi ho h)
      obtain ⟨h1, h2, -⟩ := hopens.1 hc
      rcases h with h | h
      · exact h1 h
      · rw [h] at h2
        cases h2
    · refine (recomputeGate_shut fun hc => ?_).trans ((gateJudged_bound hi ho hb (by rw [hg]; simp)).trans ?_)
      · obtain ⟨-, h2, -⟩ := hopens.1 hc
        rw [hg] at h2
        cases h2
      · have hsame : { o with topGate := some (gateOf o.lines) } = o := by
          rw [(heavyDone_iff o).2 hd, ← hg]
        rw [hsame, withOrder_self hi ho]
    · refine (recomputeGate_shut fun hc => hd (hopens.1 hc).2.2).trans ((gateJudged_bound hi ho hb hg).trans ?_)
      have hshut : gateOf o.lines = .shut := by
        have := mt (heavyDone_iff o).1 hd
        cases h : gateOf o.lines
        · exact absurd h this
        · rfl
      rw [hshut]
    · refine (recomputeGate_opens (hopens.2 ⟨hb, hg, hd⟩)).trans ?_
      rw [gateJudged_bound hi ho hb (by rw [hg]; simp), (heavyDone_iff o).2 hd]
      rfl
  case check =>
    have hdone := orderComplete_iff hb hx
    exact ⟨fun h => completionCheck_open ho (mt hdone.1 h), fun h => completionCheck_done hi ho hb (hdone.2 h),
      fun h => completionCheck_empty ho (hdone.2 h)⟩
  case credits =>
    exact ⟨credited_toChute s vu b, credited_toPool s vu b, fun d => (credited_both s vu b d).symm, credited_none s vu, rfl, rfl,
      rfl, rfl, rfl, rfl, rfl, rfl⟩
  case item =>
    refine ⟨releaseAlloc_none hi, fun a ha => releaseAlloc_eq hi ha, answerWithdrawal_none hi, fun slot o hw ho => ?withdrawal,
      fun b => ⟨fun ⟨m, h⟩ => sendReturn_sent hi h, fun ⟨m, h⟩ => sendReturn_replaces hi h, sendReturn_sends hi,
        sendPull_eq s i b⟩, returnChute_none hi, returnCommon_none hi, ⟨fun b => returnChute_chute hi, fun b => returnCommon_common hi,
        fun b h => ⟨returnChute_both hi h, returnCommon_both hi h⟩⟩, freeItem_eq hi⟩
    have hown := answerWithdrawal_eq hi hw
    have hdone := cancelDone_iff (i := i) ho
    refine ⟨fun h => hown.trans (if_neg fun hc => ?_), fun b x h1 h2 hb hx hu => ?_⟩
    · obtain ⟨h1, h2, b, x, hb, hx, hu⟩ := hdone.1 hc
      rcases h with h | h | h
      · exact h h1
      · omega
      · simp [h b x hb hx] at hu
    · refine (hown.trans (if_pos (hdone.2 ⟨h1, h2, b, x, hb, hx, hu⟩))).trans ?_
      exact becomeCancelled_bound (withdrawn_order ho) hb hx

end Sys2Proof.Machine
end

section
/-! SUPPORT. A dwell expiry, the shortage pass and the timeout of a Place (R127, R136, R143 to R147). -/

namespace Sys2Proof.Machine

open Sys2Proof

variable {c : Instr} {s t : State}

/-! ### A dwell expiry (R143 to R147) -/

theorem expireItem_other {tag : Nat} (h : ∀ i, s.item? tag = some i → ¬s.dwellDue i = true) : s.expireItem tag = s := by
  rw [State.expireItem]
  cases hi : s.item? tag with
  | none => rfl
  | some i => exact if_neg (h i hi)

/-- R143: an item marked expired and reported. -/
def State.expiryReported (s : State) (i : Item) (detail : Nat) : State :=
  { s with items := s.items.map (fun j : Item => if j.tag = i.tag then { j with expired := true } else j) : State }.raiseFault
    .dwellExpired ⟨some i.tag, i.alloc.map (·.slot), i.alloc.map (·.bench), some i.lane, some i.sku⟩ detail

theorem expireItem_due {i : Item} (hi : s.item? i.tag = some i) (h : s.dwellDue i = true) :
    s.expireItem i.tag = (s.expiryReported i (s.dwellDetail i)).withdrawExpired i := by
  simp only [State.expireItem, hi, h, if_true]
  rw [updItem_eq]
  rfl

theorem expiryReported_book (s : State) (i : Item) (d : Nat) : (s.expiryReported i d).book = s.book := by
  unfold State.expiryReported
  exact (congrArg State.book (raiseFault_frame .dwellExpired _ d _) :)

theorem pullAtExpiry_congr (i : Item) (h : t.book = s.book) : t.pullAtExpiry i = s.pullAtExpiry i := by
  have horder : t.order? = s.order? := by
    funext slot
    rw [State.order?, h, State.order?]
  unfold State.pullAtExpiry
  rw [horder]

/-- R146: what is pulled. -/
theorem pullAtExpiry_iff (i : Item) : s.pullAtExpiry i = true ↔ (∀ m, i.outstanding ≠ .pull m) ∧
    ∃ a o, i.alloc = some a ∧ s.order? a.slot = some o ∧ (o.state = .building ∨ o.state = .held) := by
  rw [State.pullAtExpiry]
  cases ha : i.alloc with
  | none => cases i.outstanding <;> simp
  | some a => cases ho : s.order? a.slot <;> cases i.outstanding <;> simp [ho]

theorem dwellDetail_pull {i : Item} (h : i.location = .inHamper)
    (hp : (∃ m, i.outstanding = .pull m) ∨ s.pullAtExpiry i = true) : s.dwellDetail i = 6 := by
  rw [State.dwellDetail, h]
  cases ho : i.outstanding <;> simp_all

theorem dwellDetail_stays {i : Item} (h : i.location = .inHamper) (hm : ∀ m, i.outstanding ≠ .pull m)
    (hp : ¬s.pullAtExpiry i = true) : s.dwellDetail i = 7 := by
  rw [State.dwellDetail, h]
  cases ho : i.outstanding <;> simp_all

theorem exec_dwellExpired (hset : s.clock.isSet = true) (tag : Nat) : exec (.dwellExpired tag) s = s.ends (s.expireItem tag) :=
  congrArg (fun u => State.ends s u) (if_pos hset)

/-- Settles O17: one clause for each place in which an item may stand. -/
theorem dwellExpiryWithdrawsItem : Obligations.DwellExpiryWithdrawsItem := by
  refine ⟨fun s tag h => ?other, fun s tag i d hset hi hcls hexp hdl hd => ?due⟩
  case other =>
    by_cases hset : s.clock.isSet = true
    · rw [exec_dwellExpired hset, expireItem_other, State.ends, judgeQuiet_self]
      intro i hi hdue
      obtain ⟨⟨hcls, d, hdl, hd⟩, hexp⟩ := (due_iff i).1 hdue
      rcases (h.resolve_left (by simp [hset])) i hi with h | h | h
      · exact h hcls
      · simp [h] at hexp
      · exact absurd (h d hdl) (not_lt.2 hd)
    · exact (congrArg (State.ends s) (if_neg hset)).trans (congrArg _ (judgeQuiet_self s))
  case due =>
    obtain rfl : i.tag = tag := (look_some hi).2
    have hdue : s.dwellDue i = true := (due_iff i).2 ⟨⟨hcls, d, hdl, hd⟩, hexp⟩
    have hrun := (exec_dwellExpired hset i.tag).trans (congrArg s.ends (expireItem_due hi hdue))
    intro pulls reported c
    have hpull (k : Nat) : (reported k).pullAtExpiry i = true ↔ pulls := by
      have hsame : (reported k).pullAtExpiry i = s.pullAtExpiry i := pullAtExpiry_congr i (expiryReported_book s i k)
      rw [hsame, pullAtExpiry_iff]
    have hpull₀ : s.pullAtExpiry i = true ↔ pulls := pullAtExpiry_iff i
    refine ⟨fun h => ?_, fun h hx => ?_, fun h hx => ?_, fun h ha => ?_, fun h ha => ?_, fun h => ?_, fun h => ?_,
      fun h => ⟨fun hp => ?_, fun hp => ?_, fun hp hp' => ?_⟩⟩
    all_goals refine hrun.trans (congrArg s.ends ?_)
    · simp only [State.withdrawExpired, State.dwellDetail, h]
      rfl
    · simp only [State.withdrawExpired, State.dwellDetail, h, hx, if_true]
      rfl
    · simp only [State.withdrawExpired, State.dwellDetail, h, hx, if_false]
      rw [updItem_eq]
      rfl
    · simp only [State.withdrawExpired, State.dwellDetail, h, ha, if_true]
      rfl
    · simp only [State.withdrawExpired, State.dwellDetail, h, ha, if_false]
      rfl
    · simp only [State.withdrawExpired, State.dwellDetail, h]
      rfl
    · simp only [State.withdrawExpired, State.dwellDetail, h]
      rfl
    · rw [dwellDetail_pull h (.inr (hpull₀.2 hp))]
      simp only [State.withdrawExpired, h]
      exact if_pos ((hpull 6).2 hp)
    · rw [dwellDetail_pull h (.inl hp)]
      simp only [State.withdrawExpired, h]
      obtain ⟨m, hm⟩ := hp
      exact if_neg fun hc => ((hpull 6).1 hc).1 m hm
    · rw [dwellDetail_stays h hp' (mt hpull₀.1 hp)]
      simp only [State.withdrawExpired, h]
      exact if_neg (mt (hpull 7).1 hp)

/-! ### The shortage pass (R136) -/

theorem working_iff (s : State) : s.working = true ↔
    s.cell.state = .running ∨ s.cell.state = .paused ∨ s.cell.state = .draining := by
  simp [State.working, or_assoc]

theorem lineShort_iff (l : Line) : s.lineShort l = true ↔
    l.state = .opened ∧ s.timers.shortageLimit ≤ s.clock.minute - l.lastProgress := by
  rw [State.lineShort, Bool.and_eq_true, beq_iff_eq, decide_eq_true_eq]
  rfl

/-- R136: the lines found short. -/
def State.shortened (s : State) : List Order :=
  s.book.orders.map (fun o : Order =>
    if o.state = .building then
      { o with lines := o.lines.map (fun l : Line =>
        if l.state = .opened ∧ s.timers.shortageLimit ≤ s.clock.minute - l.lastProgress then
          { l with state := .short, shortMark := true } else l) }
    else o)

theorem shortened_eq (s : State) : s.book.orders.map (fun o => if o.state == .building then
    { o with lines := o.lines.map (fun l => if s.lineShort l then { l with state := .short, shortMark := true } else l) }
    else o) = s.shortened := by
  refine List.map_congr_left fun o _ => if_congr beq_iff_eq ?_ rfl
  simp only [lineShort_iff]

theorem shortHit_iff (s : State) : s.book.orders.any (fun o => o.state == .building && o.lines.any s.lineShort) = true ↔
    ∃ o ∈ s.book.orders, o.state = .building ∧ ∃ l ∈ o.lines,
      l.state = .opened ∧ s.timers.shortageLimit ≤ s.clock.minute - l.lastProgress := by
  simp only [List.any_eq_true, Bool.and_eq_true, beq_iff_eq, lineShort_iff]

/-- With no line to shorten the book stands. -/
theorem shortened_none (h : ∀ o ∈ s.book.orders, o.state = .building → ∀ l ∈ o.lines,
    ¬(l.state = .opened ∧ s.timers.shortageLimit ≤ s.clock.minute - l.lastProgress)) : s.shortened = s.book.orders := by
  refine (List.map_congr_left fun o ho => ?_).trans (List.map_id _)
  split
  case isTrue hb =>
    have hlines : o.lines.map (fun l : Line =>
        if l.state = .opened ∧ s.timers.shortageLimit ≤ s.clock.minute - l.lastProgress then
          { l with state := .short, shortMark := true } else l) = o.lines :=
      (List.map_congr_left fun l hl => if_neg (h o ho hb l hl)).trans (List.map_id _)
    rw [hlines]
    rfl
  case isFalse => rfl

theorem shortagePass_hit (hw : s.working = true) (h : ∃ o ∈ s.book.orders, o.state = .building ∧ ∃ l ∈ o.lines,
    l.state = .opened ∧ s.timers.shortageLimit ≤ s.clock.minute - l.lastProgress) :
    s.shortagePass = { s with
      book := { s.book with orders := s.shortened }
      notices := s.notices.raised .lineShort } := by
  simp only [State.shortagePass, hw, (shortHit_iff s).2 h, if_true, shortened_eq]
  rfl

theorem shortagePass_miss (hw : s.working = true) (h : ∀ o ∈ s.book.orders, o.state = .building → ∀ l ∈ o.lines,
    ¬(l.state = .opened ∧ s.timers.shortageLimit ≤ s.clock.minute - l.lastProgress)) : s.shortagePass = s := by
  have hmiss := mt (shortHit_iff s).1 fun ⟨o, ho, hb, l, hl, hs⟩ => h o ho hb l hl hs
  simp only [State.shortagePass, hw, hmiss, if_true, if_false, shortened_eq, shortened_none h, Bool.false_eq_true]

/-! ### The timeout of a Place (R127) -/

/-- R127: the Place of an entry has reached the placement limit. -/
def State.PlaceOver (s : State) (tag : Nat) : Prop :=
  ∃ i m, s.item? tag = some i ∧ i.outstanding = .place m ∧ s.timers.placementLimit ≤ s.clock.minute - m

theorem placeDue_iff (e : PlaceEntry) : s.placeDue e = true ↔ e.timedOut = false ∧ s.PlaceOver e.tag := by
  rw [State.placeDue, Bool.and_eq_true, Bool.not_eq_true', State.PlaceOver]
  refine and_congr_right fun _ => ?_
  cases s.item? e.tag with
  | none => simp
  | some i =>
    cases ho : i.outstanding with
    | place m =>
      simp only [ho]
      refine decide_eq_true_iff.trans ⟨fun h => ⟨i, m, rfl, ho, h⟩, fun ⟨j, k, hj, hk, h⟩ => ?_⟩
      cases hj
      rw [ho] at hk
      cases hk
      exact h
    | none => simp [ho]
    | ret => simp [ho]
    | pull => simp [ho]

/-- R127: a bench whose placement list holds a tag, its mark clear. -/
def Bench.Lists (x : Bench) (tag : Nat) : Prop := ∃ h, x.hamper = some h ∧ ∃ e ∈ h.places, e.tag = tag ∧ e.timedOut = false

theorem placeDueAt_some {tag : Nat} {x : Bench} (h : s.placeDueAt? tag = some x) :
    x ∈ s.benches ∧ x.Lists tag ∧ s.PlaceOver tag := by
  unfold State.placeDueAt? at h
  refine ⟨List.mem_of_find?_eq_some h, ?_⟩
  have hx := List.find?_some h
  cases hh : x.hamper with
  | none => simp [hh] at hx
  | some g =>
    rw [hh] at hx
    obtain ⟨e, he, hdue⟩ := List.any_eq_true.1 hx
    rw [Bool.and_eq_true, beq_iff_eq, placeDue_iff] at hdue
    obtain ⟨rfl, hmark, hover⟩ := hdue
    exact ⟨⟨g, hh, e, he, rfl, hmark⟩, hover⟩

theorem placeDueAt_exists {tag : Nat} (hover : s.PlaceOver tag) (h : ∃ x ∈ s.benches, x.Lists tag) :
    ∃ x, s.placeDueAt? tag = some x := by
  refine Option.isSome_iff_exists.1 (List.find?_isSome.2 ?_)
  obtain ⟨x, hx, g, hh, e, he, rfl, hmark⟩ := h
  refine ⟨x, hx, ?_⟩
  rw [hh]
  exact List.any_eq_true.2 ⟨e, he, by rw [Bool.and_eq_true, placeDue_iff]; exact ⟨beq_self_eq_true _, hmark, hover⟩⟩

theorem timeOutPlace_other {tag : Nat} (h : s.placeDueAt? tag = none) : s.timeOutPlace tag = s := by
  simp only [State.timeOutPlace, h]

theorem bench_of_mem (hi : s.Inv) {x : Bench} (hx : x ∈ s.benches) : s.bench? x.number = some x := by
  have hp : s.benches.Pairwise (fun x y => x.number < y.number) := by
    rw [← List.pairwise_map (f := Bench.number) (R := (· < ·)), hi.benchKeys]
    decide
  exact look_of_mem hp hx

/-- R127: a bench in whose list a Place was marked. -/
def Bench.timedOut (tag : Nat) (y : Bench) : Bench :=
  { y with hamper := y.hamper.map (fun g : Hamper => { g with places := g.places.map (fun e : PlaceEntry =>
      if e.tag = tag then { e with timedOut := true } else e) }) }

/-- R127: the Place of an item marked timed out in the list of a bench. -/
def State.placeMarked (s : State) (b tag : Nat) : State :=
  { s with benches := s.benches.map (fun y : Bench => if y.number = b then y.timedOut tag else y) }

/-- R127: a Place marked and reported. -/
def State.timeoutReported (s : State) (i : Item) (b : Nat) : State :=
  (s.placeMarked b i.tag).raiseFault .placeTimeout
    ⟨some i.tag, i.alloc.map (·.slot), some b, some i.lane, some i.sku⟩ s.timers.placementLimit

theorem placeMarked_eq (s : State) (b tag : Nat) : s.updHamper b (fun h =>
    { h with places := h.places.map (fun e => if e.tag == tag then { e with timedOut := true } else e) }) =
      s.placeMarked b tag := by
  rw [updHamper_eq]
  simp only [beq_iff_eq]
  rfl

theorem timeOutPlace_due {i : Item} {x : Bench} (hi : s.item? i.tag = some i) (hx : s.placeDueAt? i.tag = some x) :
    s.timeOutPlace i.tag = { s.timeoutReported i x.number with
      benches := (s.timeoutReported i x.number).benches.map (fun y : Bench =>
        if y.number = x.number then { y with stalled := true } else y)
      notices := (s.timeoutReported i x.number).notices.raised .benchStalled } := by
  simp only [State.timeOutPlace, hx, hi, placeMarked_eq]
  rw [updBench_eq]
  rfl

/-- R127: a bench with a marked Place, stalled. -/
def Bench.stallMarked (tag : Nat) (y : Bench) : Bench := { y.timedOut tag with stalled := true }

theorem stallMarked_instructionOut (tag : Nat) (y : Bench) : (y.stallMarked tag).instructionOut = y.instructionOut := by
  unfold Bench.instructionOut Bench.stallMarked Bench.timedOut
  cases y.hamper <;> rfl

/-- The benches after a timeout. -/
theorem stallMarked_benches (s : State) (b tag : Nat) : (s.placeMarked b tag).benches.map (fun y : Bench =>
    if y.number = b then { y with stalled := true } else y) =
      amend Bench.number b (Bench.stallMarked tag) s.benches := by
  rw [amend_eq]
  refine List.map_map.trans (List.map_congr_left fun y _ => ?_)
  by_cases hy : y.number = b
  · simp only [Function.comp, hy, if_true]
    exact if_pos hy
  · simp only [Function.comp, hy, if_false]

/-- R181: an event that leaves items, release list and bench instructions, the cell state kept or halted, needs no judgment. -/
theorem judgeQuiet_unmoved (hitems : t.items = s.items) (harb : t.arbiter = s.arbiter)
    (hb : t.benches.countP Bench.instructionOut = s.benches.countP Bench.instructionOut)
    (hcell : t.cell.state = s.cell.state ∨ t.cell.state = .halted) : State.judgeQuiet s t = t := by
  have hparts : s.quietParts = t.quietParts := by
    simp only [State.quietParts, State.occupancy, State.outstandingCount, hitems, harb, hb]
  rcases hcell with h | h
  · exact judgeQuiet_same hparts h.symm
  · exact judgeQuiet_idle (by rw [h]; decide) (by rw [h]; decide)

theorem timeoutReported_frame (s : State) (i : Item) (b : Nat) :
    (s.timeoutReported i b).benches = (s.placeMarked b i.tag).benches ∧ (s.timeoutReported i b).items = s.items ∧
      (s.timeoutReported i b).book = s.book ∧ (s.timeoutReported i b).arbiter = s.arbiter := by
  have hframe := raiseFault_frame .placeTimeout ⟨some i.tag, i.alloc.map (·.slot), some b, some i.lane, some i.sku⟩
    s.timers.placementLimit (s.placeMarked b i.tag)
  exact ⟨(congrArg State.benches hframe :), (congrArg State.items hframe :), (congrArg State.book hframe :),
    (congrArg State.arbiter hframe :)⟩

/-- Settles O18. -/
theorem shortagePassAndPlaceTimeout : Obligations.ShortagePassAndPlaceTimeout := by
  refine ⟨fun s hset hw => ⟨fun h => ?_, fun h => ?_⟩, fun s h => ?idle, working_iff, fun s tag h => ?alone,
    fun s i m hi ho hm => ?listed, fun s i x h m hinv hset hi ho hm hx hh => ?due⟩
  · exact congrArg Host.Outcome.next ((if_pos hset).trans (shortagePass_hit hw h))
  · exact congrArg Host.Outcome.next ((if_pos hset).trans (shortagePass_miss hw h))
  case idle =>
    refine congrArg Host.Outcome.next ?_
    by_cases hset : s.clock.isSet = true
    · refine (if_pos hset).trans (if_neg fun hw => ?_)
      have := (working_iff s).1 hw
      rcases h with h | h | h | h | h <;> simp_all
    · exact if_neg hset
  case alone =>
    have hsame : (if s.clock.isSet then s.timeOutPlace tag else s) = s := by
      by_cases hset : s.clock.isSet = true
      · rw [if_pos hset]
        refine timeOutPlace_other ?_
        cases hx : s.placeDueAt? tag with
        | none => rfl
        | some x =>
          obtain ⟨hmem, ⟨g, hg, e, he, htag, hmark⟩, i, m, hi, ho, hm⟩ := placeDueAt_some hx
          rcases h with h | h | h
          · simp [hset] at h
          · exact absurd (h i m hi ho) (not_lt.2 hm)
          · simp [h x hmem g hg e he htag] at hmark
      · exact if_neg hset
    exact (congrArg (State.ends s) hsame).trans (congrArg Host.Outcome.next (judgeQuiet_self s))
  case listed =>
    refine ⟨fun x hx => ?_, fun ⟨x, hmem, hl⟩ => placeDueAt_exists ⟨i, m, hi, ho, hm⟩ ⟨x, hmem, hl⟩⟩
    obtain ⟨hmem, hl, -⟩ := placeDueAt_some hx
    exact ⟨hmem, hl⟩
  case due =>
    have hrun : exec (.placeTimeout i.tag) s = s.ends (s.timeOutPlace i.tag) := congrArg s.ends (if_pos hset)
    obtain ⟨hbenches, hitems, hbook, harb⟩ := timeoutReported_frame s i x.number
    have hbench : s.bench? x.number = some x := bench_of_mem hinv (placeDueAt_some hx).1
    intro marked v t
    have ht : t.benches = amend Bench.number x.number (Bench.stallMarked i.tag) s.benches :=
      (congrArg (List.map _) hbenches).trans (stallMarked_benches s x.number i.tag)
    have hstands : State.judgeQuiet s t = t := by
      refine judgeQuiet_unmoved hitems harb ?_ (raiseFault_quiet .placeTimeout _ _ (s.placeMarked x.number i.tag)).2
      rw [ht, amend_eq, List.countP_map]
      refine List.countP_congr fun y _ => ?_
      simp only [Function.comp]
      split
      · rw [stallMarked_instructionOut]
      · rfl
    refine ⟨?_, ?_, ?_, fun b hb => ?_, raised_self _ _, hitems, hbook⟩
    · exact hrun.trans ((congrArg s.ends (timeOutPlace_due hi hx)).trans (congrArg Host.Outcome.next hstands))
    · exact raiseFault_faults .placeTimeout _ _ (s.placeMarked x.number i.tag)
    · rw [State.bench?, ht, look_amend_same (f := Bench.stallMarked i.tag) (fun _ => rfl)]
      refine (congrArg (Option.map (Bench.stallMarked i.tag)) hbench).trans ?_
      simp only [Option.map_some, Bench.stallMarked, Bench.timedOut, hh]
    · rw [State.bench?, ht, look_amend_other (f := Bench.stallMarked i.tag) (fun _ => rfl) hb]
      rfl

end Sys2Proof.Machine
end

section
/-! SUPPORT. A minute tick (R29 to R31, R93, R127, R136, R143, R184). -/

namespace Sys2Proof.Machine

open Sys2Proof

variable {c : Instr} {s t u v : State}

/-! ### What a judgment leaves (R181, R184) -/

/-- From u to t the quiet condition or the deadline has been judged: clock and wave table stand, and items and held-back
set stand or are gone. -/
structure Judged (u t : State) : Prop where
  clock : t.clock = u.clock
  waves : t.waves = u.waves
  items : t.items ⊆ u.items
  heldBack : t.arbiter.heldBack ⊆ u.arbiter.heldBack

theorem Judged.refl (u : State) : Judged u u := ⟨rfl, rfl, List.Subset.refl _, List.Subset.refl _⟩

theorem Judged.trans (h : Judged u v) (k : Judged v t) : Judged u t :=
  ⟨k.clock.trans h.clock, k.waves.trans h.waves, List.Subset.trans k.items h.items,
    List.Subset.trans k.heldBack h.heldBack⟩

theorem warmRestart_judged (cause : Causes) (u : State) : Judged u (u.warmRestart cause) where
  clock := warmRestart_clock cause u
  waves := (congrArg State.waves (sendRestarts_frame (u.cleared cause)) :)
  items := by
    have : (u.warmRestart cause).items = [] := (congrArg State.items (sendRestarts_frame (u.cleared cause)) :)
    rw [this]
    exact List.nil_subset _
  heldBack := by
    have : (u.warmRestart cause).arbiter.heldBack = [] :=
      (congrArg (·.arbiter.heldBack) (sendRestarts_frame (u.cleared cause)) :)
    rw [this]
    exact List.nil_subset _

theorem raiseFault_judged (k : FaultKind) (x : FaultCtx) (d : Nat) (u : State) : Judged u (u.raiseFault k x d) := by
  have hframe := raiseFault_frame k x d u
  have hitems : (u.raiseFault k x d).items = u.items := (congrArg State.items hframe :)
  have harb : (u.raiseFault k x d).arbiter = u.arbiter := (congrArg State.arbiter hframe :)
  refine ⟨(congrArg State.clock hframe :), (congrArg State.waves hframe :), ?_, ?_⟩
  · rw [hitems]
    exact List.Subset.refl _
  · rw [harb]
    exact List.Subset.refl _

theorem actQuiet_judged (u : State) : Judged u u.actQuiet := by
  rcases actQuiet_cases u with h | ⟨-, h⟩ | ⟨-, h⟩ <;> rw [h]
  · exact .refl u
  · exact ⟨rfl, rfl, List.Subset.refl _, List.Subset.refl _⟩
  · exact warmRestart_judged _ u

theorem judgeQuiet_judged (s u : State) : Judged u (State.judgeQuiet s u) := by
  unfold State.judgeQuiet
  split
  · exact .refl u
  · exact actQuiet_judged u

theorem judgeDeadline_judged (u : State) : Judged u u.judgeDeadline := by
  unfold State.judgeDeadline
  split
  · split
    · exact (warmRestart_judged _ u).trans (raiseFault_judged _ _ _ _)
    · exact .refl u
  · exact .refl u

theorem judgeDeadline_forces {d : Nat} (hr : s.cell.state = .restarting) (hd : s.cell.deadline = some d)
    (hm : d ≤ s.clock.minute) (hq : s.quiet = false) : s.judgeDeadline = (s.warmRestart .ofForced).raiseFault .restartForced
      FaultCtx.empty (min 255 (s.occupancy + s.arbiter.releases.length + s.outstandingCount)) := by
  have hreached : s.reached d = true := decide_eq_true hm
  simp only [State.judgeDeadline, hr, hd, hreached, hq, if_true, Bool.not_false, Bool.and_self]
  rfl

theorem judgeDeadline_waits (h : s.cell.state ≠ .restarting ∨ (∀ d, s.cell.deadline = some d → s.clock.minute < d) ∨
    s.quiet = true) : s.judgeDeadline = s := by
  unfold State.judgeDeadline
  split
  case h_1 d hr hd =>
    refine if_neg fun hc => ?_
    rw [Bool.and_eq_true, State.reached, decide_eq_true_eq] at hc
    obtain ⟨hm, hq⟩ := hc
    rcases h with h | h | h
    · exact h hr
    · exact absurd (h d hd) (not_lt.2 hm)
    · simp [h] at hq
  case h_2 => rfl

/-! ### Every item due is marked (R143) -/

/-- No CHILLED item whose deadline is reached is left without its mark. -/
def State.Marked (s : State) : Prop := ∀ i ∈ s.items, Due s i → i.expired = true

theorem State.Marked.work (h : s.Marked) (w : Work s t) : t.Marked := by
  intro j hj hdue
  obtain ⟨i, hi, k⟩ := w.items j hj
  exact k.expired (h i hi ((due_kept w k).1 hdue))

/-- The pass leaves no item unmarked whose tag it goes through. -/
theorem expireItems_marked (tags : List Nat) (s : State) (hi : s.Inv)
    (h : ∀ i ∈ s.items, Due s i → i.expired = true ∨ i.tag ∈ tags) :
    (tags.foldl (fun t tag => t.expireItem tag) s).Marked := by
  induction tags generalizing s with
  | nil => exact fun i hi hdue => (h i hi hdue).resolve_right List.not_mem_nil
  | cons tag tags ih =>
    have w := expireItem_work tag s
    refine ih _ (w.inv hi) fun j hj hdue => ?_
    by_cases htag : j.tag = tag
    · exact .inl (expireItem_marks hi tag j hj htag hdue)
    obtain ⟨i, hi', k⟩ := w.items j hj
    rcases h i hi' ((due_kept w k).1 hdue) with hexp | hmem
    · exact .inl (k.expired hexp)
    · rw [← k.tag, List.mem_cons] at hmem
      exact .inr (hmem.resolve_left htag)

theorem picked_eq (n : Nat) (s : State) : ∃ k, s.picked n = { s with freeCount := k } := by
  unfold State.picked
  split
  · exact ⟨_, rfl⟩
  · exact ⟨_, rfl⟩

theorem dwellPass_marked (hi : s.Inv) : s.dwellPass.Marked := by
  refine expireItems_marked _ _ ((picked_work _ s).inv hi) fun i hmem hdue => ?_
  obtain ⟨k, hk⟩ := picked_eq ((s.items.filter s.dwellDue).map (·.tag)).length s
  rw [hk] at hmem hdue
  by_cases hexp : i.expired = true
  · exact .inl hexp
  · refine .inr ((pickOrder_perm _ _ _).mem_iff.2 (List.mem_map_of_mem (List.mem_filter.2 ⟨hmem, ?_⟩)))
    exact (due_iff i).2 ⟨hdue, by simpa using hexp⟩

theorem runTimers_marked (hi : s.Inv) : s.runTimers.Marked :=
  State.Marked.work (State.Marked.work (dwellPass_marked hi) (shortagePass_work _)) (timePlaces_work _)

/-! ### The passes over items and Places due (log entry 5) -/

theorem dwellDue_eq (i : Item) : s.dwellDue i = (decide (i.cls = .chilled) && !i.expired &&
    i.deadline.any (fun d => decide (d ≤ s.clock.minute))) := by
  rw [State.dwellDue, ← Bool.beq_eq_decide_eq]
  cases i.deadline <;> rfl

theorem placeDue_eq (e : PlaceEntry) : s.placeDue e = (!e.timedOut &&
    ((s.item? e.tag).bind (fun i => i.outstanding.placeMinute)).any
      (fun m => decide (s.timers.placementLimit ≤ s.clock.minute - m))) := by
  rw [State.placeDue]
  cases s.item? e.tag with
  | none => rfl
  | some i => cases ho : i.outstanding <;> simp only [Option.bind_some, ho] <;> rfl

/-! ### The minute (R30) -/

theorem advanceMinute_minute (hi : s.Inv) : s.advanceMinute.clock = { s.clock with minute := min 65535 (s.clock.minute + 1) } := by
  unfold State.advanceMinute
  split
  case isTrue h =>
    have : s.clock.minute < 65535 := h
    rw [min_eq_right (by omega)]
  case isFalse h =>
    have hlast : s.clock.minute = 65535 := le_antisymm hi.minute (not_lt.1 h)
    refine ((congrArg State.clock (raiseFault_frame .clockLimit FaultCtx.empty 0 s) :) : s.raiseClockLimit.clock = s.clock).trans ?_
    rw [hlast, min_eq_left (by omega), ← hlast]

theorem advanceMinute_frame (s : State) : s.advanceMinute.waves = s.waves ∧ s.advanceMinute.book = s.book := by
  unfold State.advanceMinute
  split
  · exact ⟨rfl, rfl⟩
  · have hframe := raiseFault_frame .clockLimit FaultCtx.empty 0 s
    exact ⟨(congrArg State.waves hframe :), (congrArg State.book hframe :)⟩

/-! ### The tick -/

theorem clearHeldBack_heldBack (s : State) : s.clearHeldBack.arbiter.heldBack = [] :=
  List.subset_nil.1 (arbitrate_work ({ s with arbiter := { s.arbiter with heldBack := [] } } : State)).heldBack

/-- A state that differs from one with its held-back set empty and its due items marked in the free values alone. -/
theorem marked_of_free {w : State} {k : Nat} (h : u = { w with freeCount := k }) (hheld : w.arbiter.heldBack = [])
    (hm : w.Marked) : { u with freeCount := 0 } = { w with freeCount := 0 } ∧ u.arbiter.heldBack = [] ∧ u.Marked := by
  subst h
  exact ⟨rfl, hheld, hm⟩

/-- R93, R143: the timers and the emptying of the held-back set, in either order. -/
theorem timers_and_heldBack (hi : v.Inv) (hu : u = eitherOrder State.runTimers State.clearHeldBack v) :
    ({ u with freeCount := 0 } = { (v.runTimers.clearHeldBack : State) with freeCount := 0 } ∨
      { u with freeCount := 0 } = { (v.clearHeldBack.runTimers : State) with freeCount := 0 }) ∧
    u.arbiter.heldBack = [] ∧ u.Marked := by
  obtain ⟨k, hk⟩ := eitherOrder_cases State.runTimers State.clearHeldBack v
  rw [← hu] at hk
  rcases hk with hk | hk
  · have hm : v.runTimers.clearHeldBack.Marked := State.Marked.work (runTimers_marked hi) (clearHeldBack_work _)
    obtain ⟨h1, h2, h3⟩ := marked_of_free hk (clearHeldBack_heldBack v.runTimers) hm
    exact ⟨.inl h1, h2, h3⟩
  · have hm : v.clearHeldBack.runTimers.Marked := runTimers_marked ((clearHeldBack_work v).inv hi)
    have hnone : v.clearHeldBack.runTimers.arbiter.heldBack ⊆ [] :=
      clearHeldBack_heldBack v ▸ (runTimers_work v.clearHeldBack).heldBack
    obtain ⟨h1, h2, h3⟩ := marked_of_free hk (List.subset_nil.1 hnone) hm
    exact ⟨.inr h1, h2, h3⟩

/-- R30, R31: what a tick comes to. -/
theorem tick_spec (hi : s.Inv) (hset : s.clock.isSet = true) (hv : v = s.advanceMinute.cutoffAll)
    (hu : u = eitherOrder State.runTimers State.clearHeldBack v) (ht : t = (State.judgeQuiet s u).judgeDeadline) :
    t.clock = ⟨min 65535 (s.clock.minute + 1), true⟩ ∧ t.waves = v.waves ∧
      ({ u with freeCount := 0 } = { (v.runTimers.clearHeldBack : State) with freeCount := 0 } ∨
        { u with freeCount := 0 } = { (v.clearHeldBack.runTimers : State) with freeCount := 0 }) ∧
      t.arbiter.heldBack = [] ∧ t.Marked := by
  have hm := (advanceMinute_handled s).inv hi
  have wcut : Touch s.advanceMinute v := hv ▸ cutoffAll_touch s.advanceMinute
  have hvi : v.Inv := wcut.inv hm
  have hclock : v.clock = ⟨min 65535 (s.clock.minute + 1), true⟩ := by
    rw [wcut.clock, advanceMinute_minute hi]
    exact congrArg (Clock.mk _) hset
  have wu : Work v u := hu ▸ eitherOrder_work runTimers_work clearHeldBack_work v
  have judged : Judged u t := ht ▸ (judgeQuiet_judged s u).trans (judgeDeadline_judged _)
  obtain ⟨horders, hheld, hmarked⟩ := timers_and_heldBack hvi hu
  refine ⟨judged.clock.trans (wu.clock.trans hclock), judged.waves.trans wu.waves, horders,
    List.subset_nil.1 (hheld ▸ judged.heldBack), fun i hmem hdue => hmarked i (judged.items hmem) ?_⟩
  obtain ⟨hcls, d, hd, hle⟩ := hdue
  exact ⟨hcls, d, hd, judged.clock ▸ hle⟩

/-- Settles O15: the tick, the report at the last minute, and the passes. -/
theorem minuteTickRunsItsChecks : Obligations.MinuteTickRunsItsChecks := by
  refine ⟨fun s => ⟨fun hset => ?_, fun hset hi => ?tick⟩, fun s => ⟨fun hset hlast => ?_, fun h => ?_⟩, fun s => ?passes⟩
  · exact congrArg Host.Outcome.next (if_neg (by simp [hset]))
  case tick =>
    intro moved m cut marks
    obtain ⟨hwaves, hbook⟩ := advanceMinute_frame s
    have hmoved : s.advanceMinute.clock.isSet = true := by rw [advanceMinute_minute hi]; exact hset
    obtain ⟨cwaves, cseq, corders, cnone, cnew, cold, cframe⟩ := cutoffAll_spec ((advanceMinute_handled s).inv hi) hmoved
    obtain ⟨hclock, htw, horders, hheld, hmarked⟩ := tick_spec hi hset rfl rfl rfl
    rw [hwaves] at cwaves
    rw [hbook] at cseq corders cnew cold
    simp only [State.Cuts, hwaves] at corders cnone cnew cold
    rw [hwaves, hbook] at cframe
    refine ⟨s.advanceMinute.cutoffAll, _, _, congrArg Host.Outcome.next (if_pos hset),
      congrArg Clock.minute (advanceMinute_minute hi), hclock, cwaves, htw, cseq, corders, cnone, cnew, cold, cframe, horders,
      rfl, hheld, fun i hmem hcls d hd hle => hmarked i hmem ⟨hcls, d, hd, hle⟩⟩
  · exact (congrArg (State.ends s) (if_pos (by simp [hset, hlast, Config.lastMinute]))).trans
      (congrArg Host.Outcome.next (judgeQuiet_fault _ _ _ _ _ rfl rfl))
  · refine (congrArg (State.ends s) (if_neg ?_)).trans (congrArg Host.Outcome.next (judgeQuiet_self s))
    rw [Bool.and_eq_true, beq_iff_eq]
    rintro ⟨h1, h2⟩
    rcases h with h | h
    · simp [h] at h1
    · exact h h2
  case passes =>
    refine ⟨rfl, rfl, ?_, ?_, fun hset => ⟨congrArg Host.Outcome.next (if_pos hset), exec_dwellExpired hset,
      fun tag => congrArg s.ends (if_pos hset)⟩, fun d => judgeDeadline_forces, judgeDeadline_waits⟩
    · obtain ⟨k, hk⟩ := picked_eq ((s.items.filter s.dwellDue).map (·.tag)).length s
      refine ⟨_, k, ?_, (congrArg (List.foldl _ · _) hk :)⟩
      rw [← funext dwellDue_eq]
      exact pickOrder_perm _ _ _
    · obtain ⟨k, hk⟩ := picked_eq s.duePlaces.length s
      refine ⟨_, k, ?_, (congrArg (List.foldl _ · _) hk :)⟩
      rw [← funext placeDue_eq]
      exact pickOrder_perm _ _ _

end Sys2Proof.Machine
end

section
/-! SUPPORT. Cancel Order (R20, R80): one item withdrawn, and the items of an order one after another. -/

namespace Sys2Proof.Machine

open Sys2Proof

variable {c : Instr} {s t u : State} {slot k : Nat} {i j : Item} {a : Alloc}

/-! ### An item let go by its order (R80, R12) -/

/-- R80, R12: an allocation released, and the gate set where its line is HEAVY. -/
def State.letGo (t : State) (slot : Nat) (i : Item) (a : Alloc) : State :=
  if t.lineHeavy a.slot a.line then (t.released i a).setGate slot else t.released i a

/-- What the gate set changes: the orders' gates, and waits of items allocated to the order. -/
theorem setGate_cases (slot : Nat) (t : State) :
    t.setGate slot = t.gateJudged slot ∨ t.setGate slot = (t.gateJudged slot).gateWaitsOver slot := by
  by_cases h : t.gateOpens slot = true
  · exact .inr (setGate_opens h)
  · exact .inl (setGate_shut h)

theorem letGo_cases (t : State) (slot : Nat) (i : Item) (a : Alloc) : t.letGo slot i a = t.released i a ∨
    t.letGo slot i a = (t.released i a).gateJudged slot ∨
    t.letGo slot i a = ((t.released i a).gateJudged slot).gateWaitsOver slot := by
  unfold State.letGo
  split
  · exact .inr (setGate_cases slot _)
  · exact .inl rfl

theorem waits_item {f : Item → Item} {items : List Item} (hf : ∀ i, ∃ w, f i = { i with wait := w })
    (h : look Item.tag k items = some j) : ∃ w, look Item.tag k (items.map f) = some { j with wait := w } := by
  obtain ⟨w, hw⟩ := hf j
  refine ⟨w, ?_⟩
  rw [look_map (fun i => by obtain ⟨w, hw⟩ := hf i; rw [hw]), h, ← hw]
  rfl

/-- The item let go. -/
theorem released_item_same (hi : t.item? i.tag = some i) :
    (t.released i a).item? i.tag = some { i with alloc := none, wait := .none } := by
  have : (t.released i a).item? i.tag = (t.updItem i.tag (fun j => { j with alloc := none, wait := .none })).item? i.tag := by
    rw [updItem_eq]
    rfl
  rw [this, updItem_item_same, hi]
  rfl

theorem letGo_item_same (hi : t.item? i.tag = some i) :
    (t.letGo slot i a).item? i.tag = some { i with alloc := none, wait := .none } := by
  have hrel := released_item_same (a := a) hi
  rcases letGo_cases t slot i a with h | h | h <;> rw [h]
  · exact hrel
  · exact hrel
  · have hf (x : Item) : (if x.wait = .topGate ∧ (∃ a, x.alloc = some a ∧ a.slot = slot) then { x with wait := .none }
        else x).tag = x.tag := by split <;> rfl
    refine (look_map hf _ _).trans ((congrArg (Option.map _) hrel).trans ?_)
    exact congrArg some (if_neg fun ⟨hw, _⟩ => nomatch hw)

/-- Another item is left as it is, but for its wait. -/
theorem letGo_item_other (hk : k ≠ i.tag) (hj : t.item? k = some j) :
    ∃ w, (t.letGo slot i a).item? k = some { j with wait := w } := by
  have hrel : (t.released i a).item? k = some j := by
    have : (t.released i a).item? k = (t.updItem i.tag (fun j => { j with alloc := none, wait := .none })).item? k := by
      rw [updItem_eq]
      rfl
    rw [this, updItem_item_other hk, hj]
  rcases letGo_cases t slot i a with h | h | h <;> rw [h]
  · exact ⟨j.wait, hrel⟩
  · exact ⟨j.wait, hrel⟩
  · exact waits_item (fun x => by split; exacts [⟨_, rfl⟩, ⟨x.wait, rfl⟩]) hrel

/-- What lasts of an order through the withdrawal of its items. -/
def withdrawalStanding (o : Order) : OrderState × Bool := (o.state, o.held)

theorem order_of_map {f : Order → Order} (h : u.book.orders = t.book.orders.map f) (hs : ∀ o, (f o).slot = o.slot)
    (hf : ∀ o, withdrawalStanding (f o) = withdrawalStanding o) (n : Nat) :
    (u.order? n).map withdrawalStanding = (t.order? n).map withdrawalStanding := by
  rw [State.order?, h, look_map hs, Option.map_map]
  exact congrArg (Option.map · _) (funext hf)

theorem letGo_order (n : Nat) :
    ((t.letGo slot i a).order? n).map withdrawalStanding = (t.order? n).map withdrawalStanding := by
  have hrel : ((t.released i a).order? n).map withdrawalStanding = (t.order? n).map withdrawalStanding :=
    order_of_map rfl (fun o => by split <;> rfl) (fun o => by split <;> rfl) n
  have hgate : (((t.released i a).gateJudged slot).order? n).map withdrawalStanding =
      ((t.released i a).order? n).map withdrawalStanding :=
    order_of_map rfl (fun o => by split <;> rfl) (fun o => by split <;> rfl) n
  rcases letGo_cases t slot i a with h | h | h <;> rw [h]
  · exact hrel
  · exact hgate.trans hrel
  · exact hgate.trans hrel

theorem letGo_standing : (t.letGo slot i a).benches.map standing = t.benches.map standing := by
  have hrel : (t.released i a).benches.map standing = t.benches.map standing := by
    refine List.map_map.trans (List.map_congr_left fun y _ => ?_)
    simp only [Function.comp]
    split <;> rfl
  rcases letGo_cases t slot i a with h | h | h <;> rw [h] <;> exact hrel

theorem letGo_sent : (t.letGo slot i a).bus = t.bus ∧ (t.letGo slot i a).clock = t.clock := by
  rcases letGo_cases t slot i a with h | h | h <;> rw [h] <;> exact ⟨rfl, rfl⟩

/-! ### One item withdrawn (R20) -/

/-- An item with its fields set by f. -/
def State.item (t : State) (tag : Nat) (f : Item → Item) : State :=
  { t with items := t.items.map (fun j : Item => if j.tag = tag then f j else j) }

section

variable (hi : t.item? i.tag = some i) (ha : i.alloc = some a)

include hi ha

theorem withdraw_letGo : t.withdrawForCancel slot i.tag = match i.location with
    | .onLoop => ((t.letGo slot i a).updItem i.tag (fun x => { x with dest := some .exception })).route i.tag (some .exception)
    | .inChute => ((t.letGo slot i a).updItem i.tag (fun x => { x with withdrawal := some slot })).sendReturn
        (i.locBench.getD 0) i.tag
    | .bufferToChute => (t.letGo slot i a).updItem i.tag (fun x => { x with withdrawal := some slot })
    | .atLane | .inBuffer | .inHamper => t.letGo slot i a := by
  simp only [State.withdrawForCancel, hi, ha, releaseCore_eq hi ha]
  cases i.location <;> rfl

theorem withdraw_onLoop (h : i.location = .onLoop) : t.withdrawForCancel slot i.tag =
    ((t.letGo slot i a).item i.tag (fun j => { j with dest := some .exception })).withSent .sorter
      (.route i.tag (some .exception)) := by
  rw [withdraw_letGo hi ha, h]
  dsimp only
  rw [updItem_eq]
  rfl

theorem withdraw_inChute (h : i.location = .inChute) : t.withdrawForCancel slot i.tag =
    ((t.letGo slot i a).item i.tag (fun j => { j with withdrawal := some slot })).sendReturn (i.locBench.getD 0) i.tag := by
  rw [withdraw_letGo hi ha, h]
  dsimp only
  rw [updItem_eq]
  rfl

theorem withdraw_bufferToChute (h : i.location = .bufferToChute) : t.withdrawForCancel slot i.tag =
    (t.letGo slot i a).item i.tag (fun j => { j with withdrawal := some slot }) := by
  rw [withdraw_letGo hi ha, h]
  dsimp only
  rw [updItem_eq]
  rfl

theorem withdraw_resting (h : i.location = .atLane ∨ i.location = .inBuffer ∨ i.location = .inHamper) :
    t.withdrawForCancel slot i.tag = t.letGo slot i a := by
  rw [withdraw_letGo hi ha]
  rcases h with h | h | h <;> rw [h]

end

theorem item_same (f : Item → Item) {tag : Nat} (hj : t.item? tag = some j) (hf : ∀ i, (f i).tag = i.tag := by exact fun _ => rfl) :
    (t.item tag f).item? tag = some (f j) := by
  have : t.item tag f = t.updItem tag f := (updItem_eq t tag f).symm
  rw [this, updItem_item_same hf, hj]
  rfl

theorem item_other (f : Item → Item) {tag : Nat} (hk : k ≠ tag) (hf : ∀ i, (f i).tag = i.tag := by exact fun _ => rfl) :
    (t.item tag f).item? k = t.item? k := by
  have : t.item tag f = t.updItem tag f := (updItem_eq t tag f).symm
  rw [this, updItem_item_other hk hf]

/-- R119: no order being built has the item. -/
def State.Unclaimed (t : State) (j : Item) : Prop :=
  ∀ o, t.order? o.slot = some o → o.state = .building ∨ o.state = .held → j.allocatedTo o.slot = false

/-- An item of an order that is CANCELLING, or of none, is claimed by no order being built. -/
theorem unclaimed_of_cancelling (ho : (t.order? slot).map withdrawalStanding = some (.cancelling, false))
    (hj : ∀ a, j.alloc = some a → a.slot = slot) : t.Unclaimed j := by
  intro o hslot hs
  cases ha : j.alloc with
  | none => simp [Item.allocatedTo, ha]
  | some a =>
    rw [Item.allocatedTo, ha]
    refine beq_false_of_ne fun heq => ?_
    rw [← hj a ha, heq, hslot] at ho
    simp only [Option.map_some, withdrawalStanding, Option.some.injEq, Prod.mk.injEq] at ho
    rcases hs with hs | hs <;> simp [hs] at ho

end Sys2Proof.Machine
end

section
/-! SUPPORT. Cancel Order (R20): the items of the order withdrawn one after another, and the request. -/

namespace Sys2Proof.Machine

open Sys2Proof

variable {c : Instr} {s t u : State} {slot k : Nat} {i j : Item} {a : Alloc}

/-! ### One step (R20 step 2) -/

/-- From s to t items of the order in a slot, CANCELLING since, have been withdrawn. -/
structure Withdrawing (s t : State) (slot : Nat) : Prop where
  inv : t.Inv
  order : (t.order? slot).map withdrawalStanding = some (.cancelling, false)
  benches : t.benches.map standing = s.benches.map standing
  sent : s.bus.sent <+: t.bus.sent
  clock : t.clock = s.clock

/-- What a withdrawal leaves of an item, the records being those sent since s. -/
structure Withdrawn (s t : State) (slot : Nat) (i j : Item) : Prop where
  alloc : j.alloc = none
  loop : i.location = .onLoop → j.dest = some .exception ∧
    (FieldUnit.sorter, OutRecord.route i.tag (some .exception)) ∈ t.bus.sent.drop s.bus.sent.length
  chute : i.location = .bufferToChute ∨ i.location = .inChute → j.withdrawal = some slot
  returned : i.location = .inChute → (∀ m, i.outstanding ≠ .ret m) →
    (FieldUnit.bench (i.locBench.getD 0), OutRecord.ret i.tag) ∈ t.bus.sent.drop s.bus.sent.length ∧
      j.outstanding = .ret s.clock.minute

/-- A later state, the item the same but for its wait. -/
theorem Withdrawn.later (h : Withdrawn s t slot i j) (hsent : t.bus.sent <+: u.bus.sent) (w : WaitCause) :
    Withdrawn s u slot i { j with wait := w } where
  alloc := h.alloc
  loop hl := (h.loop hl).imp_right (sent_mono hsent)
  chute := h.chute
  returned hl hm := (h.returned hl hm).imp_left (sent_mono hsent)

theorem letGo_work (hi : t.item? i.tag = some i) (ha : i.alloc = some a) : Work t (t.letGo slot i a) := by
  unfold State.letGo
  rw [← releaseCore_eq hi ha]
  split
  · exact (releaseCore_work _ t).trans (setGate_work _ _)
  · exact releaseCore_work _ t

theorem item_work (tag : Nat) (f : Item → Item) (t : State) (hf : ∀ i, ItemKept i (f i)) : Work t (t.item tag f) := by
  have : t.item tag f = t.updItem tag f := (updItem_eq t tag f).symm
  rw [this]
  exact updItem_work tag t hf

/-- The state in which a withdrawn item is marked and, where it is in a chute, its Return sent. -/
def State.marked (t : State) (slot : Nat) (i : Item) (a : Alloc) : State :=
  (t.letGo slot i a).item i.tag (fun j => { j with withdrawal := some slot })

theorem marked_work (hi : t.item? i.tag = some i) (ha : i.alloc = some a) : Work t (t.marked slot i a) :=
  (letGo_work hi ha).trans (item_work _ _ _ fun _ => .of)

theorem marked_item_same (hi : t.item? i.tag = some i) :
    (t.marked slot i a).item? i.tag = some { i with alloc := none, wait := .none, withdrawal := some slot } :=
  item_same (fun j => { j with withdrawal := some slot }) (letGo_item_same hi)

theorem marked_item_other (hk : k ≠ i.tag) (hj : t.item? k = some j) :
    ∃ w, (t.marked slot i a).item? k = some { j with wait := w } := by
  obtain ⟨w, hw⟩ := letGo_item_other (slot := slot) (a := a) hk hj
  exact ⟨w, (item_other (fun j => { j with withdrawal := some slot }) hk).trans hw⟩

theorem letGo_withdrawing (h : Withdrawing s t slot) :
    ((t.letGo slot i a).order? slot).map withdrawalStanding = some (.cancelling, false) := (letGo_order slot).trans h.order

/-- A record just sent is among those sent since. -/
theorem sent_last {xs ys : List (FieldUnit × OutRecord)} (h : xs <+: ys) (e : FieldUnit × OutRecord) :
    e ∈ (ys ++ [e]).drop xs.length := by
  obtain ⟨zs, rfl⟩ := h
  rw [List.append_assoc, List.drop_left]
  exact List.mem_append_right _ (List.mem_singleton_self e)

/-- An item that nothing but its release concerns. -/
theorem withdrawn_resting (h : i.location = .atLane ∨ i.location = .inBuffer ∨ i.location = .inHamper) :
    Withdrawn s t slot i { i with alloc := none, wait := .none } where
  alloc := rfl
  loop hl := by rcases h with h | h | h <;> exact nomatch h.symm.trans hl
  chute hl := by rcases h with h | h | h <;> rcases hl with hl | hl <;> exact nomatch h.symm.trans hl
  returned hl := by rcases h with h | h | h <;> exact nomatch h.symm.trans hl

section

variable (hi : t.item? i.tag = some i) (ha : i.alloc = some a)

include hi ha

theorem withdraw_book : (t.withdrawForCancel slot i.tag).book = (t.letGo slot i a).book := by
  cases h : i.location with
  | onLoop => rw [withdraw_onLoop hi ha h]; rfl
  | inChute => rw [withdraw_inChute hi ha h, sendReturn_book]; rfl
  | bufferToChute => rw [withdraw_bufferToChute hi ha h]; rfl
  | atLane => rw [withdraw_resting hi ha (.inl h)]
  | inBuffer => rw [withdraw_resting hi ha (.inr (.inl h))]
  | inHamper => rw [withdraw_resting hi ha (.inr (.inr h))]

theorem withdraw_standing : (t.withdrawForCancel slot i.tag).benches.map standing = t.benches.map standing := by
  refine Eq.trans ?_ (letGo_standing (slot := slot) (i := i) (a := a))
  cases h : i.location with
  | onLoop => rw [withdraw_onLoop hi ha h]; rfl
  | inChute => rw [withdraw_inChute hi ha h, sendReturn_standing]; rfl
  | bufferToChute => rw [withdraw_bufferToChute hi ha h]; rfl
  | atLane => rw [withdraw_resting hi ha (.inl h)]
  | inBuffer => rw [withdraw_resting hi ha (.inr (.inl h))]
  | inHamper => rw [withdraw_resting hi ha (.inr (.inr h))]

theorem withdraw_withdrawing (h : Withdrawing s t slot) : Withdrawing s (t.withdrawForCancel slot i.tag) slot where
  inv := (withdrawForCancel_work slot t i.tag).inv h.inv
  order := by
    rw [State.order?, withdraw_book hi ha]
    exact (letGo_order slot).trans h.order
  benches := (withdraw_standing hi ha).trans h.benches
  sent := h.sent.trans (withdrawForCancel_work slot t i.tag).sent
  clock := (withdrawForCancel_work slot t i.tag).clock.trans h.clock

theorem withdraw_other (h : Withdrawing s t slot) (hk : k ≠ i.tag) (hj : t.item? k = some j)
    (hmine : ∀ a, j.alloc = some a → a.slot = slot) :
    ∃ w, (t.withdrawForCancel slot i.tag).item? k = some { j with wait := w } := by
  obtain ⟨w, hw⟩ := letGo_item_other (slot := slot) (a := a) hk hj
  cases hl : i.location with
  | onLoop =>
    rw [withdraw_onLoop hi ha hl]
    exact ⟨w, (item_other (fun j => { j with dest := some .exception }) hk).trans hw⟩
  | inChute =>
    rw [withdraw_inChute hi ha hl]
    obtain ⟨w, hw⟩ := marked_item_other (slot := slot) (a := a) hk hj
    exact ⟨w, sendReturn_item_other ((marked_work hi ha).inv h.inv) hk hw
      (unclaimed_of_cancelling (letGo_withdrawing h) hmine)⟩
  | bufferToChute =>
    rw [withdraw_bufferToChute hi ha hl]
    exact marked_item_other hk hj
  | atLane => rw [withdraw_resting hi ha (.inl hl)]; exact ⟨w, hw⟩
  | inBuffer => rw [withdraw_resting hi ha (.inr (.inl hl))]; exact ⟨w, hw⟩
  | inHamper => rw [withdraw_resting hi ha (.inr (.inr hl))]; exact ⟨w, hw⟩

theorem withdraw_same (h : Withdrawing s t slot) :
    ∃ j, (t.withdrawForCancel slot i.tag).item? i.tag = some j ∧ Withdrawn s (t.withdrawForCancel slot i.tag) slot i j := by
  obtain ⟨hbus, hclock⟩ := letGo_sent (t := t) (slot := slot) (i := i) (a := a)
  have hrest (h : i.location = .atLane ∨ i.location = .inBuffer ∨ i.location = .inHamper) :
      ∃ j, (t.withdrawForCancel slot i.tag).item? i.tag = some j ∧
        Withdrawn s (t.withdrawForCancel slot i.tag) slot i j := by
    rw [withdraw_resting hi ha h]
    exact ⟨_, letGo_item_same hi, withdrawn_resting h⟩
  cases hl : i.location with
  | onLoop =>
    rw [withdraw_onLoop hi ha hl]
    have hsent : ((t.letGo slot i a).item i.tag fun j => { j with dest := some .exception }).bus.sent = t.bus.sent :=
      congrArg Bus.sent hbus
    refine ⟨_, item_same (fun j => { j with dest := some .exception }) (letGo_item_same hi), ⟨rfl, fun _ => ⟨rfl, ?_⟩,
      fun h => h.elim (fun h => (nomatch hl.symm.trans h)) (fun h => (nomatch hl.symm.trans h)),
      fun h => (nomatch hl.symm.trans h)⟩⟩
    show _ ∈ (_ ++ [_]).drop _
    rw [hsent]
    exact sent_last h.sent _
  | inChute =>
    rw [withdraw_inChute hi ha hl]
    have hmark := marked_item_same (slot := slot) (a := a) hi
    have hnone : (t.marked slot i a).Unclaimed { i with alloc := none, wait := .none, withdrawal := some slot } :=
      unclaimed_of_cancelling (letGo_withdrawing h) fun a h => nomatch h
    have hinv := (marked_work (slot := slot) hi ha).inv h.inv
    have hsent : (t.marked slot i a).bus.sent = t.bus.sent := congrArg Bus.sent hbus
    have hminute : (t.marked slot i a).clock = s.clock := hclock.trans h.clock
    rcases sendReturn_item_same (b := i.locBench.getD 0) hinv hmark hnone with ⟨⟨m, hm⟩, hj⟩ | ⟨hm, hj, hs⟩
    · exact ⟨_, hj, ⟨rfl, fun h => (nomatch hl.symm.trans h), fun _ => rfl, fun _ h => absurd hm (h m)⟩⟩
    · rw [hsent] at hs
      refine ⟨_, hj, ⟨rfl, fun h => (nomatch hl.symm.trans h), fun _ => rfl, fun _ _ =>
        ⟨List.drop_subset_drop_left _ h.sent.length_le hs, ?_⟩⟩⟩
      rw [hminute]
  | bufferToChute =>
    rw [withdraw_bufferToChute hi ha hl]
    exact ⟨_, marked_item_same hi, ⟨rfl, fun h => (nomatch hl.symm.trans h), fun _ => rfl, fun h => (nomatch hl.symm.trans h)⟩⟩
  | atLane => exact hrest (.inl hl)
  | inBuffer => exact hrest (.inr (.inl hl))
  | inHamper => exact hrest (.inr (.inr hl))

end

end Sys2Proof.Machine
end

section
/-! SUPPORT. Cancel Order (R20): an order enters CANCELLING. -/

namespace Sys2Proof.Machine

open Sys2Proof

variable {c : Instr} {s t u : State} {slot k : Nat} {i j : Item} {a : Alloc}

/-! ### The items one after another -/

theorem Withdrawn.waited {w : WaitCause} (h : Withdrawn s t slot { i with wait := w } j) : Withdrawn s t slot i j :=
  ⟨h.alloc, h.loop, h.chute, h.returned⟩

/-- R20: the items of some tags, all of the order, withdrawn one after another. -/
theorem withdraw_all (tags : List Nat) (hn : tags.Nodup) (h : Withdrawing s t slot)
    (hall : ∀ tag ∈ tags, ∃ i a, t.item? tag = some i ∧ i.alloc = some a ∧ a.slot = slot) :
    Withdrawing s (tags.foldl (State.withdrawForCancel slot) t) slot ∧
    (∀ i, t.item? i.tag = some i → i.tag ∈ tags → ∃ j,
      (tags.foldl (State.withdrawForCancel slot) t).item? i.tag = some j ∧
        Withdrawn s (tags.foldl (State.withdrawForCancel slot) t) slot i j) ∧
    ∀ j k, k ∉ tags → t.item? k = some j → (∀ a, j.alloc = some a → a.slot = slot) →
      ∃ w, (tags.foldl (State.withdrawForCancel slot) t).item? k = some { j with wait := w } := by
  induction tags generalizing t with
  | nil => exact ⟨h, fun i _ hm => absurd hm List.not_mem_nil, fun j k _ hj _ => ⟨j.wait, hj⟩⟩
  | cons tag tags ih =>
    obtain ⟨hnot, hrest⟩ := List.nodup_cons.1 hn
    obtain ⟨i, a, hi, ha, hslot⟩ := hall tag List.mem_cons_self
    obtain rfl : i.tag = tag := (look_some hi).2
    have hothers : ∀ tag ∈ tags, ∃ j b, (t.withdrawForCancel slot i.tag).item? tag = some j ∧ j.alloc = some b ∧
        b.slot = slot := by
      intro tag hmem
      obtain ⟨j, b, hj, hb, hslot⟩ := hall tag (List.mem_cons_of_mem _ hmem)
      have hne : tag ≠ i.tag := fun heq => hnot (heq ▸ hmem)
      obtain ⟨w, hw⟩ := withdraw_other hi ha h hne hj fun d hd => by rw [hb] at hd; cases hd; exact hslot
      exact ⟨_, b, hw, hb, hslot⟩
    obtain ⟨h1, h2, h3⟩ := ih hrest (withdraw_withdrawing hi ha h) hothers
    have hsent := (foldl_work (withdrawForCancel_work slot) tags (t.withdrawForCancel slot i.tag)).sent
    rw [List.foldl_cons]
    refine ⟨h1, fun i' hi' hmem => ?_, fun j k hk hj hmine => ?_⟩
    · by_cases heq : i'.tag = i.tag
      · obtain rfl : i' = i := Option.some.inj (hi'.symm.trans (heq ▸ hi))
        obtain ⟨j, hj, hdone⟩ := withdraw_same hi ha h
        obtain ⟨w, hw⟩ := h3 j _ hnot hj fun b hb => by rw [hdone.alloc] at hb; cases hb
        exact ⟨_, hw, hdone.later hsent w⟩
      · have hmem := (List.mem_cons.1 hmem).resolve_left heq
        obtain ⟨j, b, hj, hb, hslot⟩ := hall _ (List.mem_cons_of_mem _ hmem)
        obtain rfl : i' = j := Option.some.inj (hi'.symm.trans hj)
        obtain ⟨w, hw⟩ := withdraw_other hi ha h heq hi' fun d hd => by rw [hb] at hd; cases hd; exact hslot
        obtain ⟨j, hj, hdone⟩ := h2 { i' with wait := w } hw hmem
        exact ⟨j, hj, hdone.waited⟩
    · obtain ⟨hne, hk⟩ := not_or.1 (mt List.mem_cons.2 hk)
      obtain ⟨w, hw⟩ := withdraw_other hi ha h hne hj hmine
      obtain ⟨w', hw'⟩ := h3 { j with wait := w } k hk hw hmine
      exact ⟨w', hw'⟩

/-! ### The order enters CANCELLING -/

/-- R20 step 1: the order CANCELLING, and Unpack sent to its bench. -/
def State.unpacks (s : State) (o : Order) (b : Nat) : State :=
  { s.withOrder { o with state := .cancelling, held := false } with
    benches := s.benches.map (fun y : Bench => if y.number = b then
      { y with state := .unpacking, unpacked := false } else y)
    bus := { s.bus with sent := s.bus.sent ++ [(.bench b, .unpack)] } }

/-- R20: the tags of an order's items that are not in its hamper. -/
def State.outTags (s : State) (slot : Nat) : List Nat :=
  (s.items.filter (fun i => i.allocatedTo slot && !(i.location == .inHamper))).map (·.tag)

/-- R20: how many withdrawals an order waits for. -/
def State.toWithdraw (s : State) (slot : Nat) : Nat :=
  s.items.countP (fun i => i.allocatedTo slot && (i.location == .inChute || i.location == .bufferToChute))

/-- R20: the withdrawals an order waits for, entered. -/
def State.awaiting (t : State) (slot n : Nat) : State :=
  { t with book := { t.book with orders := t.book.orders.map (fun p : Order => if p.slot = slot then
    { p with withdrawals := n } else p) } }

section

variable {o : Order} {b : Nat} {x : Bench}

theorem unpacks_eq (hi : s.Inv) (ho : s.order? o.slot = some o) (b : Nat) :
    ((s.updOrder o.slot (fun o => { o with state := .cancelling, held := false })).send (.bench b) .unpack).updBench b
      (fun x => { x with state := .unpacking, unpacked := false }) = s.unpacks o b := by
  rw [updOrder_eq_withOrder hi ho _ rfl, updBench_eq]
  rfl

theorem toWithdraw_eq (s : State) (slot : Nat) :
    (s.items.filter (fun i => i.allocatedTo slot && !(i.location == .inHamper))).countP
      (fun i => i.location == .inChute || i.location == .bufferToChute) = s.toWithdraw slot := by
  rw [List.countP_filter, State.toWithdraw]
  refine List.countP_congr fun i _ => ?_
  cases i.location <;> cases i.allocatedTo slot <;> decide

theorem enterCancelling_eq (hi : s.Inv) (ho : s.order? o.slot = some o) (hb : o.bench = some b) :
    s.enterCancelling o.slot = (((s.outTags o.slot).foldl (State.withdrawForCancel o.slot) (s.unpacks o b)).awaiting o.slot
      (s.toWithdraw o.slot)).arbitrate := by
  simp only [State.enterCancelling, ho, hb, Option.getD_some, unpacks_eq hi ho]
  have hitems : (s.unpacks o b).items = s.items := rfl
  rw [hitems, toWithdraw_eq, updOrder_eq]
  rfl

theorem unpacks_withdrawing (hi : s.Inv) (ho : s.order? o.slot = some o) :
    Withdrawing (s.unpacks o b) (s.unpacks o b) o.slot where
  inv := by
    rw [← unpacks_eq hi ho, updOrder_eq_withOrder hi ho _ rfl]
    exact ((send_work _ _ _).trans (updBench_fields_work b _)).inv
      (withOrder_inv (p := { o with state := .cancelling, held := false }) hi ho rfl)
  order := by
    have : (s.unpacks o b).order? o.slot = some { o with state := .cancelling, held := false } :=
      withOrder_order (p := { o with state := .cancelling, held := false }) hi ho rfl
    rw [this]
    rfl
  benches := rfl
  sent := List.prefix_refl _
  clock := rfl

theorem unpacks_bench (hx : s.bench? b = some x) :
    (s.unpacks o b).bench? b = some { x with state := .unpacking, unpacked := false } := by
  have : (s.unpacks o b).bench? b = (s.updBench b (fun x => { x with state := .unpacking, unpacked := false })).bench? b := by
    rw [updBench_eq]
    rfl
  exact this.trans (bench_updBench_same hx fun x => { x with state := .unpacking, unpacked := false })

/-- The items withdrawn are those of the order that are not in its hamper. -/
theorem mem_outTags (hi : s.Inv) (hmem : i ∈ s.items) :
    i.tag ∈ s.outTags slot ↔ i.allocatedTo slot = true ∧ i.location ≠ .inHamper := by
  have hiff (i : Item) : (i.allocatedTo slot && !(i.location == .inHamper)) = true ↔
      i.allocatedTo slot = true ∧ i.location ≠ .inHamper := by simp
  rw [State.outTags, List.mem_map]
  refine ⟨fun ⟨j, hj, htag⟩ => ?_, fun h => ⟨i, List.mem_filter.2 ⟨hmem, (hiff i).2 h⟩, rfl⟩⟩
  obtain ⟨hj, hp⟩ := List.mem_filter.1 hj
  have hsame : s.item? i.tag = some j := htag ▸ item_of_mem hi hj
  obtain rfl : i = j := Option.some.inj ((item_of_mem hi hmem).symm.trans hsame)
  exact (hiff i).1 hp

theorem outTags_nodup (hi : s.Inv) : (s.outTags slot).Nodup :=
  List.pairwise_map.2 ((hi.tags.imp fun h => Nat.ne_of_lt h).filter _)

/-! ### What the items come to -/

/-- The part after the withdrawals, the arbitration not yet run. -/
def State.withdrawnAll (s : State) (o : Order) (b : Nat) : State :=
  ((s.outTags o.slot).foldl (State.withdrawForCancel o.slot) (s.unpacks o b)).awaiting o.slot (s.toWithdraw o.slot)

theorem withdrawnAll_spec (hi : s.Inv) (ho : s.order? o.slot = some o) (hu : u = s.withdrawnAll o b) :
    u.Inv ∧ u.benches.map standing = (s.unpacks o b).benches.map standing ∧
    (s.unpacks o b).bus.sent <+: u.bus.sent ∧
    (∃ p, u.order? o.slot = some p ∧ p.state = .cancelling ∧ p.held = false ∧ p.withdrawals = s.toWithdraw o.slot) ∧
    (∀ i ∈ s.items, i.allocatedTo o.slot = true → i.location ≠ .inHamper →
      ∃ j, u.item? i.tag = some j ∧ Withdrawn (s.unpacks o b) u o.slot i j) ∧
    ∀ i ∈ s.items, i.allocatedTo o.slot = true → i.location = .inHamper → ∃ w, u.item? i.tag = some { i with wait := w } := by
  have hthere (tag : Nat) (htag : tag ∈ s.outTags o.slot) :
      ∃ i a, (s.unpacks o b).item? tag = some i ∧ i.alloc = some a ∧ a.slot = o.slot := by
    obtain ⟨i, hmem, rfl⟩ := List.mem_map.1 htag
    obtain ⟨hmem, hp⟩ := List.mem_filter.1 hmem
    rw [Bool.and_eq_true, allocatedTo_iff] at hp
    obtain ⟨⟨a, ha, hslot⟩, -⟩ := hp
    exact ⟨i, a, item_of_mem hi hmem, ha, hslot⟩
  obtain ⟨hw, hin, hout⟩ := withdraw_all (s.outTags o.slot) (outTags_nodup hi) (unpacks_withdrawing (b := b) hi ho) hthere
  have hend : u = ((s.outTags o.slot).foldl (State.withdrawForCancel o.slot) (s.unpacks o b)).updOrder o.slot
      (fun p => { p with withdrawals := s.toWithdraw o.slot }) := by
    rw [hu, updOrder_eq]
    rfl
  clear hu
  generalize (s.outTags o.slot).foldl (State.withdrawForCancel o.slot) (s.unpacks o b) = v at hw hin hout hend
  subst hend
  obtain ⟨p, hp, hstands⟩ := Option.map_eq_some_iff.1 hw.order
  refine ⟨(updOrder_work o.slot v).inv hw.inv, hw.benches, hw.sent, ⟨_, order_updOrder_same hp _, ?_, ?_, ?_⟩,
    fun i hmem hmine hl => ?_, fun i hmem hmine hl => ?_⟩
  · exact congrArg Prod.fst hstands
  · exact congrArg Prod.snd hstands
  · rfl
  · obtain ⟨j, hj, hdone⟩ := hin i (item_of_mem hi hmem) ((mem_outTags hi hmem).2 ⟨hmine, hl⟩)
    exact ⟨j, hj, hdone.alloc, hdone.loop, hdone.chute, hdone.returned⟩
  · refine hout i i.tag (fun h => ((mem_outTags hi hmem).1 h).2 hl) (item_of_mem hi hmem) fun a ha => ?_
    obtain ⟨d, hd, hslot⟩ := (allocatedTo_iff i o.slot).1 hmine
    rw [ha] at hd
    cases hd
    exact hslot

/-- R20: what entering CANCELLING leaves: the withdrawals' work, and an arbitration that concerns no item of the order. -/
theorem arbitrate_item_cancelling (hu : u.Inv) {p : Order} (hp : u.order? o.slot = some p) (hpc : p.state = .cancelling)
    {tag : Nat} (hj : u.item? tag = some j) (hmine : ∀ a, j.alloc = some a → a.slot = o.slot) :
    u.arbitrate.item? tag = some j := by
  refine arbitrate_item hu hj fun a q ha hq hbuilding => ?_
  rw [hmine a ha, hp] at hq
  obtain rfl := Option.some.inj hq
  rw [hpc] at hbuilding
  cases hbuilding

end

end Sys2Proof.Machine
end

section
/-! SUPPORT. Cancel Order (R20): the request. -/

namespace Sys2Proof.Machine

open Sys2Proof

variable {c : Instr} {s t u : State} {slot k : Nat} {i j : Item} {a : Alloc} {o : Order} {b : Nat} {x : Bench}

/-- R20: what one withdrawal of the chain does to its item, as its rule says. -/
def State.Withdraws (t : State) (slot tag : Nat) (v : State) : Prop := ∀ i a, t.item? tag = some i → i.alloc = some a →
  (i.location = .onLoop → v = ((t.letGo slot i a).item tag (fun j => { j with dest := some .exception })).withSent .sorter
    (.route tag (some .exception))) ∧
  (i.location = .inChute → v = ((t.letGo slot i a).item tag (fun j => { j with withdrawal := some slot })).sendReturn
    (i.locBench.getD 0) tag) ∧
  (i.location = .bufferToChute → v = (t.letGo slot i a).item tag (fun j => { j with withdrawal := some slot })) ∧
  (i.location = .atLane ∨ i.location = .inBuffer ∨ i.location = .inHamper → v = t.letGo slot i a)

theorem withdraws_step (t : State) (slot tag : Nat) : t.Withdraws slot tag (t.withdrawForCancel slot tag) := by
  intro i a hi ha
  obtain rfl : i.tag = tag := (look_some hi).2
  exact ⟨withdraw_onLoop hi ha, withdraw_inChute hi ha, withdraw_bufferToChute hi ha, withdraw_resting hi ha⟩

/-- R20 (log entry 18): the withdrawals as a chain of states, one tag after another. -/
theorem withdrawals_chain (tags : List Nat) (slot : Nat) (t : State) (k tag : Nat) (h : tags[k]? = some tag) :
    ((tags.take k).foldl (State.withdrawForCancel slot) t).Withdraws slot tag
      ((tags.take (k + 1)).foldl (State.withdrawForCancel slot) t) := by
  rw [List.take_add_one, h, Option.toList_some, List.foldl_append, List.foldl_cons, List.foldl_nil]
  exact withdraws_step _ slot tag

theorem cancelOrder_unbound (hi : s.Inv) (ho : s.order? o.slot = some o) (h : o.state = .loaded) (hb : o.bench = none) :
    State.cancelOrder o s = (⟨.ok, .slot o.slot⟩,
      { s.withOrder { o with state := .cancelled } with notices := s.notices.raised .orderCancelled }) := by
  have hsame : ({ o with state := .cancelled, bench := none } : Order) = { o with state := .cancelled } := by rw [← hb]
  simp only [State.cancelOrder, h, hb, if_true, State.taken, orderReply, State.becomeCancelled, ho]
  rw [updOrder_eq_withOrder hi ho _ rfl, hsame]
  rfl

theorem cancelOrder_bound (h : o.state = .loaded ∨ o.state = .building ∨ o.state = .held ∨ o.state = .complete)
    (hb : o.bench = some b) : State.cancelOrder o s = (⟨.ok, .slot o.slot⟩, s.enterCancelling o.slot) := by
  rcases h with h | h | h | h <;>
    simp only [State.cancelOrder, h, hb, reduceCtorEq, if_false, State.taken, orderReply]

/-- Settles O46: the order CANCELLING, its items by `withdraw_all`, and the arbitration. -/
theorem cancelOrderWithdrawsItsItems : Obligations.CancelOrderWithdrawsItsItems := by
  intro s rq ref o hi hn
  have ho := named_order hi hn
  refine ⟨fun h => named_next hn rfl rfl ?_, fun h => named_next hn rfl rfl ?_,
    fun h hb => named_next hn rfl rfl (cancelOrder_unbound hi ho h hb), fun b x h hb hx => ?bound⟩
  · rcases h with h | h <;> simp only [State.cancelOrder, h, State.refusedWith, orderReply]
  · rcases h with h | h <;> simp only [State.cancelOrder, h, State.taken, orderReply]
  case bound =>
    have hend : s.enterCancelling o.slot = (s.withdrawnAll o b).arbitrate := enterCancelling_eq hi ho hb
    obtain ⟨hu, hbenches, hsent, ⟨p, hp, hstate, hheld, hcount⟩, hout, hin⟩ := withdrawnAll_spec hi ho (b := b) rfl
    generalize hw : s.withdrawnAll o b = w at hend hu hbenches hsent hp hout hin
    have hall : (s.unpacks o b).bus.sent <+: w.arbitrate.bus.sent := hsent.trans (arbitrate_work w).sent
    have hfrom : s.bus.sent <+: (s.unpacks o b).bus.sent := List.prefix_append _ _
    have hlen := hfrom.length_le
    have later {e : FieldUnit × OutRecord} (he : e ∈ w.bus.sent.drop (s.unpacks o b).bus.sent.length) :
        e ∈ w.arbitrate.bus.sent.drop s.bus.sent.length :=
      List.drop_subset_drop_left _ hlen (sent_mono (arbitrate_work w).sent he)
    have gone (i) (hmem : i ∈ s.items) (hm : ∃ a, i.alloc = some a ∧ a.slot = o.slot) (hl : i.location ≠ .inHamper) :
        ∃ j, w.arbitrate.item? i.tag = some j ∧ Withdrawn (s.unpacks o b) w o.slot i j := by
      obtain ⟨j, hj, hd⟩ := hout i hmem ((allocatedTo_iff _ _).2 hm) hl
      exact ⟨j, arbitrate_item_cancelling hu hp hstate hj fun a ha => (nomatch hd.alloc.symm.trans ha), hd⟩
    intro mine
    refine ⟨s.enterCancelling o.slot, named_reply (r := ⟨.ok, .slot o.slot⟩) hn rfl rfl (cancelOrder_bound h hb), ?_⟩
    rw [hend]
    refine ⟨⟨p, ?_, hstate, hheld, hcount⟩, ?_, sent_mono hall (sent_last (List.prefix_refl _) _), fun i hmem hm hl => ?_,
      fun i hmem hm hl => ?_, fun i hmem hm hl => ?_, fun i hmem hm hl => ?_, fun i hmem hm hl hret => ?_, rfl,
      fun k => ((s.outTags o.slot).take k).foldl (State.withdrawForCancel o.slot) (s.unpacks o b), rfl,
      fun k tag htag => ?_, ?_⟩
    · rw [State.order?, arbitrate_book]
      exact hp
    · have hst := bench_standing (b := b) ((congrArg (List.map standing) (arbitrate_benches w)).trans hbenches)
      rw [unpacks_bench hx] at hst
      obtain ⟨y, hy, hsame⟩ := Option.map_eq_some_iff.1 hst
      simp only [standing, Prod.mk.injEq] at hsame
      exact ⟨y, hy, hsame.2.1, hsame.2.2.2.1⟩
    · obtain ⟨j, hj, hd⟩ := gone i hmem hm hl
      exact ⟨j, hj, hd.alloc⟩
    · obtain ⟨wait, hj⟩ := hin i hmem ((allocatedTo_iff _ _).2 hm) hl
      refine ⟨_, arbitrate_item_cancelling hu hp hstate hj fun a ha => ?_, rfl⟩
      obtain ⟨d, hd, hslot⟩ := hm
      cases hd.symm.trans ha
      exact hslot
    · obtain ⟨j, hj, hd⟩ := gone i hmem hm (by rw [hl]; decide)
      exact ⟨j, hj, (hd.loop hl).1, later (hd.loop hl).2⟩
    · obtain ⟨j, hj, hd⟩ := gone i hmem hm (by rcases hl with h | h <;> rw [h] <;> decide)
      exact ⟨j, hj, hd.chute hl⟩
    · obtain ⟨j, hj, hd⟩ := gone i hmem hm (by rw [hl]; decide)
      obtain ⟨hs, hm⟩ := hd.returned hl hret
      exact ⟨later hs, j, hj, hm⟩
    · exact withdrawals_chain _ o.slot _ k tag htag
    · rw [← hw]
      have htake : (s.outTags o.slot).take (s.outTags o.slot).length = s.outTags o.slot := List.take_length
      refine congrArg State.arbitrate (?_ : State.awaiting _ _ _ = _)
      have hfold := congrArg (fun tags => tags.foldl (State.withdrawForCancel o.slot) (s.unpacks o b)) htake
      exact congrArg (fun v => State.awaiting v o.slot (s.toWithdraw o.slot)) hfold.symm

end Sys2Proof.Machine
end

section
/-! SUPPORT. The Arrival record (R45, R46). -/

namespace Sys2Proof.Machine

open Sys2Proof

variable {c : Instr} {s t u : State}

/-! ### The checks of an Arrival (R45) -/

/-- R45: the range of each field, and the fields that a class asks for. -/
structure ArrivalFields.Fits (a : ArrivalFields) (k : ItemClass) : Prop where
  tag : 1 ≤ a.tag ∧ a.tag ≤ 65534
  sku : 1 ≤ a.sku ∧ a.sku ≤ 16777214
  cls : classOfCode a.cls = some k
  mass : 1 ≤ a.mass ∧ a.mass ≤ 25000
  volume : 1 ≤ a.volume ∧ a.volume ≤ 40000
  exit : k = .chilled → a.chillExit ≠ none

theorem not_inRange {lo hi n : Nat} (h : ¬(lo ≤ n ∧ n ≤ hi)) : (!inRange lo hi n) = true := by
  rw [inRange_false.2 (by omega)]
  rfl

theorem inRange_not {lo hi n : Nat} (h : lo ≤ n ∧ n ≤ hi) : ¬(!inRange lo hi n) = true := by
  rw [inRange_iff.2 h]
  decide

section

variable {a : ArrivalFields} {k : ItemClass}

theorem arrival_tag (h : ¬(1 ≤ a.tag ∧ a.tag ≤ 65534)) : arrivalRangeFault a = some 1 := if_pos (not_inRange h)

theorem arrival_sku (h1 : 1 ≤ a.tag ∧ a.tag ≤ 65534) (h : ¬(1 ≤ a.sku ∧ a.sku ≤ 16777214)) :
    arrivalRangeFault a = some 2 := (if_neg (inRange_not h1)).trans (if_pos (not_inRange h))

theorem arrival_cls (h1 : 1 ≤ a.tag ∧ a.tag ≤ 65534) (h2 : 1 ≤ a.sku ∧ a.sku ≤ 16777214)
    (h : classOfCode a.cls = none) : arrivalRangeFault a = some 3 := by
  refine (if_neg (inRange_not h1)).trans ((if_neg (inRange_not h2)).trans ?_)
  rw [h]

/-- The checks that follow the class. -/
theorem arrival_rest (h1 : 1 ≤ a.tag ∧ a.tag ≤ 65534) (h2 : 1 ≤ a.sku ∧ a.sku ≤ 16777214)
    (h : classOfCode a.cls = some k) : arrivalRangeFault a = if !inRange 1 25000 a.mass then some 4
      else if !inRange 1 40000 a.volume then some 5
      else if k == .chilled && a.chillExit == none then some 6
      else none := by
  refine (if_neg (inRange_not h1)).trans ((if_neg (inRange_not h2)).trans ?_)
  rw [h]

theorem arrival_fits (h : a.Fits k) : arrivalRangeFault a = none := by
  refine (arrival_rest h.tag h.sku h.cls).trans ((if_neg (inRange_not h.mass)).trans
    ((if_neg (inRange_not h.volume)).trans (if_neg fun hc => ?_)))
  rw [Bool.and_eq_true, beq_iff_eq, beq_iff_eq] at hc
  exact h.exit hc.1 hc.2

end

/-- R190: an Arrival from a lane with a body of 12 bytes is taken by its owner. -/
theorem arrivalRecord_fits {addr : Byte} {body : List Byte} {n : Nat} (hu : unitOf addr = some (.lane n))
    (hl : body.length = 12) (s : State) :
    State.arrivalRecord addr body s = s.takeArrival (ArrivalFields.read body) n := by
  have hsends : (FieldUnit.lane n).sends 0x01 = true := (sends_iff _ _).2 (by simp)
  simp only [State.arrivalRecord, State.fieldRecord, recordFault, hu, hsends, hl, beq_self_eq_true, Bool.not_true,
    Bool.false_eq_true, if_false]

/-- An event whose work ends in a report, nothing of the quiet condition having changed. -/
theorem event_reports {f : State → State} {k : FaultKind} {x : FaultCtx} {d : Nat} (h : f s = u.raiseFault k x d)
    (hq : s.quietParts = u.quietParts := by rfl) (hc : s.cell.state = u.cell.state := by rfl) :
    event f s = .next (u.raiseFault k x d) := by
  rw [event, h, judgeQuiet_fault k x d s u hq hc]

section

variable {a : ArrivalFields} {k : ItemClass} {n : Nat} {l : Lane}

theorem takeArrival_range {d : Nat} (h : arrivalRangeFault a = some d) : s.takeArrival a n =
    (s.withSent (.lane n) (.laneReject a.tag .outOfRange)).raiseFault .fieldMismatch
      ⟨some a.tag, none, none, some n, some a.sku⟩ d := by
  simp only [State.takeArrival, h]
  rfl

theorem takeArrival_twice (h : arrivalRangeFault a = none) (hi : s.item? a.tag ≠ none) : s.takeArrival a n =
    (s.withSent (.lane n) (.laneReject a.tag .duplicate)).raiseFault .dupTag ⟨some a.tag, none, none, some n, some a.sku⟩ 0 := by
  simp only [State.takeArrival, h, Option.isSome_iff_ne_none.2 hi, if_true]
  rfl

/-- R45: an Arrival discarded for want of room. -/
theorem overrun_eq (s : State) (n : Nat) (a : ArrivalFields) (d : Nat) : s.overrun n a d =
    ({ s.withSent (.lane n) .laneHold with
      lanes := s.lanes.map (fun m : Lane => if m.number = n then { m with signal := .hold } else m) } : State).raiseFault
        .laneOverrun ⟨some a.tag, none, none, some n, some a.sku⟩ d := by
  unfold State.overrun
  rw [updLane_eq]
  rfl

theorem takeArrival_fits (h : arrivalRangeFault a = none) (hi : s.item? a.tag = none) (hl : s.lane? n = some l) :
    s.takeArrival a n = if 4 ≤ l.queue.length then s.overrun n a 1
      else if 320 ≤ s.items.length then s.overrun n a 2
      else s.acceptArrival n a ((classOfCode a.cls).getD .ambient) := by
  simp only [State.takeArrival, h, hi, hl, Option.isSome_none, Bool.false_eq_true, if_false, Option.map_some, Option.getD_some,
    State.tableFull, decide_eq_true_eq]
  rfl

/-- R46: an accepted Arrival. -/
theorem acceptArrival_eq (s : State) (n : Nat) (a : ArrivalFields) (k : ItemClass) : s.acceptArrival n a k =
    ({ s with
      items := insertBy Item.tag (newItem n s.timers.dwellBudget a k) s.items
      lanes := s.lanes.map (fun m : Lane => if m.number = n then { m with queue := m.queue ++ [a.tag] } else m) } :
        State).judgeLanes.tryAdmit := by
  unfold State.acceptArrival
  rw [updLane_eq]

end

/-- Settles O50: the checks of R45 one after another, and R46. -/
theorem arrivalIsCheckedThenQueued : Obligations.ArrivalIsCheckedThenQueued := by
  refine ⟨fun s addr body n hu hl => ?length, fun s addr body n l hu hl hlane => ?checks⟩
  case length =>
    have hbad := fieldRecord_badLength (hd := ⟨addr, body.length == 12⟩) (kind := 0x01)
      (State.takeArrival (ArrivalFields.read body)) s hu ((sends_iff _ _).2 rfl) (beq_false_of_ne hl)
    show event (State.arrivalRecord addr body) s = _
    exact event_mismatch hbad
  case checks =>
    intro a ctx c overrun outOfRange tagOk skuOk massOk volumeOk
    have hrun : State.arrivalRecord addr body s = s.takeArrival a n := arrivalRecord_fits hu hl s
    have range {d : Nat} (h : arrivalRangeFault a = some d) : outOfRange d :=
      event_reports (hrun.trans (takeArrival_range h))
    have full {d : Nat} (h : s.takeArrival a n = s.overrun n a d) : overrun d :=
      event_reports (hrun.trans (h.trans (overrun_eq s n a d)))
    refine ⟨fun h => range (arrival_tag h), fun h1 h => range (arrival_sku h1 h), fun h1 h2 h => range (arrival_cls h1 h2 h),
      fun k h1 h2 hk => ?_, fun h1 h2 h3 h4 ⟨k, hk, hexit⟩ => ?_⟩
    · have hrest := arrival_rest h1 h2 hk
      refine ⟨fun h => range (hrest.trans (if_pos (not_inRange h))),
        fun h3 h => range (hrest.trans ((if_neg (inRange_not h3)).trans (if_pos (not_inRange h)))),
        fun h3 h4 hc hx => range (hrest.trans ((if_neg (inRange_not h3)).trans ((if_neg (inRange_not h4)).trans (if_pos ?_))))⟩
      rw [hc, hx]
      rfl
    · have hfits : arrivalRangeFault a = none := arrival_fits ⟨h1, h2, hk, h3, h4, hexit⟩
      refine ⟨fun hi => event_reports (hrun.trans (takeArrival_twice hfits hi)), fun hi => ?_⟩
      have htake := takeArrival_fits hfits hi hlane
      refine ⟨fun h => full (htake.trans (if_pos h)),
        fun h5 h => full (htake.trans ((if_neg (not_le.2 h5)).trans (if_pos h))), fun h5 h6 k' hk' => ?_⟩
      have haccept := htake.trans ((if_neg (not_le.2 h5)).trans (if_neg (not_le.2 h6)))
      rw [hk', Option.getD_some, acceptArrival_eq] at haccept
      have hown := hrun.trans haccept
      show event (State.arrivalRecord addr body) s = _
      rw [event, hown]
      rfl

end Sys2Proof.Machine
end

section
/-! SUPPORT. The records of the sorter: Divert Done and Loop Pass (R57 to R60, R90). -/

namespace Sys2Proof.Machine

open Sys2Proof

variable {c : Instr} {s t u : State} {hd : RecHead} {tag b : Nat} {p : Point} {i : Item}

/-! ### Divert Done (R57, R58) -/

theorem sorterPoint_iff : sorterPoint p = true ↔ p = .buffer ∨ p = .exception ∨ ∃ b, p = .bench b ∧ 1 ≤ b ∧ b ≤ 12 := by
  cases p <;> simp [sorterPoint, inRange_iff]

/-- R58: an earlier Route's hold names the point. -/
theorem holdNames_iff (h : Hold) (hp : sorterPoint p = true) : holdNames h p = true ↔
    (p = .buffer ∧ h.commonAt ≠ none ∧ h.chuteAt = none) ∨
    (pointBench? p ≠ none ∧ h.chuteAt = pointBench? p ∧ h.commonAt = none) := by
  cases p with
  | bench b =>
    have hb : pointBench? (.bench b) = some b := if_pos hp
    rw [hb]
    cases h <;> simp [holdNames, Hold.commonAt, Hold.chuteAt]
  | buffer => cases h <;> simp [holdNames, Hold.commonAt, Hold.chuteAt, pointBench?]
  | exception => cases h <;> simp [holdNames, pointBench?]
  | other => cases hp

/-- R58: the point whose credits an item that left the loop keeps. -/
def keptPoint (i : Item) (p : Point) : Point := if i.dest = some p ∨ holdNames i.hold p = true then p else .other

/-- R57, R58: an item off the loop: where it was not sent it is reported, unless an earlier Route's hold names the point,
and its allocation is released. -/
def State.offLoop (s : State) (i : Item) (p : Point) : State :=
  if i.dest = some p then s else
    (if holdNames i.hold p = true then s else s.raiseFault .misroute (misrouteCtx i p) (misrouteDetail p)).releaseAlloc i.tag

theorem divertTracked_bench (s : State) (i : Item) (b : Nat) : s.divertTracked i (.bench b) = eitherOrder
    (fun t => (if i.dest = some (.bench b) then t.placeTry b else t.sendReturn b i.tag).settleAt (keptPoint i (.bench b)) i.tag)
    State.tryAdmit ((s.offLoop i (.bench b)).enter .inChute (some b) i.tag) := by
  unfold State.divertTracked State.offLoop keptPoint
  by_cases hs : i.dest = some (.bench b)
  · simp only [hs, if_true, true_or]
    rfl
  · by_cases hl : holdNames i.hold (.bench b) = true
    · simp only [hs, hl, if_true, if_false, or_true]
      rfl
    · simp only [hs, hl, if_false, or_self, Bool.false_eq_true]
      rfl

theorem divertTracked_buffer (s : State) (i : Item) : s.divertTracked i .buffer = eitherOrder
    (fun t => (t.settleAt (keptPoint i .buffer) i.tag).arbitrate) State.tryAdmit
    ((s.offLoop i .buffer).enter .inBuffer none i.tag) := by
  unfold State.divertTracked State.offLoop keptPoint
  by_cases hs : i.dest = some .buffer
  · simp only [hs, if_true, true_or]
    rfl
  · by_cases hl : holdNames i.hold .buffer = true
    · simp only [hs, hl, if_true, if_false, or_true]
      rfl
    · simp only [hs, hl, if_false, or_self, Bool.false_eq_true]
      rfl

theorem divertTracked_exception (s : State) (i : Item) :
    s.divertTracked i .exception = (s.offLoop i .exception).leaveLoop i := by
  unfold State.divertTracked State.offLoop
  by_cases hs : i.dest = some .exception
  · simp only [hs, if_true]
    rfl
  · have hl : ¬holdNames i.hold .exception = true := by cases i.hold <;> simp [holdNames]
    simp only [hs, hl, if_false]
    rfl

theorem dropRecord_eq (s : State) (tag : Nat) : s.dropRecord tag = ({ s with
    items := s.items.filter (fun j => decide (j.tag ≠ tag))
    arbiter := { s.arbiter with heldBack := s.arbiter.heldBack.filter (fun k => decide (k ≠ tag)) } } : State).judgeLanes := by
  unfold State.dropRecord
  simp only [dropKey_eq, bne_decide]

theorem divert_report {d : Nat} {x : FaultCtx} (h : RecFits hd 0x11 .sorter)
    (hd' : s.divert tag p = s.raiseFault .fieldMismatch x d) :
    exec (.divertDone hd tag p) s = .next (s.raiseFault .fieldMismatch x d) :=
  event_mismatch ((fieldRecord_fits h (.inl rfl)).trans hd')

theorem divert_ends (h : RecFits hd 0x11 .sorter) (hd' : s.divert tag p = t) : exec (.divertDone hd tag p) s = s.ends t :=
  event_fits h (.inl rfl) hd'

theorem divert_tracked (hp : sorterPoint p = true) (hi : s.item? tag = some i) (hl : i.location = .onLoop) :
    s.divert tag p = s.divertTracked i p := by
  simp only [State.divert, hp, hi, hl, Bool.not_true, Bool.false_eq_true, if_false, if_true]

/-- Settles O51: the record by its point, its item and the item's destination. -/
theorem divertDoneSettlesTheItem : Obligations.DivertDoneSettlesTheItem := by
  intro s hd tag p hf c valid
  have hvalid : sorterPoint p = true ↔ valid := sorterPoint_iff
  refine ⟨fun h => divert_report hf ?_, fun h hi => ⟨fun hp => ?_, fun hp => divert_report hf ?_⟩,
    fun i h hi => ⟨fun hl => divert_report hf ?_, fun hl => ?tracked⟩⟩
  · simp only [State.divert, mt hvalid.1 h, Bool.not_false, if_true]
    rfl
  · refine (divert_ends hf ?_ : _ = s.ends s).trans (congrArg Host.Outcome.next (judgeQuiet_self s))
    have hpoint : sorterPoint Point.exception = true := rfl
    simp only [State.divert, hp, hpoint, hi, Bool.not_true, Bool.false_eq_true, if_false, if_true]
  · simp only [State.divert, hvalid.2 h, hi, hp, Bool.not_true, Bool.false_eq_true, if_false]
  · simp only [State.divert, hvalid.2 h, hi, hl, Bool.not_true, Bool.false_eq_true, if_false]
    rfl
  case tracked =>
    have hown := divert_tracked (hvalid.2 h) hi hl
    obtain rfl : i.tag = tag := (look_some hi).2
    intro sent late ctx kept v entered
    have hlate : late = holdNames i.hold p := (eq_decide_of_iff (holdNames_iff i.hold (hvalid.2 h))).symm
    have hkept : kept = keptPoint i p := by
      simp only [kept, sent, hlate, keptPoint, Bool.or_eq_true, decide_eq_true_eq]
    have hv : v = s.offLoop i p := by
      simp only [v, sent, hlate, State.offLoop, decide_eq_true_eq]
      rfl
    refine ⟨fun b hb => divert_ends hf ?_, fun hb => divert_ends hf ?_, fun hb => divert_ends hf ?_⟩
    · have hent : entered .inChute (some b) = (s.offLoop i p).enter .inChute (some b) i.tag := by
        rw [enter_eq, ← hv]
      rw [hown, hent, hkept]
      simp only [sent, decide_eq_true_eq]
      subst hb
      exact divertTracked_bench s i b
    · have hent : entered .inBuffer none = (s.offLoop i p).enter .inBuffer none i.tag := by
        rw [enter_eq, ← hv]
      rw [hown, hent, hkept]
      subst hb
      exact divertTracked_buffer s i
    · subst hb
      rw [hown, divertTracked_exception, ← hv, State.leaveLoop, dropRecord_eq, funext (giveBack_eq i)]

/-! ### Loop Pass (R59, R60) -/

theorem sendOut_eq (t : State) (tag : Nat) : t.sendOut tag = { t.releaseAlloc tag with
    items := (t.releaseAlloc tag).items.map (fun j : Item =>
      if j.tag = tag then { j with dest := some .exception } else j) : State }.withSent .sorter
        (.route tag (some .exception)) := by
  unfold State.sendOut
  rw [updItem_eq]
  rfl

/-- R60: an item whose lap count has risen. -/
def State.lapped (s : State) (i : Item) : State :=
  { s with items := s.items.map (fun j : Item => if j.tag = i.tag then { j with laps := min 15 (i.laps + 1) } else j) }

theorem passTracked_eq (s : State) (i : Item) : s.passTracked i =
    (if s.cell.state = .restarting then (s.lapped i).sendOut i.tag
      else (s.lapped i).passByDest { i with laps := min 15 (i.laps + 1) }).settleAfterPass i.tag := by
  simp only [State.passTracked, updItem_eq, beq_iff_eq]
  rfl

theorem pass_report {d : Nat} {x : FaultCtx} (h : RecFits hd 0x12 .sorter)
    (hp : s.pass tag = u.raiseFault .fieldMismatch x d) (hq : s.quietParts = u.quietParts := by rfl)
    (hc : s.cell.state = u.cell.state := by rfl) :
    exec (.loopPass hd tag) s = .next (u.raiseFault .fieldMismatch x d) :=
  event_reports ((fieldRecord_fits h (.inl rfl)).trans hp) hq hc

theorem pass_tracked (h : RecFits hd 0x12 .sorter) (hi : s.item? i.tag = some i) (hl : i.location = .onLoop)
    (hp : (if s.cell.state = .restarting then (s.lapped i).sendOut i.tag
      else (s.lapped i).passByDest { i with laps := min 15 (i.laps + 1) }) = t) :
    exec (.loopPass hd i.tag) s = s.ends (t.settleAt (((t.item? i.tag).bind (·.dest)).getD .other) i.tag) := by
  have hown : s.pass i.tag = t.settleAfterPass i.tag := by
    simp only [State.pass, hi, hl, if_true]
    exact (passTracked_eq s i).trans (congrArg (State.settleAfterPass i.tag) hp)
  exact event_fits h (.inl rfl) hown

section

variable {laps : Nat}

theorem lapOut_eq (t : State) (d : Nat) : t.lapOut { i with laps := laps } d = (t.sendOut i.tag).raiseFault .noHome
    ⟨some i.tag, i.alloc.map (·.slot), none, some i.lane, some i.sku⟩ d := rfl

theorem passByDest_point (h : i.dest = some .buffer ∨ ∃ b, i.dest = some (.bench b)) : t.passByDest { i with laps := laps } =
    if t.loop.lapLimit ≤ laps then t.lapOut { i with laps := laps } 1 else t := by
  rcases h with h | ⟨b, h⟩ <;> simp only [State.passByDest, h, decide_eq_true_eq]

theorem passByDest_exception (h : i.dest = some .exception) : t.passByDest { i with laps := laps } = t := by
  simp only [State.passByDest, h]

theorem passByDest_none (h : i.dest = none) (hu : u = if t.working then t.runAllocation i.tag else t) :
    t.passByDest { i with laps := laps } =
      if u.hasDest i.tag = true then u else if t.loop.lapLimit ≤ laps then u.lapOut { i with laps := laps } 0 else u := by
  simp only [State.passByDest, h, decide_eq_true_eq, hu]

end

/-! ### Settling credits (R90) -/

theorem settleAt_none (hi : s.item? i.tag = some i) (h : i.hold = .none) : s.settleAt p i.tag = s := by
  have hcommon := returnCommon_none hi (by rw [h]; rfl)
  simp only [State.settleAt, hcommon, ite_self, hi, Option.map_some, h]

theorem settleAt_chute (hi : s.item? i.tag = some i) (h : i.hold = .chute b) : s.settleAt p i.tag =
    if p = .bench b then s else ((s.holding i .none).credited i.vu (some b) none).arbitrate := by
  have hcommon := returnCommon_none hi (by rw [h]; rfl)
  simp only [State.settleAt, hcommon, ite_self, hi, Option.map_some, h, returnChute_chute hi h]

theorem settleAt_common (hi : s.item? i.tag = some i) (h : i.hold = .common b) : s.settleAt p i.tag =
    if p = .buffer then s else (s.holding i .none).credited i.vu none (some b) := by
  by_cases hp : p = .buffer
  · simp only [State.settleAt, hp, if_true, hi, Option.map_some, h]
  · have hheld : ((s.holding i .none).credited i.vu none (some b)).item? i.tag = some { i with hold := .none } :=
      item_same (t := s) (fun j => { j with hold := .none }) hi
    simp only [State.settleAt, hp, if_false, returnCommon_common hi h, hheld, Option.map_some]

/-- Settles O52: the pass by the cell state and the destination, and the settling by the hold. -/
theorem loopPassIsHandledByDestination : Obligations.LoopPassIsHandledByDestination := by
  refine ⟨fun s hd tag hf => ?pass, fun s tag p i hi => ?settle⟩
  case pass =>
    refine ⟨fun hi => pass_report hf ?_, fun i hi => ⟨fun hl => pass_report hf ?_, fun hl => ?tracked⟩⟩
    · simp only [State.pass, hi]
      rfl
    · simp only [State.pass, hi, hl, if_false]
      rfl
    case tracked =>
      obtain rfl : i.tag = tag := (look_some hi).2
      intro laps v out noHome settles
      have hout (t : State) : t.sendOut i.tag = out t := sendOut_eq t i.tag
      have hlap (t : State) (d : Nat) : t.lapOut { i with laps := laps } d = noHome t d := by
        rw [lapOut_eq, hout]
      refine ⟨fun hr => pass_tracked hf hi hl ((if_pos hr).trans (hout v)), fun hr => ⟨fun hd => ⟨fun h => ?_, fun h => ?_⟩,
        fun hd => ?_, fun hd => ?_⟩⟩
      · exact pass_tracked hf hi hl ((if_neg hr).trans ((passByDest_point hd).trans (if_neg (not_le.2 h))))
      · exact pass_tracked hf hi hl ((if_neg hr).trans ((passByDest_point hd).trans ((if_pos h).trans (hlap v 1))))
      · exact pass_tracked hf hi hl ((if_neg hr).trans (passByDest_exception hd))
      · intro r
        have hr' : r = if v.working then v.runAllocation i.tag else v := if_congr (working_iff s).symm rfl rfl
        have hown := passByDest_none (laps := laps) hd hr'
        refine ⟨fun h => pass_tracked hf hi hl ((if_neg hr).trans (hown.trans ?_)),
          fun h1 h2 => pass_tracked hf hi hl ((if_neg hr).trans (hown.trans ?_))⟩
        · by_cases hdest : r.hasDest i.tag = true
          · exact if_pos hdest
          · exact (if_neg hdest).trans (if_neg (not_le.2 (h.resolve_left hdest)))
        · exact (if_neg (by simp [h1])).trans ((if_pos h2).trans (hlap r 0))
  case settle =>
    obtain rfl : i.tag = tag := (look_some hi).2
    exact ⟨settleAt_none hi, fun b => settleAt_chute hi, fun b => settleAt_common hi⟩

end Sys2Proof.Machine
end

section
/-! SUPPORT. The records of the buffer: Delivered and Release Failed (R98, R100, R101). -/

namespace Sys2Proof.Machine

open Sys2Proof

variable {c : Instr} {s t u : State} {hd : RecHead} {tag b k : Nat} {p q : Point} {i : Item}

theorem pointBench_bench (h1 : 1 ≤ b) (h12 : b ≤ 12) : pointBench? (.bench b) = some b := if_pos (inRange_iff.2 ⟨h1, h12⟩)

theorem deliveryPoint_bench (h1 : 1 ≤ b) (h12 : b ≤ 12) : deliveryPoint (.bench b) = true := inRange_iff.2 ⟨h1, h12⟩

/-! ### A tag on no entry (R100) -/

/-- R100: the bench named by a report of a tag on no entry. -/
theorem pointBench_eq (p : Point) : pointBench? p = match p with
    | .bench n => if 1 ≤ n ∧ n ≤ 12 then some n else none
    | .buffer | .exception | .other => none := by
  cases p with
  | bench n => exact if_congr inRange_iff rfl rfl
  | buffer | exception | other => rfl

theorem noEntry_eq (s : State) (tag : Nat) (x : Option Nat) : s.noEntry tag x = s.raiseFault .fieldMismatch
    { FaultCtx.empty with tag := some tag, bench := x } (if s.item? tag = none then 0 else 1) := by
  unfold State.noEntry
  cases s.item? tag <;> rfl

theorem delivered_noEntry (he : s.releaseEntry? tag = none) : s.delivered tag p = s.noEntry tag (pointBench? p) := by
  simp only [State.delivered, he]

theorem releaseFailed_noEntry (he : s.releaseEntry? tag = none) : s.releaseFailed tag = s.noEntry tag none := by
  simp only [State.releaseFailed, he]

/-! ### Two changes of one item -/

/-- Two changes of an item, one after the other, are one. -/
theorem map_item_twice {f g h : Item → Item} {tag : Nat} (items : List Item) (hf : ∀ j, (f j).tag = j.tag)
    (hh : ∀ j, g (f j) = h j) : (items.map (fun j => if j.tag = tag then f j else j)).map
      (fun j => if j.tag = tag then g j else j) = items.map (fun j => if j.tag = tag then h j else j) := by
  refine List.map_map.trans (List.map_congr_left fun j _ => ?_)
  by_cases hj : j.tag = tag
  · simp only [Function.comp, hj, if_true, hf, hh]
  · simp only [Function.comp, hj, if_false]

/-! ### Deliveries (R98, R100) -/

/-- R98: the item in the chute of the bench ordered, its common credits returned. -/
theorem deliveredAt_entered (hi : s.item? i.tag = some i) (hh : i.hold = .both k) :
    (s.returnCommon i.tag).enter .inChute (some b) i.tag = { s.credited i.vu none (some k) with
      entryCounter := (s.entryCounter + 1) % 4294967296
      items := s.items.map (fun j : Item => if j.tag = i.tag then { j with
        hold := .chute k, location := .inChute, locBench := some b, dest := none, entrySeq := s.entryCounter } else j) } := by
  rw [returnCommon_both hi hh, enter_eq]
  have hitems := map_item_twice (tag := i.tag) s.items (f := fun j => { j with hold := .chute k })
    (g := fun j => { j with location := .inChute, locBench := some b, dest := none, entrySeq := s.entryCounter })
    (h := fun j => { j with
        hold := .chute k, location := .inChute, locBench := some b, dest := none, entrySeq := s.entryCounter })
    (fun _ => rfl) (fun _ => rfl)
  rw [← hitems]
  rfl

theorem deliveredAt_eq (b : Nat) (hu : u = (s.returnCommon i.tag).enter .inChute (some b) i.tag) :
    s.deliveredAt b i = if i.alloc = none then u.sendReturn b i.tag else u.placeTry b := by
  unfold State.deliveredAt
  cases ha : i.alloc <;> simp [hu]

theorem answerDelivered_bench : s.answerDelivered (.bench b) (.bench b) i = s.deliveredAt b i := if_pos rfl

theorem answerDelivered_misdelivered (hq : q ≠ p) (hp : deliveryPoint p = true) :
    s.answerDelivered p q i = s.misdelivered p i := (if_neg (Ne.symm hq)).trans (if_pos hp)

theorem answerDelivered_nowhere (hq : q ≠ p) (hp : deliveryPoint p = false) :
    s.answerDelivered p q i = s.deliveredNowhere p i := (if_neg (Ne.symm hq)).trans (if_neg (by simp [hp]))

theorem deliveryPoint_false (h : p = .buffer ∨ p = .other ∨ ∃ b, p = .bench b ∧ (b = 0 ∨ 12 < b)) :
    deliveryPoint p = false ∧ pointBench? p = none := by
  rcases h with rfl | rfl | ⟨b, rfl, hb⟩
  · exact ⟨rfl, rfl⟩
  · exact ⟨rfl, rfl⟩
  · have hout : inRange 1 12 b = false := inRange_false.2 (by omega)
    exact ⟨hout, if_neg (by simp [hout])⟩

/-! ### A failed release (R101) -/

theorem holdBack_eq (h : tag ∉ s.arbiter.heldBack) : s.holdBack tag =
    { s with arbiter := { s.arbiter with heldBack := insertBy id tag s.arbiter.heldBack } } :=
  if_neg (by simpa using h)

/-- R101: a release to a chute that failed: what it took is given back. -/
theorem failed_givesBack (hi : s.item? i.tag = some i) (hh : i.hold = .both k) :
    (s.dropChuteHold i.tag).updItem i.tag (fun x => { x with location := .inBuffer }) = { s.credited i.vu (some k) none with
      items := s.items.map (fun j : Item => if j.tag = i.tag then { j with hold := .common k, location := .inBuffer } else j) } := by
  have hdrop : s.dropChuteHold i.tag = (s.holding i (.common k)).credited i.vu (some k) none := by
    simp only [State.dropChuteHold, hi, hh]
    rw [credited_chute, updItem_eq]
    rfl
  have hitems := map_item_twice (tag := i.tag) s.items (f := fun j => { j with hold := .common k })
    (g := fun j => { j with location := .inBuffer }) (h := fun j => { j with hold := .common k, location := .inBuffer })
    (fun _ => rfl) (fun _ => rfl)
  rw [hdrop, updItem_eq, ← hitems]
  rfl

theorem releaseFailed_entry (he : s.releaseEntry? tag = some q) (hi : s.item? tag = some i) :
    s.releaseFailed tag = ((s.dropRelease tag).failedRelease q i).arbitrate := by
  simp only [State.releaseFailed, he, dropRelease_item, hi]

/-! ### The commands -/

section

variable (s i)

/-- R101: a failed release reported and the tag held back. -/
def State.releaseHeld (d : Nat) (x : Option Nat) : State :=
  let v := (s.dropRelease i.tag).raiseFault .bufferFault ⟨some i.tag, i.alloc.map (·.slot), x, some i.lane, some i.sku⟩ d
  { v with arbiter := { v.arbiter with heldBack := insertBy id i.tag s.arbiter.heldBack } }

theorem releaseHeld_eq (d : Nat) (x : Option Nat) (h : i.tag ∉ s.arbiter.heldBack) :
    ((s.dropRelease i.tag).raiseFault .bufferFault ⟨some i.tag, i.alloc.map (·.slot), x, some i.lane, some i.sku⟩ d).holdBack
      i.tag = s.releaseHeld i d x := by
  have harb : ((s.dropRelease i.tag).raiseFault .bufferFault
      ⟨some i.tag, i.alloc.map (·.slot), x, some i.lane, some i.sku⟩ d).arbiter = (s.dropRelease i.tag).arbiter :=
    (congrArg State.arbiter (raiseFault_frame _ _ _ _) :)
  have hheld : (s.dropRelease i.tag).arbiter.heldBack = s.arbiter.heldBack := rfl
  rw [holdBack_eq (by rw [harb, hheld]; exact h), State.releaseHeld, harb, hheld]

theorem releaseHeld_item (d : Nat) (x : Option Nat) (k : Nat) : (s.releaseHeld i d x).item? k = s.item? k := by
  have hitems : (s.releaseHeld i d x).items = s.items :=
    (congrArg State.items (raiseFault_frame .bufferFault ⟨some i.tag, i.alloc.map (·.slot), x, some i.lane, some i.sku⟩ d
      (s.dropRelease i.tag)) :)
  rw [State.item?, hitems]
  rfl

end

theorem failedRelease_bench (h1 : 1 ≤ b) (h12 : b ≤ 12) (hi : s.item? i.tag = some i) (hh : i.hold = .both k)
    (h : i.tag ∉ s.arbiter.heldBack) : (s.dropRelease i.tag).failedRelease (.bench b) i =
      ({ (s.releaseHeld i 1 (some b)).credited i.vu (some k) none with
        items := (s.releaseHeld i 1 (some b)).items.map (fun j : Item =>
          if j.tag = i.tag then { j with hold := .common k, location := .inBuffer } else j) } : State).answerWithdrawal i.tag := by
  rw [← failed_givesBack ((releaseHeld_item s i 1 (some b) i.tag).trans hi) hh, ← releaseHeld_eq s i 1 (some b) h]
  simp only [State.failedRelease, pointBench_bench h1 h12]
  rfl

theorem failedRelease_exception (h : i.tag ∉ s.arbiter.heldBack) :
    (s.dropRelease i.tag).failedRelease .exception i = s.releaseHeld i 2 none := by
  rw [← releaseHeld_eq s i 2 none h]
  rfl

theorem delivered_ends (hf : RecFits hd 0x18 .buffer) (he : s.releaseEntry? i.tag = some q) (hi : s.item? i.tag = some i)
    (h : (s.dropRelease i.tag).answerDelivered p q i = t) : exec (.delivered hd i.tag p) s = s.ends t.arbitrate :=
  event_fits hf (.inr rfl) ((delivered_entry p he hi).trans (congrArg State.arbitrate h))

theorem releaseFailed_ends (hf : RecFits hd 0x19 .buffer) (he : s.releaseEntry? i.tag = some q) (hi : s.item? i.tag = some i)
    (h : (s.dropRelease i.tag).failedRelease q i = t) : exec (.releaseFailed hd i.tag) s = s.ends t.arbitrate :=
  event_fits hf (.inr rfl) ((releaseFailed_entry he hi).trans (congrArg State.arbitrate h))

/-- R100: a misdelivery at a bench. -/
theorem misdelivered_bench (h1 : 1 ≤ b) (h12 : b ≤ 12) (hv : t = (s.raiseFault .misroute
      ⟨some i.tag, i.alloc.map (·.slot), some b, some i.lane, some i.sku⟩ 4).releaseAlloc i.tag) :
    s.misdelivered (.bench b) i =
      (((t.enter .inChute (some b) i.tag).sendReturn b i.tag).returnCommon i.tag).returnChute i.tag := by
  have hctx : misrouteCtx i (.bench b) = ⟨some i.tag, i.alloc.map (·.slot), some b, some i.lane, some i.sku⟩ := by
    rw [misrouteCtx, pointBench_bench h1 h12]
    rfl
  rw [State.misdelivered, hctx, hv]
  rfl

/-- R100: a delivery at a point that no delivery has. -/
theorem deliveredNowhere_eq (hp : pointBench? p = none) : s.deliveredNowhere p i =
    (({ s with freeCount := s.freeCount + 1 } : State).raiseFault .misroute
      ⟨some i.tag, i.alloc.map (·.slot), none, some i.lane, some i.sku⟩ (Config.freeByte s.freeCount).toNat).releaseAlloc
        i.tag := by
  rw [State.deliveredNowhere, misrouteCtx, hp]
  rfl

/-- Settles O54: each answer by the entry it finds. -/
theorem deliveriesAndFailedReleasesFollowTheirRules : Obligations.DeliveriesAndFailedReleasesFollowTheirRules := by
  refine fun s hd tag => ⟨fun hf he p => ?_, fun hf he => ?_, fun i hi => ?tracked⟩
  · exact event_mismatch ((fieldRecord_fits hf (.inr rfl)).trans ((delivered_noEntry he).trans
      ((congrArg (State.noEntry tag · s) (pointBench_eq p)).trans (noEntry_eq s tag _))))
  · exact event_mismatch ((fieldRecord_fits hf (.inr rfl)).trans ((releaseFailed_noEntry he).trans (noEntry_eq s tag none)))
  case tracked =>
    obtain rfl : i.tag = tag := (look_some hi).2
    have hdrop := dropRelease_eq i.tag s
    have hkept : (s.dropRelease i.tag).item? i.tag = some i := hi
    refine ⟨fun hf b k h1 h12 he hh => ?_, fun hf b q h1 h12 he hq => ?_, fun hf q he hq => ?_,
      fun hf p q hp he hq => ⟨(Config.freeByte s.freeCount).toNat, BitVec.isLt _, ?_⟩, fun hf hheld => ⟨fun b k h1 h12 he hh => ?_, fun he => ?_⟩⟩
    · refine delivered_ends hf he hi (answerDelivered_bench.trans ((deliveredAt_eq b rfl).trans ?_))
      rw [deliveredAt_entered hkept hh, hdrop]
      rfl
    · refine delivered_ends hf he hi ((answerDelivered_misdelivered hq (deliveryPoint_bench h1 h12)).trans
        ((misdelivered_bench h1 h12 rfl).trans ?_))
      rw [enter_eq, hdrop]
    · refine delivered_ends hf he hi ((answerDelivered_misdelivered hq rfl).trans ?_)
      rw [hdrop]
      rfl
    · obtain ⟨hpoint, hbench⟩ := deliveryPoint_false hp
      refine delivered_ends hf he hi ((answerDelivered_nowhere hq hpoint).trans ((deliveredNowhere_eq hbench).trans ?_))
      rw [hdrop]
    · refine releaseFailed_ends hf he hi ((failedRelease_bench h1 h12 hi hh hheld).trans ?_)
      rw [State.releaseHeld, hdrop]
    · refine releaseFailed_ends hf he hi ((failedRelease_exception hheld).trans ?_)
      rw [State.releaseHeld, hdrop]

end Sys2Proof.Machine
end

section
/-! SUPPORT. The records of a bench: Bench Open, Bench Close, Base Fitted and Pocket Fitted (R8, R109, R110, R117, R118). -/

namespace Sys2Proof.Machine

open Sys2Proof

variable {c : Instr} {s t u : State} {hd : RecHead} {b slot kind : Nat} {x : Bench} {o : Order}
  {owner : Nat → State → State}

/-! ### A record of a bench (R190) -/

/-- R195: the kinds that a bench sends. -/
def benchKind (kind : Nat) : Bool := decide (0x20 ≤ kind ∧ kind ≤ 0x2A)

theorem benchRecord (hu : unitOf hd.addr = some (.bench b)) (hl : hd.lengthOk = true) (hk : benchKind kind = true) :
    State.fieldRecord hd kind owner s = owner b s := by
  have hsends : (FieldUnit.bench b).sends kind = true := hk
  simp only [State.fieldRecord, recordFault, hu, hsends, hl, Bool.not_true, Bool.false_eq_true, if_false]

section

variable (hu : unitOf hd.addr = some (.bench b)) (hl : hd.lengthOk = true)

include hu hl

/-- The event of such a record. -/
theorem bench_ends (ho : owner b s = t) (hk : benchKind kind = true := by rfl) :
    event (State.fieldRecord hd kind owner) s = s.ends t :=
  congrArg s.ends ((benchRecord hu hl hk).trans ho)

/-- Such a record without effect. -/
theorem bench_stands (ho : owner b s = s) (hk : benchKind kind = true := by rfl) :
    event (State.fieldRecord hd kind owner) s = .next s :=
  (bench_ends hu hl ho hk).trans (congrArg Host.Outcome.next (judgeQuiet_self s))

/-- Such a record that is reported. -/
theorem bench_reports {y : FaultCtx} {d : Nat} (ho : owner b s = s.raiseFault .fieldMismatch y d)
    (hk : benchKind kind = true := by rfl) :
    event (State.fieldRecord hd kind owner) s = .next (s.raiseFault .fieldMismatch y d) :=
  event_mismatch ((benchRecord hu hl hk).trans ho)

end

/-- The bench of a number set by f. -/
def State.benchSet (s : State) (b : Nat) (f : Bench → Bench) : State :=
  { s with benches := s.benches.map (fun y : Bench => if y.number = b then f y else y) }

/-! ### Bench Open and Bench Close (R109, R110) -/

section

variable (hx : s.bench? b = some x)

include hx

theorem benchOpen_closed (h : x.state = .closed) :
    s.benchOpen b = (s.benchSet b (fun y => { y with state := .idle, staffed := true })).bindPass := by
  simp only [State.benchOpen, hx, h, updBench_eq]
  rfl

theorem benchOpen_idle (h : x.state = .idle) : s.benchOpen b = s := by simp only [State.benchOpen, hx, h]

theorem benchOpen_occupied (h1 : x.state ≠ .closed) (h2 : x.state ≠ .idle) :
    s.benchOpen b = if x.staffed then s else s.restaff b := by
  simp only [State.benchOpen, hx]
  cases h : x.state with
  | closed => exact absurd h h1
  | idle => exact absurd h h2
  | fitting | building | sealing | holding | releasing | unpacking => rfl

theorem benchClose_closed (h : x.state = .closed) : s.benchClose b = s := by simp only [State.benchClose, hx, h]

theorem benchClose_idle (h : x.state = .idle) :
    s.benchClose b = s.benchSet b (fun y => { y with state := .closed, staffed := false }) := by
  simp only [State.benchClose, hx, h, updBench_eq]
  rfl

theorem benchClose_occupied (h1 : x.state ≠ .closed) (h2 : x.state ≠ .idle) :
    s.benchClose b = s.benchSet b (fun y => { y with staffed := false }) := by
  rw [State.benchSet, ← updBench_eq s b (fun y => { y with staffed := false })]
  simp only [State.benchClose, hx]
  cases h : x.state with
  | closed => exact absurd h h1
  | idle => exact absurd h h2
  | fitting | building | sealing | holding | releasing | unpacking => rfl

end

/-- R109: the bench staffed again, its Places and its Seal tried. -/
def State.restaffed (s : State) (b : Nat) : State :=
  ((s.benchSet b (fun y => { y with staffed := true })).placeTry b).sealTry b

theorem restaff_eq (hu : u = s.restaffed b) : s.restaff b = match u.holdingLane? b with
    | none => u
    | some n => u.serveLane n := by
  rw [State.restaff, updBench_eq, hu] <;> rfl

theorem holds_iff (d : DispatchLane) (b : Nat) : d.holding.any (fun e => e.1 == b) = true ↔ ∃ e ∈ d.holding, e.1 = b := by
  simp only [List.any_eq_true, beq_iff_eq]

/-- R154: the bench stands on no holding list. -/
theorem restaff_alone (hu : u = s.restaffed b) (h : ∀ d ∈ u.dispatch, ∀ e ∈ d.holding, e.1 ≠ b) : s.restaff b = u := by
  have hnone : u.holdingLane? b = none := by
    rw [State.holdingLane?, List.find?_eq_none.2 fun d hd hc => ?_]
    · rfl
    · obtain ⟨e, he, heq⟩ := (holds_iff d b).1 hc
      exact h d hd e he heq
  rw [restaff_eq hu, hnone]

/-- R154: the lane of the bench's list is served. -/
theorem restaff_listed (hu : u = s.restaffed b) {before after : List DispatchLane} {d : DispatchLane}
    (hd : u.dispatch = before ++ d :: after) (hbefore : ∀ c ∈ before, ∀ e ∈ c.holding, e.1 ≠ b)
    (hthere : ∃ slot, (b, slot) ∈ d.holding) : s.restaff b = u.serveLane d.number := by
  have hfind : u.dispatch.find? (fun d => d.holding.any (fun e => e.1 == b)) = some d := by
    rw [hd, List.find?_append, List.find?_eq_none.2 fun c hc hh => ?_, Option.none_or]
    · obtain ⟨slot, hmem⟩ := hthere
      exact List.find?_cons_of_pos ((holds_iff d b).2 ⟨_, hmem, rfl⟩)
    · obtain ⟨e, he, heq⟩ := (holds_iff c b).1 hh
      exact hbefore c hc e he heq
  rw [restaff_eq hu, State.holdingLane?, hfind]
  rfl

/-! ### Base Fitted and Pocket Fitted (R8, R117, R118) -/

section

variable (hx : s.bench? b = some x)

include hx

theorem baseFitted_fitting (h : x.state = .fitting) (hs : x.orderSlot = some slot) : s.baseFitted b =
    (({ s.benchSet b (fun y => { y with state := .building }) with
      book := { s.book with orders := s.book.orders.map (fun o : Order =>
        if o.slot = slot ∧ o.state = .loaded then { o with state := if o.held then .held else .building } else o) } } :
          State).placeTry b).completionCheck slot := by
  have hbased (o : Order) : (if o.slot = slot then o.based else o) =
      if o.slot = slot ∧ o.state = .loaded then { o with state := if o.held then .held else .building } else o := by
    by_cases hslot : o.slot = slot
    · simp only [hslot, if_true, true_and, Order.based, beq_iff_eq]
    · simp only [hslot, if_false, false_and]
  simp only [State.baseFitted, hx, h, hs, Option.getD_some, updBench_eq, updOrder_eq, hbased]
  rfl

theorem baseFitted_unpacking (h : x.state = .unpacking) : s.baseFitted b = s := by simp only [State.baseFitted, hx, h]

theorem baseFitted_other (h1 : x.state ≠ .fitting) (h2 : x.state ≠ .unpacking) : s.baseFitted b = s.benchMismatch b 3 := by
  simp only [State.baseFitted, hx]
  cases h : x.state with
  | fitting => exact absurd h h1
  | unpacking => exact absurd h h2
  | closed | idle | building | sealing | holding | releasing => rfl

theorem pocketFitted_unpacking (h : x.state = .unpacking) : s.pocketFitted b = s := by
  simp only [State.pocketFitted, hx, h, if_true]

theorem pocketFitted_noHamper (h : x.state ≠ .unpacking) (hh : x.hamper = none) : s.pocketFitted b = s.benchMismatch b 3 := by
  simp only [State.pocketFitted, hx, h, hh, if_false]

theorem pocketFitted_hamper {g : Hamper} (h : x.state ≠ .unpacking) (hh : x.hamper = some g) :
    s.pocketFitted b = match g.pocket with
      | .requested => s.fitPocket b (x.orderSlot.getD 0)
      | .fitted => s
      | .none => s.benchMismatch b 3 := by
  simp only [State.pocketFitted, hx, h, hh, if_false] <;> rfl

end

theorem clearWaits_eq (s : State) (slot : Nat) (w : WaitCause) : s.clearWaits slot w =
    { s with items := s.items.map (fun j : Item =>
      if j.wait = w ∧ (∃ a, j.alloc = some a ∧ a.slot = slot) then { j with wait := .none } else j) } := by
  unfold State.clearWaits
  congr 1
  refine List.map_congr_left fun i _ => if_congr ?_ rfl rfl
  rw [Bool.and_eq_true, allocatedTo_iff, beq_iff_eq, and_comm]

theorem fitPocket_eq (s : State) (b slot : Nat) : s.fitPocket b slot =
    ({ s.benchSet b (fun y => { y with hamper := y.hamper.map (fun g : Hamper => { g with pocket := .fitted }) }) with
      items := s.items.map (fun j : Item =>
        if j.wait = .pocket ∧ (∃ a, j.alloc = some a ∧ a.slot = slot) then { j with wait := .none } else j) } :
          State).arbitrate.sealTry b := by
  rw [State.fitPocket, clearWaits_eq, updHamper_eq]
  rfl

/-- Settles O55: each record by the bench's state. -/
theorem benchStaffingAndFittingFollowTheirTables : Obligations.BenchStaffingAndFittingFollowTheirTables := by
  intro s hd b x hu hl hx set reported
  refine ⟨fun h => ⟨bench_ends hu hl (benchOpen_closed hx h), bench_stands hu hl (benchClose_closed hx h)⟩,
    fun h => ⟨bench_stands hu hl (benchOpen_idle hx h), bench_ends hu hl (benchClose_idle hx h)⟩,
    fun h1 h2 => ⟨fun hs => ?_, fun hs => ?_, bench_ends hu hl (benchClose_occupied hx h1 h2)⟩,
    fun h slot hs => bench_ends hu hl (baseFitted_fitting hx h hs),
    fun h => ⟨bench_stands hu hl (baseFitted_unpacking hx h), bench_stands hu hl (pocketFitted_unpacking hx h)⟩,
    fun h1 h2 => bench_reports hu hl (baseFitted_other hx h1 h2),
    fun h => ⟨fun hh => bench_reports hu hl (pocketFitted_noHamper hx h hh), fun g hh => ⟨fun hp => ?_, fun hp => ?_,
      fun hp slot hs => ?_⟩⟩⟩
  · exact bench_stands hu hl ((benchOpen_occupied hx h1 h2).trans (if_pos hs))
  · have hown := (benchOpen_occupied hx h1 h2).trans (if_neg (by simp [hs]))
    exact ⟨fun h => bench_ends hu hl (hown.trans (restaff_alone rfl h)),
      fun before d after hd hbefore hthere => bench_ends hu hl (hown.trans (restaff_listed rfl hd hbefore hthere))⟩
  · have hown := pocketFitted_hamper hx h hh
    rw [hp] at hown
    exact bench_reports hu hl hown
  · have hown := pocketFitted_hamper hx h hh
    rw [hp] at hown
    exact bench_stands hu hl hown
  · have hown := pocketFitted_hamper hx h hh
    rw [hp, hs] at hown
    exact bench_ends hu hl (hown.trans (fitPocket_eq s b slot))

end Sys2Proof.Machine
end

section
/-! SUPPORT. The records that end a build: Sealed, Hamper Out and Unpacked (R11, R21, R129, R131, R132, R153, R157). -/

namespace Sys2Proof.Machine

open Sys2Proof

variable {s t u : State} {hd : RecHead} {b slot n : Nat} {x : Bench} {o : Order}

/-! ### Records freed one after another (R42) -/

theorem returnCommon_frame (tag : Nat) (s : State) :
    { s.returnCommon tag with items := s.items, chutes := s.chutes, pool := s.pool } = s := by
  unfold State.returnCommon
  cases s.item? tag with
  | none => rfl
  | some i => cases h : i.hold <;> simp only [h] <;> rfl

theorem dropChuteHold_frame (tag : Nat) (s : State) : { s.dropChuteHold tag with items := s.items, chutes := s.chutes } = s := by
  unfold State.dropChuteHold
  cases s.item? tag with
  | none => rfl
  | some i => cases h : i.hold <;> simp only [h] <;> rfl

/-- R42: what freeing a record leaves. -/
structure FreedFrom (s t : State) : Prop where
  book : t.book = s.book
  benches : t.benches = s.benches
  waves : t.waves = s.waves
  lateLane : t.lateLane = s.lateLane
  clock : t.clock = s.clock

theorem FreedFrom.trans (h : FreedFrom s t) (k : FreedFrom t u) : FreedFrom s u :=
  ⟨k.book.trans h.book, k.benches.trans h.benches, k.waves.trans h.waves, k.lateLane.trans h.lateLane,
    k.clock.trans h.clock⟩

theorem freeItem_freed (tag : Nat) (s : State) : FreedFrom s (s.freeItem tag) := by
  have h1 : FreedFrom s (s.returnCommon tag) := by
    have h := returnCommon_frame tag s
    exact ⟨(congrArg State.book h :), (congrArg State.benches h :), (congrArg State.waves h :),
      (congrArg State.lateLane h :), (congrArg State.clock h :)⟩
  have h2 : FreedFrom (s.returnCommon tag) ((s.returnCommon tag).dropChuteHold tag) := by
    have h := dropChuteHold_frame tag (s.returnCommon tag)
    exact ⟨(congrArg State.book h :), (congrArg State.benches h :), (congrArg State.waves h :),
      (congrArg State.lateLane h :), (congrArg State.clock h :)⟩
  have h3 (v : State) : FreedFrom v v.judgeLanes.arbitrate := by
    have h := arbitrate_frame v.judgeLanes
    exact ⟨(congrArg State.book h :), (congrArg State.benches h :), (congrArg State.waves h :),
      (congrArg State.lateLane h :), (congrArg State.clock h :)⟩
  have h4 (v : State) (items : List Item) (a : Arbiter) : FreedFrom v { v with items := items, arbiter := a } :=
    ⟨rfl, rfl, rfl, rfl, rfl⟩
  exact ((h1.trans h2).trans (h4 _ _ _)).trans (h3 _)

/-- The records of some tags freed. -/
theorem freeItems_freed (tags : List Nat) (s : State) : FreedFrom s (tags.foldl (fun u tag => u.freeItem tag) s) := by
  induction tags generalizing s with
  | nil => exact ⟨rfl, rfl, rfl, rfl, rfl⟩
  | cons tag tags ih => exact (freeItem_freed tag s).trans (ih _)

/-- R21, R129: the tags of an order's items in its hamper. -/
def State.inside (s : State) (slot : Nat) : List Nat :=
  (s.items.filter (fun i => decide (i.location = .inHamper ∧ ∃ a, i.alloc = some a ∧ a.slot = slot))).map (·.tag)

theorem inHamperOf_eq (s : State) (slot : Nat) : s.inHamperOf slot = s.inside slot := by
  unfold State.inHamperOf State.inside
  congr 2
  funext i
  refine eq_decide_of_iff ?_
  rw [Bool.and_eq_true, allocatedTo_iff, beq_iff_eq, and_comm]

/-- R42: the items in an order's hamper leave the table. -/
def State.insideFreed (s : State) (slot : Nat) : State := (s.inside slot).foldl (fun u tag => u.freeItem tag) s

theorem insideFreed_freed (s : State) (slot : Nat) : FreedFrom s (s.insideFreed slot) := freeItems_freed _ s

/-- The order in a slot set by f. -/
def State.orderSet (s : State) (slot : Nat) (f : Order → Order) : State :=
  { s with book := { s.book with orders := s.book.orders.map (fun o : Order => if o.slot = slot then f o else o) } }

theorem orderAt_eq (hs : x.orderSlot = some o.slot) (ho : s.order? o.slot = some o) : s.orderAt? x = some o := by
  rw [State.orderAt?, hs, Option.bind_some, ho]

/-! ### Sealed (R129, R153) -/

section

variable (hx : s.bench? b = some x)

include hx

theorem hamperSealed_unpacking (h : x.state = .unpacking) : s.hamperSealed b = s := by
  simp only [State.hamperSealed, hx, h]

theorem hamperSealed_other (h1 : x.state ≠ .unpacking) (h2 : x.state ≠ .sealing) :
    s.hamperSealed b = s.benchMismatch b 3 := by
  simp only [State.hamperSealed, hx]
  cases h : x.state with
  | unpacking => exact absurd h h1
  | sealing => exact absurd h h2
  | closed | idle | fitting | building | holding | releasing => rfl

theorem hamperSealed_sealing (h : x.state = .sealing) (hs : x.orderSlot = some o.slot) (ho : s.order? o.slot = some o) :
    s.hamperSealed b = if o.state = .complete then s.sealOrder b o else s.benchMismatch b 3 := by
  simp only [State.hamperSealed, hx, h, orderAt_eq hs ho]

theorem hamperOut_other (h : x.state ≠ .releasing) : s.hamperOut b = s.benchMismatch b 3 := by
  simp only [State.hamperOut, hx]
  cases hs : x.state with
  | releasing => exact absurd hs h
  | closed | idle | fitting | building | sealing | holding | unpacking => rfl

theorem hamperOut_releasing (h : x.state = .releasing) (hs : x.orderSlot = some o.slot) (ho : s.order? o.slot = some o) :
    s.hamperOut b = if o.state = .sealed then s.dispatchOrder b o else s.benchMismatch b 3 := by
  simp only [State.hamperOut, hx, h, orderAt_eq hs ho]

theorem unpacked_other (h : x.state ≠ .unpacking ∨ x.unpacked = true) : s.unpacked b = s.benchMismatch b 3 := by
  have hn : ¬(x.state = .unpacking ∧ x.unpacked = false) := fun ⟨h1, h2⟩ => h.elim (fun h => h h1) (fun h => by simp [h] at h2)
  simp only [State.unpacked, hx, hn, if_false]

theorem unpacked_unpacking (h : x.state = .unpacking) (hu : x.unpacked = false) (hs : x.orderSlot = some slot) :
    s.unpacked b = s.takeApart b slot := by
  simp only [State.unpacked, hx, h, hu, hs, and_self, if_true, Option.getD_some]

end

/-- R153: a hamper on the holding list of a lane, the lane served. -/
def State.heldBy (t : State) (n b slot : Nat) : State :=
  ({ t with
    dispatch := t.dispatch.map (fun d : DispatchLane => if d.number = n then
      { d with holding := d.holding ++ [(b, slot)] } else d)
    benches := t.benches.map (fun y : Bench => if y.number = b then { y with state := .holding } else y) } :
      State).serveLane n

theorem joins_eq (t : State) (n b slot : Nat) : ((t.updDispatch n (fun d => { d with holding := d.holding ++ [(b, slot)] })).updBench b
    (fun x => { x with state := .holding })).serveLane n = t.heldBy n b slot := by
  rw [updDispatch_eq, updBench_eq]
  rfl

theorem takeSealed_late (h : t.waveState o.wave = .departed) : t.takeSealed b o =
    ((t.orderSet o.slot (fun p => { p with late := true })).raiseFault .lateHamper
      ⟨none, some o.slot, some b, some t.lateLane, none⟩ o.wave).heldBy t.lateLane b o.slot := by
  rw [takeSealed_departed b h, State.lateReported, updOrder_eq]
  exact joins_eq _ _ _ _

theorem takeSealed_planned {w : Wave} (hw : t.wave? o.wave = some w) (hs : w.state ≠ .departed) (hl : w.lane = some n) :
    t.takeSealed b o = t.heldBy n b o.slot := by
  have hdep : (t.waveState o.wave == .departed) = false := by
    rw [State.waveState, hw]
    simpa using hs
  simp only [State.takeSealed, hdep, Bool.false_eq_true, if_false, hw, Option.bind_some, hl, Option.getD_some, joins_eq]

/-- R11, R129: the order SEALED, the items in its hamper freed. -/
def State.sealedUp (s : State) (slot : Nat) : State :=
  (s.orderSet slot (fun p => { p with state := .sealed, sealMinute := some s.clock.minute })).insideFreed slot

theorem sealOrder_eq (s : State) (b : Nat) (o : Order) : s.sealOrder b o = (s.sealedUp o.slot).takeSealed b o := by
  simp only [State.sealOrder, updOrder_eq, inHamperOf_eq]
  rfl

theorem sealedUp_freed (s : State) (slot : Nat) : (s.sealedUp slot).waves = s.waves ∧ (s.sealedUp slot).lateLane = s.lateLane := by
  have h := insideFreed_freed (s.orderSet slot (fun p => { p with state := .sealed, sealMinute := some s.clock.minute })) slot
  exact ⟨h.waves, h.lateLane⟩

theorem wave_congr (h : t.waves = s.waves) (n : Nat) : t.wave? n = s.wave? n ∧ t.waveState n = s.waveState n := by
  unfold State.waveState State.wave?
  rw [h]
  exact ⟨rfl, rfl⟩

/-! ### Hamper Out (R11, R157) -/

/-- R157: a cage that takes a hamper. -/
def State.cageTaken (s : State) (n : Nat) (d : DispatchLane) : State :=
  let u : State := { s with dispatch := s.dispatch.map (fun e : DispatchLane => if e.number = n then
    { e with count := min 40 (e.count + 1), inFlight := e.inFlight - 1 } else e) }
  if d.matchCount ≠ 0 ∧ min 40 (d.count + 1) = d.matchCount then { u with notices := s.notices.raised .cageMatch } else u

theorem cageTakes_eq {d : DispatchLane} (hd : s.dispatchLane? n = some d) : s.cageTakes n = s.cageTaken n d := by
  have hthere : (s.updDispatch n DispatchLane.taken).dispatchLane? n = some d.taken :=
    (look_amend_same (f := DispatchLane.taken) (fun _ => rfl) s.dispatch).trans (congrArg (Option.map _) hd)
  simp only [State.cageTakes, hthere]
  rw [updDispatch_eq]
  rfl

theorem cageTaken_bench (s : State) (n : Nat) (d : DispatchLane) : (s.cageTaken n d).benches = s.benches := by
  unfold State.cageTaken
  exact (apply_ite State.benches _ _ _).trans (ite_self _)

/-- R11: the hamper of an order handed over. -/
def State.dispatched (v : State) (slot : Nat) : State :=
  { v.orderSet slot (fun p => { p with state := .dispatched, bench := none }) with
    notices := v.notices.raised .orderDispatched }

/-- R132: a bench that has no order any more. -/
def State.handedBack (t : State) (b : Nat) (x : Bench) : State :=
  let v := t.benchSet b (fun y => { y with
    orderSlot := none, hamper := none, unpacked := false, stalled := false
    state := if y.staffed then .idle else .closed })
  if x.staffed then v.bindPass else v

theorem dispatchOrder_eq {d : DispatchLane} (hx : s.bench? b = some x) (hl : o.dispatchLane = some n)
    (hd : s.dispatchLane? n = some d) : s.dispatchOrder b o = ((s.cageTaken n d).dispatched o.slot).handedBack b x := by
  have hthere : ((s.cageTaken n d).dispatched o.slot).bench? b = some x :=
    (congrArg (look Bench.number b) (cageTaken_bench s n d)).trans hx
  rw [State.dispatchOrder, hl, Option.getD_some, cageTakes_eq hd, updOrder_eq]
  exact handBack_eq hthere

/-! ### Unpacked (R21, R131) -/

/-- R131: the hamper of a bench gone, its items freed. -/
def State.apart (s : State) (b slot : Nat) : State :=
  (s.benchSet b (fun y => { y with unpacked := true, hamper := none })).insideFreed slot

theorem takeApart_eq (s : State) (b slot : Nat) : s.takeApart b slot =
    if (s.apart b slot).cancelDone slot then (s.apart b slot).becomeCancelled slot else s.apart b slot := by
  simp only [State.takeApart, updBench_eq, inHamperOf_eq]
  rfl

section

variable (ho : s.order? slot = some o) (hx : s.bench? b = some x)

include hx in
theorem apart_bench : (s.apart b slot).bench? b = some { x with unpacked := true, hamper := none } := by
  refine (congrArg (look Bench.number b) (insideFreed_freed _ slot).benches).trans ?_
  have h := bench_updBench_same hx (fun y => { y with unpacked := true, hamper := none })
  rwa [updBench_eq] at h

include ho

theorem apart_order (b : Nat) : (s.apart b slot).order? slot = some o :=
  (congrArg (fun k : Book => look Order.slot slot k.orders) (insideFreed_freed _ slot).book).trans ho

theorem takeApart_waits (hw : o.withdrawals ≠ 0) : s.takeApart b slot = s.apart b slot := by
  have hno : (s.apart b slot).cancelDone slot = false := by
    simp only [State.cancelDone, apart_order ho b, beq_false_of_ne hw, Bool.and_false, Bool.false_and]
  rw [takeApart_eq, hno]
  rfl

include hx in
theorem takeApart_cancels (hc : o.state = .cancelling) (hb : o.bench = some b) (hw : o.withdrawals = 0) :
    s.takeApart b slot = if x.staffed then ((s.apart b slot).cancelledAt slot b).bindPass
      else (s.apart b slot).cancelledAt slot b := by
  have hyes : (s.apart b slot).cancelDone slot = true := by
    simp only [State.cancelDone, apart_order ho b, hc, hb, hw, Option.bind_some, apart_bench hx]
    rfl
  rw [takeApart_eq, hyes, if_pos rfl]
  exact becomeCancelled_bound (x := { x with unpacked := true, hamper := none }) (apart_order ho b) hb (apart_bench hx)

end

/-- Settles O57: each record by the bench's state and its order's. -/
theorem sealedHamperOutAndUnpackedEndTheBuild : Obligations.SealedHamperOutAndUnpackedEndTheBuild := by
  intro s hd b x hu hl hx bench order lane reported inside free handed
  refine ⟨fun h => bench_stands hu hl (hamperSealed_unpacking hx h),
    fun h1 h2 => bench_reports hu hl (hamperSealed_other hx h1 h2),
    fun h => bench_reports hu hl (hamperOut_other hx h), fun h => bench_reports hu hl (unpacked_other hx h),
    fun o hs ho => ⟨fun h hc => bench_reports hu hl ((hamperSealed_sealing hx h hs ho).trans (if_neg hc)),
      fun h hc => bench_reports hu hl ((hamperOut_releasing hx h hs ho).trans (if_neg hc)), fun h hc => ?_,
      fun h hc n d hn hd => bench_ends hu hl (((hamperOut_releasing hx h hs ho).trans (if_pos hc)).trans
        (dispatchOrder_eq hx hn hd)), fun h hun hc hb => ?_⟩⟩
  · have hown := ((hamperSealed_sealing hx h hs ho).trans (if_pos hc)).trans (sealOrder_eq s b o)
    have hwave := wave_congr (sealedUp_freed s o.slot).1 o.wave
    refine ⟨fun hdep => bench_ends hu hl (hown.trans ?_), fun n w hw hdep hn => bench_ends hu hl (hown.trans ?_)⟩
    · rw [takeSealed_late (hwave.2.trans hdep), (sealedUp_freed s o.slot).2]
      rfl
    · exact takeSealed_planned (hwave.1.trans hw) hdep hn
  · have hown := unpacked_unpacking hx h hun hs
    exact ⟨fun hw => bench_ends hu hl (hown.trans (takeApart_waits ho hw)),
      fun hw => bench_ends hu hl (hown.trans (takeApart_cancels ho hx hc hb hw))⟩

end Sys2Proof.Machine
end

section
/-! SUPPORT. The answers of a bench for one item: Placed, Place Refused, Returned and Pulled (R121 to R126, R148, R149). -/

namespace Sys2Proof.Machine

open Sys2Proof

variable {s t u : State} {hd : RecHead} {b c tag : Nat} {i : Item} {a : Alloc} {r : RefuseReason}
  {owner : Nat → State → State}

/-! ### The bench an answer is taken for (R126, R149) -/

/-- R126: the state in which an answer for an item at bench c is taken, reported where it came from another bench. -/
def State.answeredAt (s : State) (tag b c : Nat) : State := if c = b then s else s.tagBenchMismatch tag b 2

theorem fromBench_nowhere (h : i.locBench = none) : s.fromBench b i owner = s.tagBenchMismatch i.tag b 1 := by
  simp only [State.fromBench, h]

theorem fromBench_at (h : i.locBench = some c) : s.fromBench b i owner = owner c (s.answeredAt i.tag b c) := by
  simp only [State.fromBench, h, State.answeredAt]
  by_cases hc : c = b
  · rw [if_pos hc, if_pos hc, hc]
  · rw [if_neg hc, if_neg hc]

/-! ### The minute of an instruction -/

theorem raiseFault_clock (k : FaultKind) (x : FaultCtx) (d : Nat) (s : State) : (s.raiseFault k x d).clock = s.clock :=
  (congrArg State.clock (raiseFault_frame k x d s) :)

theorem answeredAt_clock (s : State) (tag b c : Nat) : (s.answeredAt tag b c).clock = s.clock :=
  (apply_ite State.clock _ _ _).trans (ite_eq_left_iff.2 fun _ => raiseFault_clock _ _ _ s)

theorem returnChute_clock (tag : Nat) (s : State) : (s.returnChute tag).clock = s.clock := by
  have hdrop : (s.dropChuteHold tag).clock = s.clock := (congrArg State.clock (dropChuteHold_frame tag s) :)
  have harb : (s.dropChuteHold tag).arbitrate.clock = (s.dropChuteHold tag).clock :=
    (congrArg State.clock (arbitrate_frame (s.dropChuteHold tag)) :)
  rw [State.returnChute, apply_ite State.clock, harb, hdrop, ite_self]

/-! ### What an answer changes -/

/-- The hamper of a bench set by f. -/
def State.hamperSet (s : State) (c : Nat) (f : Hamper → Hamper) : State :=
  s.benchSet c (fun y => { y with hamper := y.hamper.map f })

/-- The line of an allocation set by f. -/
def State.lineSet (s : State) (a : Alloc) (f : Line → Line) : State :=
  s.orderSet a.slot (fun o => { o with lines := o.lines.modify (a.line - 1) f })

theorem updHamper_set (s : State) (c : Nat) (f : Hamper → Hamper) : s.updHamper c f = s.hamperSet c f := updHamper_eq s c f

theorem updLine_set (s : State) (a : Alloc) (f : Line → Line) : s.updLine a.slot a.line f = s.lineSet a f :=
  updOrder_eq s a.slot _

theorem setSlot_baseClosed (z : Zone) (n : Nat) (st : SlotState) (h : Hamper) : (h.setSlot z n st).baseClosed = h.baseClosed := by
  cases z <;> rfl

/-- R6, R114, R115: the unit of an allocation placed. -/
def State.unitPlaced (s : State) (a : Alloc) : State :=
  (s.hamperSet a.bench (fun h => { h.setSlot a.zone a.slotNo .filled with
    baseClosed := h.baseClosed || decide (a.zone = .top) })).lineSet a (fun l => { l with placed := l.placed + 1 })

theorem fillUnit_eq (s : State) (a : Alloc) : s.fillUnit a = s.unitPlaced a := by
  have hfill : Hamper.fill a.zone a.slotNo = fun h => { h.setSlot a.zone a.slotNo .filled with
      baseClosed := h.baseClosed || decide (a.zone = .top) } := by
    funext h
    simp only [Hamper.fill, setSlot_baseClosed, beq_eq_decide]
  rw [State.fillUnit, updHamper_set, updLine_set, hfill]
  rfl

theorem pull_eq (rank : Nat) (l : Line) : l.pull rank = { l with
    committed := l.committed - 1
    placed := l.placed - 1
    substituted := l.substituted - (if rank = 0 then 0 else 1) }.settled := by
  unfold Line.pull
  split <;> rfl

/-- R12: the gate recomputed after a HEAVY line. -/
def State.gated (s : State) (a : Alloc) : State := if s.lineHeavy a.slot a.line then s.recomputeGate a.slot else s

/-- R123: the report of a refusal. -/
def State.refusalOf (s : State) (i : Item) (r : RefuseReason) (c : Nat) : State := s.raiseFault .placeRefused
  ⟨some i.tag, i.alloc.map (·.slot), some c, some i.lane, some i.sku⟩
  (match r with | .damaged => 1 | .wrongItem => 2 | .noRoom => 3 | .other => 0)

theorem reportRefused_eq (s : State) (i : Item) (r : RefuseReason) (c : Nat) : s.reportRefused i r c = s.refusalOf i r c := by
  cases r <;> rfl

/-- R122, R147: an item pulled out of the hamper it is in. -/
def State.pulledOut (s : State) (i : Item) (c minute : Nat) : State :=
  (((s.item i.tag (fun j => { j with location := .inHamper })).withSent (.bench c) (.pull i.tag)).item i.tag
    (fun j => { j with outstanding := .pull minute }))

theorem sendPull_inside (s : State) (i : Item) (c : Nat) :
    (s.updItem i.tag (fun x => { x with location := .inHamper })).sendPull c i.tag = s.pulledOut i c s.clock.minute := by
  rw [updItem_eq, State.sendPull, updItem_eq]
  rfl

/-! ### The answers -/

theorem placedAnswer_eq (ha : i.alloc = some a) (hv : u = ((((s.unlisted i c).item i.tag
      (fun j => { j with outstanding := .none })).unitPlaced a).returnChute i.tag)) :
    State.placedAnswer i c s = (((((if i.cls = .chilled then u.item i.tag (fun j => { j with location := .inHamper })
      else u.freeItem i.tag) : State).gated a).completionCheck a.slot).judgeStall c).placeTry c := by
  simp only [State.placedAnswer, ha, unlisted_eq, updItem_eq, fillUnit_eq]
  subst hv
  rfl

theorem placedOvertook_alloc (ha : i.alloc = some a) : State.placedOvertook i c s =
    (((((s.returnChute i.tag).unitPlaced a).pulledOut i c s.clock.minute).gated a).completionCheck a.slot).answerWithdrawal
      i.tag := by
  have hclock : ((s.returnChute i.tag).unitPlaced a).clock = s.clock := returnChute_clock i.tag s
  simp only [State.placedOvertook, ha, fillUnit_eq, sendPull_inside, hclock]
  rfl

theorem placedOvertook_none (ha : i.alloc = none) :
    State.placedOvertook i c s = ((s.returnChute i.tag).pulledOut i c s.clock.minute).answerWithdrawal i.tag := by
  simp only [State.placedOvertook, ha, sendPull_inside, returnChute_clock]

/-- R123: the zone of a unit that found no room clamped. -/
def State.clampedFor (s : State) (i : Item) (r : RefuseReason) : State :=
  match i.alloc with
  | none => s
  | some a => if r = RefuseReason.noRoom then s.hamperSet a.bench (fun h =>
      h.updZone a.zone (fun z => { z with capacity := z.committed, clamped := true })) else s

theorem refusedPlace_eq (hv : u = (((s.refusalOf i r c).unlisted i c).item i.tag
      (fun j => { j with outstanding := .none })).releaseAlloc i.tag) :
    State.refusedPlace i r c s =
      ((((u.clampedFor i r).returnChute i.tag).freeItem i.tag).judgeStall c).placeTry c := by
  have hfirst : (((s.reportRefused i r c).dropPlace c i.tag).updItem i.tag
      (fun x => { x with outstanding := .none })).releaseAlloc i.tag = u := by
    rw [hv, reportRefused_eq, unlisted_eq, updItem_eq]
    rfl
  unfold State.refusedPlace State.clampedFor
  rw [hfirst]
  refine congrArg (fun v : State => (((v.returnChute i.tag).freeItem i.tag).judgeStall c).placeTry c) ?_
  cases i.alloc with
  | none => rfl
  | some a =>
    simp only [updHamper_set]
    cases r <;> rfl

/-- R125: an item returned leaves, its order checked. -/
def State.returnTaken (s : State) (i : Item) : State :=
  let v := ((((s.item i.tag (fun j => { j with outstanding := .none })).releaseAlloc i.tag).returnChute
    i.tag).answerWithdrawal i.tag).freeItem i.tag
  match i.alloc with
  | none => v
  | some a => v.completionCheck a.slot

theorem returnedAnswer_eq (s : State) (i : Item) : s.returnedAnswer i = s.returnTaken i := by
  rw [State.returnedAnswer, updItem_eq]
  rfl

theorem pulledAnswer_none (ha : i.alloc = none) : State.pulledAnswer i s = s.freeItem i.tag := by
  simp only [State.pulledAnswer, ha]

theorem pulledAnswer_alloc (ha : i.alloc = some a) (hv : u = ((s.lineSet a (fun l => { l with
        committed := l.committed - 1
        placed := l.placed - 1
        substituted := l.substituted - (if a.rank = 0 then 0 else 1) }.settled)).hamperSet a.bench
      (Hamper.vacate a.zone a.slotNo i.mass i.vu)).item i.tag (fun j => { j with alloc := none, outstanding := .none })) :
    State.pulledAnswer i s = ((u.gated a).completionCheck a.slot).freeItem i.tag := by
  simp only [State.pulledAnswer, ha, updLine_set, updHamper_set, updItem_eq, funext (pull_eq a.rank)]
  subst hv
  rfl

/-! ### The records -/

section

variable (hi : s.item? tag = some i)

theorem placeRefused_other (s : State) (tag b : Nat) : s.placeRefused tag .other b = s.tagBenchMismatch tag b 4 := if_pos rfl

theorem placeRefused_untracked (hr : r ≠ .other) (hn : s.item? tag = none) :
    s.placeRefused tag r b = s.tagBenchMismatch tag b 0 := by
  simp only [State.placeRefused, if_neg hr, hn]

include hi

theorem item?_tag : i.tag = tag := (look_some hi).2

/-- R126: an answer to no instruction of its kind is reported. -/
theorem placed_unasked (h : ¬∃ m, i.outstanding = .ret m ∨ i.outstanding = .place m) :
    s.placed tag b = s.tagBenchMismatch tag b 1 := by
  simp only [State.placed, hi]
  cases ho : i.outstanding with
  | none => rfl
  | pull m => rfl
  | ret m => exact absurd ⟨m, .inl ho⟩ h
  | place m => exact absurd ⟨m, .inr ho⟩ h

theorem placeRefused_unasked (hr : r ≠ .other) (h : ¬∃ m, i.outstanding = .ret m ∨ i.outstanding = .place m) :
    s.placeRefused tag r b = s.tagBenchMismatch tag b 1 := by
  simp only [State.placeRefused, if_neg hr, hi]
  cases ho : i.outstanding with
  | none => rfl
  | pull m => rfl
  | ret m => exact absurd ⟨m, .inl ho⟩ h
  | place m => exact absurd ⟨m, .inr ho⟩ h

theorem returned_unasked (h : ¬∃ m, i.outstanding = .ret m) : s.returned tag b = s.tagBenchMismatch tag b 1 := by
  simp only [State.returned, hi]
  cases ho : i.outstanding with
  | none | pull m | place m => rfl
  | ret m => exact absurd ⟨m, ho⟩ h

theorem pulled_unasked (h : ¬∃ m, i.outstanding = .pull m) : s.pulled tag b = s.tagBenchMismatch tag b 1 := by
  simp only [State.pulled, hi]
  cases ho : i.outstanding with
  | none | ret m | place m => rfl
  | pull m => exact absurd ⟨m, ho⟩ h

/-- R126: an answer to an instruction for an item that stands at no bench is reported. -/
theorem placed_nowhere (hb : i.locBench = none) : s.placed tag b = s.tagBenchMismatch tag b 1 := by
  by_cases h : ∃ m, i.outstanding = .ret m ∨ i.outstanding = .place m
  · obtain ⟨m, h | h⟩ := h <;> simp only [State.placed, hi, h, fromBench_nowhere hb, item?_tag hi]
  · exact placed_unasked hi h

theorem placeRefused_nowhere (hr : r ≠ .other) (hb : i.locBench = none) :
    s.placeRefused tag r b = s.tagBenchMismatch tag b 1 := by
  by_cases h : ∃ m, i.outstanding = .ret m ∨ i.outstanding = .place m
  · obtain ⟨m, h | h⟩ := h <;> simp only [State.placeRefused, if_neg hr, hi, h, fromBench_nowhere hb, item?_tag hi]
  · exact placeRefused_unasked hi hr h

theorem returned_nowhere (hb : i.locBench = none) : s.returned tag b = s.tagBenchMismatch tag b 1 := by
  by_cases h : ∃ m, i.outstanding = .ret m
  · obtain ⟨m, h⟩ := h
    simp only [State.returned, hi, h, fromBench_nowhere hb, item?_tag hi]
  · exact returned_unasked hi h

theorem pulled_nowhere (hb : i.locBench = none) : s.pulled tag b = s.tagBenchMismatch tag b 1 := by
  by_cases h : ∃ m, i.outstanding = .pull m
  · obtain ⟨m, h⟩ := h
    simp only [State.pulled, hi, h, fromBench_nowhere hb, item?_tag hi]
  · exact pulled_unasked hi h

section

variable {m : Nat} (hc : i.locBench = some c)

include hc

theorem placed_place (ho : i.outstanding = .place m) : s.placed tag b = (s.answeredAt tag b c).placedAnswer i c := by
  simp only [State.placed, hi, ho, fromBench_at hc, item?_tag hi]

theorem placed_ret (ho : i.outstanding = .ret m) : s.placed tag b = (s.answeredAt tag b c).placedOvertook i c := by
  simp only [State.placed, hi, ho, fromBench_at hc, item?_tag hi]

theorem returned_ret (ho : i.outstanding = .ret m) : s.returned tag b = (s.answeredAt tag b c).returnTaken i := by
  simp only [State.returned, hi, ho, fromBench_at hc, item?_tag hi, returnedAnswer_eq]

theorem placeRefused_ret (hr : r ≠ .other) (ho : i.outstanding = .ret m) :
    s.placeRefused tag r b = ((s.answeredAt tag b c).refusalOf i r c).returnTaken i := by
  simp only [State.placeRefused, if_neg hr, hi, ho, fromBench_at hc, item?_tag hi, returnedAnswer_eq, reportRefused_eq]

theorem placeRefused_place (hr : r ≠ .other) (ho : i.outstanding = .place m) :
    s.placeRefused tag r b = (s.answeredAt tag b c).refusedPlace i r c := by
  simp only [State.placeRefused, if_neg hr, hi, ho, fromBench_at hc, item?_tag hi]

theorem pulled_pull (ho : i.outstanding = .pull m) : s.pulled tag b = (s.answeredAt tag b c).pulledAnswer i := by
  simp only [State.pulled, hi, ho, fromBench_at hc, item?_tag hi]

end

end

theorem placed_untracked (h : s.item? tag = none) : s.placed tag b = s.tagBenchMismatch tag b 0 := by
  simp only [State.placed, h]

theorem returned_untracked (h : s.item? tag = none) : s.returned tag b = s.tagBenchMismatch tag b 0 := by
  simp only [State.returned, h]

theorem pulled_untracked (h : s.item? tag = none) : s.pulled tag b = s := by simp only [State.pulled, h]

/-- Settles O56: each answer by the instruction outstanding and the bench at which the item stands. -/
theorem benchAnswersFollowTheirRules : Obligations.BenchAnswersFollowTheirRules := by
  intro s hd b tag r hu hl mismatch item hamper line gate unlisted placed
  refine ⟨fun hr => ?_, fun hn => ⟨bench_reports hu hl (placed_untracked hn), bench_reports hu hl (returned_untracked hn),
    fun hr => bench_reports hu hl (placeRefused_untracked hr hn), bench_stands hu hl (pulled_untracked hn)⟩, fun i hi => ?_⟩
  · subst hr
    exact bench_reports hu hl (placeRefused_other s tag b)
  intro instructed
  refine ⟨fun k hk h => ?_, fun c hc => ?_⟩
  · rcases hk with hk | hk | hk | ⟨hk, hr⟩ <;> subst hk
    · exact bench_reports hu hl (h.elim (placed_unasked hi) (placed_nowhere hi))
    · exact bench_reports hu hl (h.elim (returned_unasked hi) (returned_nowhere hi))
    · exact bench_reports hu hl (h.elim (pulled_unasked hi) (pulled_nowhere hi))
    · exact bench_reports hu hl (h.elim (placeRefused_unasked hi hr) (placeRefused_nowhere hi hr))
  obtain rfl := item?_tag hi
  intro t refused leaves returns
  refine ⟨fun m a ho ha => ?_, fun m ho => ?_, fun m ho hr => ?_, fun m ho => ?_⟩
  · exact bench_ends hu hl ((placed_place hi hc ho).trans (placedAnswer_eq ha rfl))
  · have hclock := answeredAt_clock s i.tag b c
    have hown := placed_ret (b := b) hi hc ho
    refine ⟨fun a ha => bench_ends hu hl (hown.trans ?_), fun ha => bench_ends hu hl (hown.trans ?_),
      bench_ends hu hl (returned_ret hi hc ho), fun hr => bench_ends hu hl (placeRefused_ret hi hc hr ho)⟩
    · rw [placedOvertook_alloc ha, hclock]
      rfl
    · rw [placedOvertook_none ha, hclock]
      rfl
  · exact bench_ends hu hl ((placeRefused_place hi hc hr ho).trans (refusedPlace_eq rfl))
  · have hown := pulled_pull (b := b) hi hc ho
    exact ⟨fun ha => bench_ends hu hl (hown.trans (pulledAnswer_none ha)),
      fun a ha => bench_ends hu hl (hown.trans (pulledAnswer_alloc ha rfl))⟩

end Sys2Proof.Machine
end

section
/-! SUPPORT. What is issued: Place, Seal and Release (R119, R120, R128, R154, R155). -/

namespace Sys2Proof.Machine

open Sys2Proof

variable {s t u : State} {b n slot : Nat} {o : Order} {h : Hamper} {i : Item} {a : Alloc}

/-! ### Places (R119, R120) -/

theorem hamper?_iff (t : State) (b : Nat) : t.hamper? b = some h ↔ ∃ x, t.bench? b = some x ∧ x.hamper = some h :=
  Option.bind_eq_some_iff

/-- R119: the order that an attempt issues Places for. -/
theorem placeOrder?_iff (t : State) (b : Nat) : t.placeOrder? b = some o ↔ ∃ x slot, t.bench? b = some x ∧
    x.orderSlot = some slot ∧ t.order? slot = some o ∧ x.state = .building ∧ x.staffed = true ∧ x.stalled = false ∧
    t.working = true ∧ (o.state = .building ∨ o.state = .held) := by
  unfold State.placeOrder?
  cases hx : t.bench? b with
  | none => simp
  | some x =>
    cases hs : x.orderSlot with
    | none => simp [hs]
    | some slot =>
      cases ho : t.order? slot with
      | none => simp [hs, ho]
      | some p =>
        simp only [Option.some.injEq, hs, Option.bind_some, ho, Bool.and_eq_true, beq_iff_eq,
          Bool.not_eq_true', Bool.or_eq_true, Option.ite_none_right_eq_some, and_assoc]
        grind

/-- R120: an item eligible for a Place. -/
theorem placeEligible_iff (b : Nat) (o : Order) (j : Item) : State.placeEligible b o j = true ↔ j.location = .inChute ∧
    j.locBench = some b ∧ (∃ e, j.alloc = some e ∧ e.slot = o.slot) ∧ j.outstanding = .none ∧ j.wait = .none ∧
    ¬(j.cls = .fragile ∧ o.topGate = some .shut) := by
  simp only [State.placeEligible, Bool.and_eq_true, beq_iff_eq, allocatedTo_iff, Bool.not_eq_true', Bool.and_eq_false_iff,
    beq_eq_false_iff_ne, ne_eq, and_assoc, not_and_or]

/-- R119: the next Place of an attempt. -/
def State.placeNext? (t : State) (b : Nat) : Option State :=
  match t.placeOrder? b, t.hamper? b with
  | some o, some h =>
    if h.places.length < 4 then
      match t.oldest (t.items.filter (State.placeEligible b o)) with
      | none => none
      | some i => i.alloc.map (fun a => t.issuePlace b i a)
    else none
  | _, _ => none

theorem placeTimes_succ (b k : Nat) (s : State) : s.placeTimes b (k + 1) = match s.placeNext? b with
    | none => s
    | some u => u.placeTimes b k := by
  rw [State.placeTimes]
  unfold State.placeNext?
  cases s.placeOrder? b with
  | none => rfl
  | some o =>
    cases s.hamper? b with
    | none => rfl
    | some h =>
      by_cases hl : h.places.length < Config.placeRoom
      · have h4 : h.places.length < 4 := hl
        simp only [if_pos hl, if_pos h4]
        cases s.oldest (s.items.filter (State.placeEligible b o)) with
        | none => rfl
        | some i => cases ha : i.alloc <;> simp only [ha, Option.map_none, Option.map_some]
      · have h4 : ¬h.places.length < 4 := hl
        simp only [if_neg hl, if_neg h4]

theorem placeNext?_iff (t : State) (b : Nat) : t.placeNext? b = some u ↔ ∃ o h i a, t.placeOrder? b = some o ∧
    t.hamper? b = some h ∧ h.places.length < 4 ∧ t.oldest (t.items.filter (State.placeEligible b o)) = some i ∧
    i.alloc = some a ∧ u = t.issuePlace b i a := by
  unfold State.placeNext?
  cases t.placeOrder? b with
  | none => simp
  | some o =>
    cases t.hamper? b with
    | none => simp
    | some h =>
      dsimp only
      cases hi : t.oldest (t.items.filter (State.placeEligible b o)) with
      | none => simp [hi]
      | some i =>
        simp only [Option.ite_none_right_eq_some, Option.map_eq_some_iff, Option.some.injEq]
        constructor
        · rintro ⟨hl, a, ha, rfl⟩
          exact ⟨o, h, i, a, rfl, rfl, hl, hi, ha, rfl⟩
        · rintro ⟨_, _, j, a, rfl, rfl, hl, hj, ha, rfl⟩
          obtain rfl := Option.some.inj (hi.symm.trans hj)
          exact ⟨hl, a, ha, rfl⟩

/-- R120: a Place sent. -/
def State.placeSent (t : State) (b : Nat) (i : Item) (a : Alloc) : State :=
  { t with
    bus := { t.bus with sent := t.bus.sent ++ [(.bench b, .place i.tag a.zone a.slotNo)] }
    items := t.items.map (fun j : Item => if j.tag = i.tag then { j with outstanding := .place t.clock.minute } else j)
    benches := t.benches.map (fun y : Bench => if y.number = b then
      { y with hamper := y.hamper.map (fun g : Hamper => { g with places := g.places ++ [⟨i.tag, false⟩] }) } else y) }

theorem issuePlace_eq (t : State) (b : Nat) (i : Item) (a : Alloc) : t.issuePlace b i a = t.placeSent b i a := by
  rw [State.issuePlace, updHamper_eq, updItem_eq]
  rfl

/-- The places left on a bench's list. -/
def State.placeRoom (t : State) (b : Nat) : Nat := ((t.hamper? b).map (fun h => 4 - h.places.length)).getD 0

theorem placeRoom_le (t : State) (b : Nat) : t.placeRoom b ≤ 4 := by
  unfold State.placeRoom
  cases t.hamper? b <;> simp

theorem placeNext?_room (t : State) (b : Nat) (hu : t.placeNext? b = some u) : u.placeRoom b + 1 ≤ t.placeRoom b := by
  obtain ⟨o, h, i, a, -, hh, hl, -, -, rfl⟩ := (placeNext?_iff t b).1 hu
  obtain ⟨x, hx, hxh⟩ := (hamper?_iff t b).1 hh
  have hthere : (t.issuePlace b i a).hamper? b = some { h with places := h.places ++ [⟨i.tag, false⟩] } := by
    refine (hamper?_iff _ b).2 ⟨_, bench_updBench_same (b := b) (x := x) hx _, ?_⟩
    dsimp only
    rw [hxh]
    rfl
  simp only [State.placeRoom, hthere, hh, Option.map_some, Option.getD_some, List.length_append, List.length_singleton]
  omega

/-! ### Seal (R128) -/

/-- R128: the conditions of a Seal. -/
def State.SealReady (s : State) (b : Nat) : Prop := ∃ x slot o h, s.bench? b = some x ∧ x.state = .building ∧
  x.staffed = true ∧ x.orderSlot = some slot ∧ s.order? slot = some o ∧ o.state = .complete ∧ x.hamper = some h ∧
  h.pocket ≠ .requested ∧ s.working = true

theorem sealTry_ready (hr : s.SealReady b) : s.sealTry b = { s with
    bus := { s.bus with sent := s.bus.sent ++ [(.bench b, .sealHamper)] }
    benches := s.benches.map (fun y : Bench => if y.number = b then { y with state := .sealing } else y) } := by
  obtain ⟨x, slot, o, h, hx, h1, h2, h3, ho, h4, hh, hp, hw⟩ := hr
  have hpocket : (h.pocket != .requested) = true := by simpa using hp
  simp only [State.sealTry, hx, h1, h2, h3, Option.bind_some, ho, h4, hh, hpocket, hw, beq_self_eq_true, Bool.and_true,
    if_true, updBench_eq]
  rfl

theorem sealTry_notReady (hr : ¬s.SealReady b) : s.sealTry b = s := by
  unfold State.sealTry
  cases hx : s.bench? b with
  | none => rfl
  | some x =>
    refine if_neg fun hc => hr ?_
    simp only [Bool.and_eq_true, beq_iff_eq] at hc
    obtain ⟨⟨⟨⟨h1, hdone⟩, hpocket⟩, h2⟩, hw⟩ := hc
    cases ho : x.orderSlot.bind s.order? with
    | none => simp [ho] at hdone
    | some o =>
      cases hh : x.hamper with
      | none => simp [hh] at hpocket
      | some h =>
        obtain ⟨slot, hs, ho⟩ := Option.bind_eq_some_iff.1 ho
        simp only [hs, Option.bind_some, ho, beq_iff_eq] at hdone
        simp only [hh, bne_iff_ne] at hpocket
        exact ⟨x, slot, o, h, hx, h1, h2, hs, ho, hdone, hh, hpocket, hw⟩

/-! ### Releases (R154, R155) -/

theorem staffed_iff (t : State) (b : Nat) : t.staffed b = true ↔ ∃ x, t.bench? b = some x ∧ x.staffed = true := by
  unfold State.staffed
  cases t.bench? b <;> simp

/-- R154: the next Release of a lane. -/
def State.serveNext? (t : State) (n : Nat) : Option State :=
  match t.dispatchLane? n with
  | none => none
  | some d => if t.working && d.room then (d.holding.find? (fun e => t.staffed e.1)).map (fun e => t.releaseHamper n e.1 e.2)
    else none

theorem serveTimes_succ (n k : Nat) (s : State) : s.serveTimes n (k + 1) = match s.serveNext? n with
    | none => s
    | some u => u.serveTimes n k := by
  rw [State.serveTimes]
  unfold State.serveNext?
  cases s.dispatchLane? n with
  | none => rfl
  | some d =>
    dsimp only
    split
    · cases d.holding.find? (fun e => s.staffed e.1) <;> rfl
    · rfl

theorem room_iff (d : DispatchLane) : d.room = true ↔ d.count + d.inFlight < d.capacity := decide_eq_true_iff

theorem serveNext?_iff (t : State) (n : Nat) : t.serveNext? n = some u ↔ ∃ d before b slot after,
    t.dispatchLane? n = some d ∧ t.working = true ∧ d.count + d.inFlight < d.capacity ∧
    d.holding = before ++ (b, slot) :: after ∧ (∀ e ∈ before, ¬t.staffed e.1 = true) ∧ t.staffed b = true ∧
    u = t.releaseHamper n b slot := by
  unfold State.serveNext?
  cases t.dispatchLane? n with
  | none => simp
  | some d =>
    simp only [Option.ite_none_right_eq_some, Option.map_eq_some_iff, Bool.and_eq_true, room_iff, Option.some.injEq]
    constructor
    · rintro ⟨⟨hw, hr⟩, ⟨b, slot⟩, he, rfl⟩
      obtain ⟨hb, before, after, hd, hbefore⟩ := List.find?_eq_some_iff_append.1 he
      exact ⟨d, before, b, slot, after, rfl, hw, hr, hd, fun e he => by simpa using hbefore e he, hb, rfl⟩
    · rintro ⟨_, before, b, slot, after, rfl, hw, hr, hd, hbefore, hb, rfl⟩
      exact ⟨⟨hw, hr⟩, (b, slot), List.find?_eq_some_iff_append.2 ⟨hb, before, after, hd, fun e he => by
        simpa using hbefore e he⟩, rfl⟩

/-- R155: a Release sent, before the full flag is judged. -/
def State.releaseSent (t : State) (n b slot : Nat) : State :=
  { t with
    bus := { t.bus with sent := t.bus.sent ++ [(.bench b, .release n)] }
    dispatch := t.dispatch.map (fun c : DispatchLane => if c.number = n then
      { c with holding := c.holding.filter (fun e => decide (e.1 ≠ b)), inFlight := c.inFlight + 1 } else c)
    benches := t.benches.map (fun y : Bench => if y.number = b then { y with state := .releasing } else y)
    book := { t.book with orders := t.book.orders.map (fun o : Order =>
      if o.slot = slot then { o with dispatchLane := some n } else o) } }

theorem releaseHamper_eq (t : State) (n b slot : Nat) :
    t.releaseHamper n b slot = (t.releaseSent n b slot).judgeFull n (some (b, slot)) := by
  simp only [State.releaseHamper, updDispatch_eq, updBench_eq, updOrder_eq, bne_decide]
  rfl

/-- The length of a lane's holding list. -/
def State.heldCount (t : State) (n : Nat) : Nat := ((t.dispatchLane? n).map (·.holding.length)).getD 0

theorem judgeFull_heldCount (t : State) (n : Nat) (r : Option (Nat × Nat)) : (t.judgeFull n r).heldCount n = t.heldCount n := by
  cases hd : t.dispatchLane? n with
  | none => simp only [State.judgeFull, hd]
  | some d =>
    have hthere : (t.updDispatch n (fun d => { d with full := !d.room })).heldCount n = t.heldCount n := by
      rw [State.heldCount, updDispatch_dispatchLane_same, State.heldCount, hd]
      rfl
    have hreport (k : FaultKind) (c : FaultCtx) (v : Nat) (w : State) : (w.raiseFault k c v).heldCount n = w.heldCount n :=
      (congrArg (State.heldCount · n) (raiseFault_frame k c v w) :)
    simp only [State.judgeFull, hd]
    split
    · exact (hreport _ _ _ _).trans hthere
    · exact hthere

theorem serveNext?_held (t : State) (n : Nat) (hu : t.serveNext? n = some u) : u.heldCount n + 1 ≤ t.heldCount n := by
  obtain ⟨d, before, b, slot, after, hd, -, -, hold, -, -, rfl⟩ := (serveNext?_iff t n).1 hu
  have hthere : (t.releaseSent n b slot).dispatchLane? n =
      some { d with holding := d.holding.filter (fun e => decide (e.1 ≠ b)), inFlight := d.inFlight + 1 } := by
    have h := updDispatch_dispatchLane_same (s := t) (n := n) (f := fun c =>
      { c with holding := c.holding.filter (fun e => decide (e.1 ≠ b)), inFlight := c.inFlight + 1 })
    rwa [hd, updDispatch_eq] at h
  have hfewer : (d.holding.filter (fun e => decide (e.1 ≠ b))).length < d.holding.length :=
    List.length_filter_lt_length_iff_exists.2 ⟨(b, slot), by simp [hold], by simp⟩
  rw [releaseHamper_eq, judgeFull_heldCount, State.heldCount, hthere, State.heldCount, hd]
  exact hfewer

theorem serveLane_times (s : State) (n : Nat) : s.serveLane n = s.serveTimes n (s.heldCount n) := by
  unfold State.serveLane State.heldCount
  cases s.dispatchLane? n <;> rfl

/-- Settles O58: each kind of issue run to its end, one at a time. -/
theorem placeSealAndReleaseAreIssued : Obligations.PlaceSealAndReleaseAreIssued := by
  refine ⟨fun s b => ?_, oldest_spec, fun s b => ⟨fun hr => congrArg s.ends (sealTry_ready hr), fun hr =>
    (congrArg s.ends (sealTry_notReady hr)).trans (congrArg Host.Outcome.next (judgeQuiet_self s))⟩, fun s n => ?_⟩
  · intro places
    have hplaces (t u : State) : places t u ↔ t.placeNext? b = some u := by
      have hfilter (o : Order) : t.items.filter (State.placeEligible b o) = t.items.filter (fun j =>
          decide (j.location = .inChute ∧ j.locBench = some b ∧ (∃ e, j.alloc = some e ∧ e.slot = o.slot) ∧
            j.outstanding = .none ∧ j.wait = .none ∧ ¬(j.cls = .fragile ∧ o.topGate = some .shut))) :=
        List.filter_congr fun j _ => eq_decide_of_iff (placeEligible_iff b o j)
      simp only [placeNext?_iff, placeOrder?_iff, hamper?_iff, hfilter, issuePlace_eq]
      constructor
      · rintro ⟨x, h, slot, o, i, a, hx, hh, hs, ho, h1, h2, h3, h4, h5, hl, hi, ha, rfl⟩
        exact ⟨o, h, i, a, ⟨x, slot, hx, hs, ho, h1, h2, h3, h4, h5⟩, ⟨x, hx, hh⟩, hl, hi, ha, rfl⟩
      · rintro ⟨o, h, i, a, ⟨x, slot, hx, hs, ho, h1, h2, h3, h4, h5⟩, ⟨y, hy, hh⟩, hl, hi, ha, rfl⟩
        obtain rfl := Option.some.inj (hx.symm.trans hy)
        exact ⟨x, h, slot, o, i, a, hx, hh, hs, ho, h1, h2, h3, h4, h5, hl, hi, ha, rfl⟩
    obtain ⟨hrun, hend⟩ := chain (it := State.placeTimes b) (fun _ => rfl) (fun k t => placeTimes_succ b k t) hplaces
      (fun t => t.placeRoom b) (fun t u => placeNext?_room t b) 4 s (placeRoom_le s b)
    exact ⟨s.placeTry b, hrun, hend, rfl⟩
  · intro staffed serves
    have hserves (t u : State) : serves t u ↔ t.serveNext? n = some u := by
      simp only [serveNext?_iff, staffed_iff, releaseHamper_eq]
      rfl
    obtain ⟨hrun, hend⟩ := chain (it := State.serveTimes n) (fun _ => rfl) (fun k t => serveTimes_succ n k t) hserves
      (fun t => t.heldCount n) (fun t u => serveNext?_held t n) (s.heldCount n) s le_rfl
    rw [← serveLane_times] at hrun hend
    exact ⟨s.serveLane n, hrun, hend, rfl⟩

end Sys2Proof.Machine
end

section
/-! SUPPORT. What admission, binding and the arbitration choose (R25, R51 to R53, R95 to R97, R113). -/

namespace Sys2Proof.Machine

open Sys2Proof

variable {s t u v : State} {b e k n tag : Nat} {o p q : Order} {x : Bench} {i : Item} {l : Lane} {rest : List Nat}

/-! ### The release arbitration (R92 to R97) -/

/-- R93, R97: an item in the buffer that may be ordered. -/
def State.MayOrder (t : State) (i : Item) : Prop :=
  i.location = .inBuffer ∧ i.tag ∉ t.arbiter.heldBack ∧ ∀ e ∈ t.arbiter.releases, e.1 ≠ i.tag

theorem orderable_iff (t : State) (tag : Nat) : t.orderable tag = true ↔
    tag ∉ t.arbiter.heldBack ∧ ∀ e ∈ t.arbiter.releases, e.1 ≠ tag := by
  simp [State.orderable]

theorem chuteRoom_iff (t : State) (b vu : Nat) : t.chuteRoom b vu = true ↔
    ∃ c, t.chute? b = some c ∧ 1 ≤ c.freeItems ∧ vu ≤ c.freeVu := by
  unfold State.chuteRoom
  cases t.chute? b <;> simp

/-- R92: an outbound item that may be ordered. -/
theorem outbound_iff (t : State) (i : Item) : (State.outbound i && t.orderable i.tag) = true ↔
    t.MayOrder i ∧ i.alloc = none := by
  rw [Bool.and_eq_true, orderable_iff, State.outbound, Bool.and_eq_true, beq_iff_eq, Option.beq_none, Option.isNone_iff_eq_none,
    State.MayOrder]
  tauto

/-- R92: a staged item that may be ordered to a bench's chute. -/
theorem stagedEligible_iff (t : State) (b : Nat) (i : Item) : t.stagedEligible b i = true ↔ t.MayOrder i ∧ i.wait = .none ∧
    (∃ a, i.alloc = some a ∧ a.bench = b ∧ ∃ o, t.order? a.slot = some o ∧ o.state = .building) ∧
    ∃ c, t.chute? b = some c ∧ 1 ≤ c.freeItems ∧ i.vu ≤ c.freeVu := by
  rw [State.stagedEligible, Bool.and_eq_true, Bool.and_eq_true, Bool.and_eq_true, beq_iff_eq, beq_iff_eq, orderable_iff,
    State.MayOrder]
  cases i.alloc with
  | none => simp
  | some a =>
    simp only [Bool.and_eq_true, beq_iff_eq, chuteRoom_iff, Option.some.injEq, exists_eq_left']
    cases t.order? a.slot with
    | none => simp
    | some o =>
      simp only [beq_iff_eq, Option.some.injEq, exists_eq_left']
      tauto

/-- R96: a staged item ordered to a chute. -/
def State.orderedTo (t : State) (i : Item) (b : Nat) : State :=
  { t with
    arbiter := { t.arbiter with
      releases := t.arbiter.releases ++ [(i.tag, .bench b)]
      pointer := b }
    chutes := t.chutes.map (fun c : Chute => if c.bench = b then
      { c with freeItems := c.freeItems - 1, freeVu := c.freeVu - i.vu } else c)
    items := t.items.map (fun j : Item =>
      if j.tag = i.tag then { j with hold := .both b, location := .bufferToChute } else j)
    bus := { t.bus with sent := t.bus.sent ++ [(.buffer, .bufferRelease i.tag (.bench b))] } }

theorem orderToChute_eq (t : State) (i : Item) (b : Nat) : t.orderToChute i b = t.orderedTo i b := by
  simp only [State.orderToChute, State.takeChute, updChute_eq, updItem_eq]
  rfl

theorem arbitrateOnce_iff (t u : State) : t.arbitrateOnce = some u ↔ t.arbiter.releases.length < 2 ∧
    ((∃ i, t.oldest (t.items.filter (fun i => State.outbound i && t.orderable i.tag)) = some i ∧ u = t.orderOut i.tag) ∨
      (t.oldest (t.items.filter (fun i => State.outbound i && t.orderable i.tag)) = none ∧ t.working = true ∧
        t.scanBenches.findSome? (fun b => (t.oldest (t.items.filter (t.stagedEligible b))).map (fun i => t.orderToChute i b)) =
          some u)) := by
  unfold State.arbitrateOnce
  by_cases hl : Config.releaseRoom ≤ t.arbiter.releases.length
  · rw [if_pos hl]
    have hno : ¬t.arbiter.releases.length < 2 := Nat.not_lt.2 hl
    simp [hno]
  · rw [if_neg hl]
    have hlt : t.arbiter.releases.length < 2 := Nat.not_le.1 hl
    cases t.oldest (t.items.filter (fun i => State.outbound i && t.orderable i.tag)) with
    | some i =>
      simp only [hlt, true_and, reduceCtorEq, false_and, or_false, Option.some.injEq, exists_eq_left', eq_comm (a := u)]
    | none =>
      simp only [hlt, true_and, reduceCtorEq, false_and, exists_false, false_or, Option.ite_none_right_eq_some]

/-- R95: the first bench of a scan with an eligible staged item. -/
theorem scan_iff (t u : State) :
    t.scanBenches.findSome? (fun b => (t.oldest (t.items.filter (t.stagedEligible b))).map (fun i => t.orderToChute i b)) =
      some u ↔ ∃ k < 12, ∃ i, (∀ j < k, t.oldest (t.items.filter (t.stagedEligible ((t.arbiter.pointer + j) % 12 + 1))) = none) ∧
        t.oldest (t.items.filter (t.stagedEligible ((t.arbiter.pointer + k) % 12 + 1))) = some i ∧
        u = t.orderToChute i ((t.arbiter.pointer + k) % 12 + 1) := by
  have hentry (k b : Nat) : t.scanBenches[k]? = some b ↔ k < 12 ∧ b = (t.arbiter.pointer + k) % 12 + 1 := by
    rw [State.scanBenches, List.getElem?_map]
    by_cases hk : k < 12
    · simp [hk, eq_comm]
    · simp [hk]
  rw [findSome_iff]
  constructor
  · rintro ⟨k, b, hb, hbefore, hu⟩
    obtain ⟨hk, rfl⟩ := (hentry k b).1 hb
    obtain ⟨i, hi, rfl⟩ := Option.map_eq_some_iff.1 hu
    exact ⟨k, hk, i, fun j hj => Option.map_eq_none_iff.1 (hbefore j hj _ ((hentry j _).2 ⟨hj.trans hk, rfl⟩)), hi, rfl⟩
  · rintro ⟨k, hk, i, hbefore, hi, rfl⟩
    refine ⟨k, _, (hentry k _).2 ⟨hk, rfl⟩, fun j hj b hb => ?_, by rw [hi]; rfl⟩
    obtain ⟨-, rfl⟩ := (hentry j b).1 hb
    rw [hbefore j hj]
    rfl

/-- R95: up to n places of the release list filled. -/
def State.fillTimes : Nat → State → State
  | 0, s => s
  | n + 1, s => match s.arbitrateOnce with
    | none => s
    | some u => u.fillTimes n

theorem arbitrate_fill (s : State) : s.arbitrate = s.fillTimes 2 := by
  cases h : s.arbitrateOnce with
  | none => simp only [State.arbitrate, State.fillTimes, h]
  | some u => cases hu : u.arbitrateOnce <;> simp only [State.arbitrate, State.fillTimes, h, hu]

/-- The places left on the release list. -/
def State.releaseRoom (t : State) : Nat := 2 - t.arbiter.releases.length

theorem arbitrateOnce_room (t u : State) (h : t.arbitrateOnce = some u) : u.releaseRoom + 1 ≤ t.releaseRoom := by
  have hlonger : u.arbiter.releases.length = t.arbiter.releases.length + 1 := by
    obtain ⟨-, ⟨i, -, rfl⟩ | ⟨-, -, b, -, i, -, rfl⟩⟩ := arbitrateOnce_cases h <;> exact List.length_append
  have hlt := (arbitrateOnce_cases h).1
  simp only [State.releaseRoom, hlonger]
  omega

/-! ### Binding (R25, R113) -/

/-- The first of a list that no later one goes before, by the order in which they are compared. -/
def pickBest {α : Type} (before : α → α → Bool) (xs : List α) : Option α :=
  xs.foldl (fun best y => match best with
    | none => some y
    | some c => if before y c then some y else some c) none

theorem pickBest_append {α : Type} (before : α → α → Bool) (xs : List α) (y : α) : pickBest before (xs ++ [y]) =
    match pickBest before xs with
    | none => some y
    | some c => if before y c then some y else some c := by
  simp only [pickBest, List.foldl_append, List.foldl_cons, List.foldl_nil]

/-- By a strict order, one is picked unless the list is empty, and none goes before it. -/
theorem pickBest_spec {α : Type} {before : α → α → Bool} (htrans : ∀ a b c, before a b = true → before b c = true →
    before a c = true) (hirr : ∀ a, before a a = false) (xs : List α) :
    (pickBest before xs = none → xs = []) ∧ ∀ c, pickBest before xs = some c → c ∈ xs ∧ ∀ d ∈ xs, before d c = false := by
  induction xs using List.reverseRecOn with
  | nil => exact ⟨fun _ => rfl, fun c h => nomatch h⟩
  | append_singleton xs y ih =>
    obtain ⟨hnone, hsome⟩ := ih
    rw [pickBest_append]
    cases hp : pickBest before xs with
    | none =>
      refine ⟨fun h => (nomatch h), fun c h => ?_⟩
      obtain rfl := Option.some.inj h
      simp [hnone hp, hirr]
    | some c =>
      obtain ⟨hmem, hbest⟩ := hsome c hp
      dsimp only
      split
      case isTrue hy =>
        refine ⟨fun h => (nomatch h), fun c h => ?_⟩
        obtain rfl := Option.some.inj h
        refine ⟨by simp, fun d hd => ?_⟩
        rcases List.mem_append.1 hd with hd | hd
        · exact Bool.eq_false_iff.2 fun hdy => Bool.eq_false_iff.1 (hbest d hd) (htrans _ _ _ hdy hy)
        · rw [List.mem_singleton.1 hd, hirr]
      case isFalse hy =>
        refine ⟨fun h => (nomatch h), fun c h => ?_⟩
        obtain rfl := Option.some.inj h
        refine ⟨List.mem_append_left _ hmem, fun d hd => ?_⟩
        rcases List.mem_append.1 hd with hd | hd
        · exact hbest d hd
        · rw [List.mem_singleton.1 hd, Bool.eq_false_iff.2 hy]

/-- R25: one order ranked before another. -/
def State.Better (t : State) (o p : Order) : Prop := p.priority < o.priority ∨ p.priority = o.priority ∧
  (t.cutoffOf o.wave < t.cutoffOf p.wave ∨ t.cutoffOf o.wave = t.cutoffOf p.wave ∧
    (t.age p < t.age o ∨ t.age p = t.age o ∧ o.slot < p.slot))

theorem bindBefore_iff (t : State) (o p : Order) : t.bindBefore o p = true ↔ t.Better o p := by
  unfold State.bindBefore State.Better
  split_ifs <;> simp only [decide_eq_true_eq] <;> omega

theorem bindBefore_trans (t : State) (o p q : Order) (h1 : t.bindBefore o p = true) (h2 : t.bindBefore p q = true) :
    t.bindBefore o q = true := by
  rw [bindBefore_iff, State.Better] at h1 h2 ⊢
  omega

theorem bindBefore_irrefl (t : State) (o : Order) : t.bindBefore o o = false := by
  rw [← Bool.not_eq_true, bindBefore_iff, State.Better]
  omega

theorem better_of_not (h : t.bindBefore p o = false) (hs : p.slot ≠ o.slot) : t.Better o p := by
  rw [← Bool.not_eq_true, bindBefore_iff, State.Better] at h
  unfold State.Better
  omega

/-- R25: a waiting order that a bench may be given. -/
def State.BindsTo (t : State) (x : Bench) (o : Order) : Prop := o ∈ t.book.orders ∧ o.state = .loaded ∧ o.held = false ∧
  o.bench = none ∧ t.rushFloor ≤ o.priority ∧ (∃ p, t.plan? o.template = some p ∧ p.sizeClass ≤ x.largestSize) ∧
  ((∃ l ∈ o.lines, l.cls = .chilled) → x.chilledCapable = true) ∧
  ((∃ l ∈ o.lines, l.cls = .heavy) → x.heavyCapable = true)

theorem hasClass_iff (o : Order) (c : ItemClass) : o.hasClass c = true ↔ ∃ l ∈ o.lines, l.cls = c := by
  simp [Order.hasClass]

theorem bindEligible_iff (t : State) (x : Bench) (o : Order) : t.bindEligible x o = true ↔ t.rushFloor ≤ o.priority ∧
    (∃ p, t.plan? o.template = some p ∧ p.sizeClass ≤ x.largestSize) ∧
    ((∃ l ∈ o.lines, l.cls = .chilled) → x.chilledCapable = true) ∧
    ((∃ l ∈ o.lines, l.cls = .heavy) → x.heavyCapable = true) := by
  have hable (c : ItemClass) (able : Bool) : (!o.hasClass c || able) = true ↔ ((∃ l ∈ o.lines, l.cls = c) → able = true) := by
    rw [← hasClass_iff]
    cases o.hasClass c <;> simp
  rw [State.bindEligible, Bool.and_eq_true, Bool.and_eq_true, Bool.and_eq_true, hable, hable, decide_eq_true_eq, and_assoc,
    and_assoc]
  cases t.plan? o.template <;> simp

theorem mem_bindable (t : State) (x : Bench) (o : Order) : o ∈ t.waiting.filter (t.bindEligible x) ↔ t.BindsTo x o := by
  rw [State.waiting, List.mem_filter, List.mem_filter, bindEligible_iff, Order.isWaiting, Bool.and_eq_true, Bool.and_eq_true,
    beq_iff_eq, Bool.not_eq_true', Option.beq_none, Option.isNone_iff_eq_none, State.BindsTo]
  simp only [and_assoc]

theorem bestFor_eq (t : State) (x : Bench) : t.bestFor x = pickBest t.bindBefore (t.waiting.filter (t.bindEligible x)) := by
  refine congrArg (fun f : Option Order → Order → Option Order => (t.waiting.filter (t.bindEligible x)).foldl f none) ?_
  funext best y
  cases best <;> rfl

theorem bestFor_none (h : t.bestFor x = none) (o : Order) : ¬t.BindsTo x o := by
  rw [bestFor_eq] at h
  rw [← mem_bindable, (pickBest_spec (bindBefore_trans t) (bindBefore_irrefl t) _).1 h]
  exact List.not_mem_nil

/-- R1: an order of the book is known by its slot. -/
theorem slot_inj (hi : s.Inv) (ho : o ∈ s.book.orders) (hp : p ∈ s.book.orders) (h : o.slot = p.slot) : o = p := by
  have hthere := order_of_mem hi ho
  rw [h, order_of_mem hi hp] at hthere
  exact (Option.some.inj hthere).symm

theorem bestFor_some (hi : t.Inv) (h : t.bestFor x = some o) :
    t.BindsTo x o ∧ ∀ q, t.BindsTo x q → q ≠ o → t.Better o q := by
  obtain ⟨hmem, hbest⟩ := (pickBest_spec (bindBefore_trans t) (bindBefore_irrefl t) _).2 o ((bestFor_eq t x).symm.trans h)
  have ho := (mem_bindable t x o).1 hmem
  exact ⟨ho, fun q hq hne => better_of_not (hbest q ((mem_bindable t x q).2 hq)) fun hs => hne (slot_inj hi hq.1 ho.1 hs)⟩

/-- R25, R113: an order bound to a bench. -/
def State.boundTo (t : State) (b : Nat) (o : Order) (p : TemplatePlan) : State :=
  { t with
    book := { t.book with orders := t.book.orders.map (fun q : Order => if q.slot = o.slot then { q with
      bench := some b
      lines := q.lines.map (fun l : Line => { l with lastProgress := t.clock.minute })
      topGate := some (if ∀ l ∈ q.lines, l.cls = .heavy → l.complete = true then .opened else .shut) } else q) }
    benches := t.benches.map (fun y : Bench => if y.number = b then
      { y with state := .fitting, orderSlot := some o.slot, hamper := some (Hamper.fresh o.template p) } else y)
    bus := { t.bus with sent := t.bus.sent ++ [(.bench b, .fitBase o.template)] } }

theorem bind_eq (t : State) (b : Nat) (o : Order) (p : TemplatePlan) : t.bind b o p = t.boundTo b o p := by
  simp only [State.bind, updOrder_eq, updBench_eq, gateOf_eq]
  rfl

/-- R25: what one bench of a binding pass is given. -/
theorem bindBench_gives (hi : t.Inv) (b : Nat) : (∃ x o p, t.bench? b = some x ∧ x.state = .idle ∧ t.BindsTo x o ∧
      (∀ q, t.BindsTo x q → q ≠ o → t.Better o q) ∧ t.plan? o.template = some p ∧ t.bindBench b = t.boundTo b o p) ∨
    ((∀ x, t.bench? b = some x → x.state = .idle → ∀ o, ¬t.BindsTo x o) ∧ t.bindBench b = t) := by
  unfold State.bindBench
  cases hx : t.bench? b with
  | none => exact .inr ⟨fun x h => (nomatch h), rfl⟩
  | some x =>
    by_cases hidle : x.state = .idle
    · simp only [hidle, beq_self_eq_true, if_true]
      cases hbest : t.bestFor x with
      | none =>
        refine .inr ⟨fun y hy _ => ?_, rfl⟩
        obtain rfl := Option.some.inj hy
        exact bestFor_none hbest
      | some o =>
        obtain ⟨ho, hbetter⟩ := bestFor_some hi hbest
        obtain ⟨-, -, -, -, -, ⟨p, hp, -⟩, -⟩ := id ho
        refine .inl ⟨x, o, p, rfl, hidle, ho, hbetter, hp, ?_⟩
        simp only [hp, bind_eq]
    · refine .inr ⟨fun y hy h => ?_, if_neg (by simpa using hidle)⟩
      obtain rfl := Option.some.inj hy
      exact absurd h hidle

/-- R25: a binding pass over the first k benches. -/
def State.boundUpTo (s : State) (k : Nat) : State := (upTo k).foldl State.bindBench s

theorem boundUpTo_succ (s : State) (k : Nat) : s.boundUpTo (k + 1) = (s.boundUpTo k).bindBench (k + 1) := by
  simp only [State.boundUpTo, upTo, List.range_succ, List.map_append, List.foldl_append, List.map_cons, List.map_nil,
    List.foldl_cons, List.foldl_nil]

theorem boundUpTo_inv (hi : s.Inv) (k : Nat) : (s.boundUpTo k).Inv := (foldl_work bindBench_work (upTo k) s).inv hi

theorem bindingAllowed_iff (s : State) : s.bindingAllowed = true ↔ s.cell.state = .running ∨ s.cell.state = .paused := by
  rw [State.bindingAllowed, Bool.or_eq_true, beq_iff_eq, beq_iff_eq]

/-! ### Admission (R51 to R53) -/

/-- R52: the lane that an entry of the schedule names. -/
def State.entryAt (s : State) (k : Nat) : Nat := (s.admission.schedule[(s.admission.pointer + k) % 32]?).getD 0

/-- R52: an entry that names no lane with a head. -/
def State.IdleAt (s : State) (k : Nat) : Prop := ∀ l, s.lane? (s.entryAt k) = some l → l.queue = []

theorem admissionOpen_iff (s : State) : s.admissionOpen = true ↔
    s.cell.state = .running ∧ s.admission.mergeFree = true ∧ s.occupancy < s.loop.capacity := by
  rw [State.admissionOpen, Bool.and_eq_true, Bool.and_eq_true, beq_iff_eq, decide_eq_true_eq, and_assoc]

/-- R52: the entries from the pointer on, in the order in which they are scanned. -/
def State.scanned (s : State) : List Nat := (List.range 32).map (fun k => (s.admission.pointer + k) % 32)

theorem tryAdmit_shut (h : s.admissionOpen = false) : s.tryAdmit = s := by
  rw [State.tryAdmit, h]
  rfl

theorem tryAdmit_open (h : s.admissionOpen = true) : s.tryAdmit = s.scanEntries s.scanned := if_pos h

theorem mem_scanned (h : e ∈ (List.range k).map (fun j => (s.admission.pointer + j) % 32)) :
    ∃ j < k, e = (s.admission.pointer + j) % 32 := by
  obtain ⟨j, hj, rfl⟩ := List.mem_map.1 h
  exact ⟨j, List.mem_range.1 hj, rfl⟩

theorem scan_idle (h : ∀ k < 32, s.IdleAt k) : s.scanEntries s.scanned = s := by
  have hskip := scanEntries_skip s.scanned [] s fun e he l hl => by
    obtain ⟨k, hk, rfl⟩ := mem_scanned he
    exact h k hk l hl
  rwa [List.append_nil] at hskip

theorem scanned_split (hk : k < 32) (s : State) : ∃ after, s.scanned =
    (List.range k).map (fun j => (s.admission.pointer + j) % 32) ++ (s.admission.pointer + k) % 32 :: after := by
  have hsplit : List.range 32 = List.range k ++ k :: (List.range (31 - k)).map (fun j => k + 1 + j) := by
    have h32 : 32 = k + ((31 - k) + 1) := by omega
    conv_lhs => rw [h32, List.range_add, List.range_succ_eq_map, List.map_cons, List.map_map, Nat.add_zero]
    refine congrArg (fun xs => List.range k ++ k :: xs) (List.map_congr_left fun j _ => ?_)
    simp only [Function.comp_apply]
    omega
  exact ⟨_, by rw [State.scanned, hsplit, List.map_append, List.map_cons]⟩

/-- R52: the scan comes to the first entry that names a lane with a head. -/
theorem scan_to (hk : k < 32) (h : ∀ j < k, s.IdleAt j) : ∃ after, s.scanned =
    (List.range k).map (fun j => (s.admission.pointer + j) % 32) ++ (s.admission.pointer + k) % 32 :: after ∧
    s.scanEntries s.scanned = s.scanEntries ((s.admission.pointer + k) % 32 :: after) := by
  obtain ⟨after, hsplit⟩ := scanned_split hk s
  refine ⟨after, hsplit, ?_⟩
  rw [hsplit]
  refine scanEntries_skip _ _ s fun e he l hl => ?_
  obtain ⟨j, hj, rfl⟩ := mem_scanned he
  exact h j hj l hl

/-- R52: two scans that come to the same after the expired heads of a lane. -/
theorem scanEntries_same {es : List Nat} {m : Lane} (hl : s.lane? (s.admission.schedule[e]?.getD 0) = some l)
    (hm : v.lane? (v.admission.schedule[e]?.getD 0) = some m) (hn : m.number = l.number)
    (h : State.rejectExpired m.number m.queue v = State.rejectExpired l.number l.queue s) :
    v.scanEntries (e :: es) = s.scanEntries (e :: es) := by
  rw [hn] at h
  simp only [State.scanEntries, hl, hm, hn, h]

/-- R52: a scan at an entry whose lane has a head that is not expired. -/
theorem scanEntries_head {es : List Nat} (hl : s.lane? (s.admission.schedule[e]?.getD 0) = some l)
    (hq : l.queue = tag :: rest) (hx : s.itemExpired tag = false) :
    s.scanEntries (e :: es) = s.admitItem e l.number tag := by
  have hstands : State.rejectExpired l.number (tag :: rest) s = s := by
    rw [State.rejectExpired, hx]
    rfl
  have hlane : s.lane? l.number = some l := by rw [(look_some hl).2]; exact hl
  simp only [State.scanEntries, hl, hstands, hlane, Option.bind_some, hq, List.head?_cons]

/-- R52: a lane's head taken off its queue. -/
def State.poppedLanes (s : State) (n : Nat) : List Lane :=
  s.lanes.map (fun l : Lane => if l.number = n then { l with queue := l.queue.tail } else l)

/-- R52: an expired head rejected. -/
def State.headRejected (s : State) (n tag : Nat) : State :=
  ({ s with
    bus := { s.bus with sent := s.bus.sent ++ [(.lane n, .laneReject tag .expired)] }
    lanes := s.poppedLanes n } : State).freeItem tag

theorem rejectHead_eq (s : State) (n tag : Nat) : s.rejectHead n tag = s.headRejected n tag := by
  rw [State.rejectHead, updLane_eq]
  rfl

theorem rejectHead_quietly (s : State) (n tag : Nat) :
    Quietly (s.updLane n (fun l => { l with queue := l.queue.tail })) (s.rejectHead n tag) := by
  have h := freeItem_quietly ((s.send (.lane n) (.laneReject tag .expired)).updLane n
    (fun l => { l with queue := l.queue.tail })) tag
  exact ⟨h.lanes, h.admission, h.cell, h.loop, h.occ⟩

theorem updLane_lane_same {f : Lane → Lane} (n : Nat) (s : State) (hf : ∀ l, (f l).number = l.number := by exact fun _ => rfl) :
    (s.updLane n f).lane? n = (s.lane? n).map f := look_amend_same hf s.lanes

theorem updLane_lane_other {f : Lane → Lane} (s : State) (he : e ≠ n)
    (hf : ∀ l, (f l).number = l.number := by exact fun _ => rfl) : (s.updLane n f).lane? e = s.lane? e :=
  look_amend_other hf he s.lanes

/-- What the queue of a lane is after its head was rejected. -/
theorem rejectHead_lane (hl : s.lane? n = some l) (tag : Nat) :
    ∃ m, (s.rejectHead n tag).lane? n = some m ∧ m.number = l.number ∧ m.queue = l.queue.tail := by
  have hpopped : (s.updLane n (fun l => { l with queue := l.queue.tail })).lane? n = some { l with queue := l.queue.tail } :=
    (updLane_lane_same n s).trans (congrArg (Option.map _) hl)
  have hkept := lane_queue (rejectHead_quietly s n tag).lanes n
  rw [hpopped, Option.map_some, Option.map_eq_some_iff] at hkept
  obtain ⟨m, hm, heq⟩ := hkept
  exact ⟨m, hm, (Prod.mk.inj heq).1, (Prod.mk.inj heq).2⟩

theorem rejectHead_idle {m : Lane} (hm : (s.rejectHead n tag).lane? e = some m)
    (hidle : ∀ l, s.lane? e = some l → l.queue = []) : m.queue = [] := by
  have hkept := lane_queue (rejectHead_quietly s n tag).lanes e
  rw [hm, Option.map_some, eq_comm, Option.map_eq_some_iff] at hkept
  obtain ⟨l, hl, heq⟩ := hkept
  rw [← (Prod.mk.inj heq).2]
  by_cases he : e = n
  · subst he
    rw [updLane_lane_same, Option.map_eq_some_iff] at hl
    obtain ⟨y, hy, rfl⟩ := hl
    exact congrArg List.tail (hidle y hy)
  · rw [updLane_lane_other s he] at hl
    exact hidle l hl

/-- R51, R52: after an expired head is rejected the attempt comes to what a new one from there comes to. -/
theorem tryAdmit_expired (hopen : s.admissionOpen = true) (hk : k < 32) (h : ∀ j < k, s.IdleAt j)
    (hl : s.lane? (s.entryAt k) = some l) (hq : l.queue = tag :: rest) (hx : s.itemExpired tag = true) :
    s.tryAdmit = (s.rejectHead l.number tag).tryAdmit := by
  have hquiet := rejectHead_quietly s l.number tag
  have hadm : (s.rejectHead l.number tag).admission = s.admission := hquiet.admission
  have hstill : (s.rejectHead l.number tag).admissionOpen = true := by
    obtain ⟨hrun, hflag, hroom⟩ := (admissionOpen_iff s).1 hopen
    refine (admissionOpen_iff _).2 ⟨?_, ?_, ?_⟩
    · rw [hquiet.cell]; exact hrun
    · rw [hadm]; exact hflag
    · rw [hquiet.loop]; exact lt_of_le_of_lt hquiet.occ hroom
  have hnum : l.number = s.entryAt k := (look_some hl).2
  have hlane : s.lane? l.number = some l := by rw [hnum]; exact hl
  obtain ⟨m, hm, hmn, hmq⟩ := rejectHead_lane hlane tag
  have hidle : ∀ j < k, (s.rejectHead l.number tag).IdleAt j := fun j hj y hy => by
    rw [State.entryAt, hadm] at hy
    exact rejectHead_idle hy (h j hj)
  obtain ⟨after, hsplit, hscan⟩ := scan_to hk h
  obtain ⟨after', hsplit', hscan'⟩ := scan_to hk hidle
  have hafter : after' = after := by
    have heq : (s.rejectHead l.number tag).scanned = s.scanned := by rw [State.scanned, State.scanned, hadm]
    rw [hsplit, hsplit', hadm] at heq
    exact (List.cons.inj (List.append_cancel_left heq)).2
  rw [tryAdmit_open hopen, tryAdmit_open hstill, hscan, hscan', hafter, hadm]
  refine (scanEntries_same hl ?_ hmn ?_).symm
  · rw [hadm]
    exact (congrArg _ hnum.symm).trans hm
  · rw [hmn, hmq, hq, rejectExpired_head _ _ _ _ hx, List.tail_cons]

/-- R53: the head of a lane admitted, before its allocation run. -/
def State.onLoop (s : State) (k n tag : Nat) : State :=
  let v := { s with
    bus := { s.bus with sent := s.bus.sent ++ [(.lane n, .admitTag tag)] }
    admission := { s.admission with pointer := (s.admission.pointer + k + 1) % 32, mergeFree := false }
    lanes := s.poppedLanes n : State }.judgeLanes
  { v with items := v.items.map (fun i : Item => if i.tag = tag then { i with location := .onLoop, laps := 0 } else i) }

theorem admitItem_eq (hw : v = (s.onLoop k n tag).runAllocation tag) :
    s.admitItem ((s.admission.pointer + k) % 32) n tag =
      if (v.item? tag).bind (·.dest) = none then v.withSent .sorter (.route tag none) else v := by
  have hpointer : ((s.admission.pointer + k) % 32 + 1) % 32 = (s.admission.pointer + k + 1) % 32 := by omega
  have hdest : v.hasDest tag = true ↔ ¬(v.item? tag).bind (·.dest) = none := by
    unfold State.hasDest
    cases v.item? tag <;> simp
  have hlooped : s.admitItem ((s.admission.pointer + k) % 32) n tag = if v.hasDest tag then v else v.route tag none := by
    rw [hw]
    simp only [State.admitItem, updLane_eq, updItem_eq, hpointer]
    rfl
  rw [hlooped]
  by_cases h : (v.item? tag).bind (·.dest) = none
  · rw [if_pos h, if_neg fun hd => hdest.1 hd h]
    rfl
  · rw [if_neg h, if_pos (hdest.2 h)]

theorem itemExpired_iff (s : State) (tag : Nat) : s.itemExpired tag = true ↔ ∃ i, s.item? tag = some i ∧ i.expired = true := by
  unfold State.itemExpired
  cases s.item? tag <;> simp

theorem tryAdmit_head (hopen : s.admissionOpen = true) (hk : k < 32) (h : ∀ j < k, s.IdleAt j)
    (hl : s.lane? (s.entryAt k) = some l) (hq : l.queue = tag :: rest) (hx : s.itemExpired tag = false) :
    s.tryAdmit = s.admitItem ((s.admission.pointer + k) % 32) l.number tag := by
  obtain ⟨after, -, hscan⟩ := scan_to hk h
  rw [tryAdmit_open hopen, hscan, scanEntries_head hl hq hx]

/-- Settles O59: an attempt of admission, a binding pass and an arbitration, each by its choice. -/
theorem admissionBindingAndBufferReleaseChoose : Obligations.AdmissionBindingAndBufferReleaseChoose := by
  refine ⟨fun s => ?admission, fun s hi => ?binding, fun s => ?arbitration⟩
  case admission =>
    intro opens entry idle popped
    refine ⟨fun h => ?_, fun hopen k hk hbefore l tag rest hl hq => ⟨fun hx => ?_, fun hx => ?_⟩⟩
    · have hsame : s.tryAdmit = s := by
        rcases h with h | h
        · exact tryAdmit_shut (Bool.eq_false_iff.2 fun hc => h ((admissionOpen_iff s).1 hc))
        · cases hopen : s.admissionOpen with
          | false => exact tryAdmit_shut hopen
          | true => exact (tryAdmit_open hopen).trans (scan_idle h)
      exact (congrArg s.ends hsame).trans (congrArg Host.Outcome.next (judgeQuiet_self s))
    · refine congrArg s.ends ((tryAdmit_expired ((admissionOpen_iff s).2 hopen) hk hbefore hl hq
        ((itemExpired_iff s tag).2 hx)).trans ?_)
      rw [rejectHead_eq]
      rfl
    · intro v w
      have hlive : s.itemExpired tag = false := Bool.eq_false_iff.2 fun hc => by
        obtain ⟨i, hi, hexp⟩ := (itemExpired_iff s tag).1 hc
        exact absurd hexp (by simp [hx i hi])
      exact congrArg s.ends ((tryAdmit_head ((admissionOpen_iff s).2 hopen) hk hbefore hl hq hlive).trans (admitItem_eq rfl))
  case binding =>
    intro eligible better gives
    refine ⟨fun h1 h2 => ?_, fun h => ⟨s.boundUpTo, rfl, fun b _ => ?_, congrArg s.ends (if_pos ((bindingAllowed_iff s).2 h))⟩⟩
    · have hsame : s.bindPass = s := if_neg fun hc => ((bindingAllowed_iff s).1 hc).elim h1 h2
      exact (congrArg s.ends hsame).trans (congrArg Host.Outcome.next (judgeQuiet_self s))
    · rw [boundUpTo_succ]
      exact bindBench_gives (boundUpTo_inv hi b) (b + 1)
  case arbitration =>
    intro free out staged fills
    have hout (t : State) : t.oldest (t.items.filter (fun i => State.outbound i && t.orderable i.tag)) = out t :=
      congrArg t.oldest (List.filter_congr fun i _ => eq_decide_of_iff (outbound_iff t i))
    have hstaged (t : State) (b : Nat) : t.oldest (t.items.filter (t.stagedEligible b)) = staged t b :=
      congrArg t.oldest (List.filter_congr fun i _ => eq_decide_of_iff (stagedEligible_iff t b i))
    have hfills (t u : State) : fills t u ↔ t.arbitrateOnce = some u := by
      rw [arbitrateOnce_iff, scan_iff]
      simp only [hout, hstaged, orderToChute_eq]
      rfl
    obtain ⟨hrun, hend⟩ := chain (it := State.fillTimes) (fun _ => rfl) (fun _ _ => rfl) hfills State.releaseRoom
      arbitrateOnce_room 2 s (Nat.sub_le _ _)
    rw [← arbitrate_fill] at hrun hend
    exact ⟨s.arbitrate, hrun, hend, rfl⟩

end Sys2Proof.Machine
end

section
/-! SUPPORT. The candidates of an allocation run and its winner (R63 to R75). -/

namespace Sys2Proof.Machine

open Sys2Proof

variable {s : State} {i : Item} {o : Order} {l : Line} {h : Hamper} {z : Zone} {b r n : Nat} {c d : Candidate} {x : Bench}

/-! ### The zone and the fit (R67, R68) -/

/-- R68: a zone has a slot and volume for an item. -/
def Item.Room (i : Item) (z : ZoneRec) : Prop := SlotState.free ∈ z.slots ∧ z.committed + i.vu ≤ z.capacity

theorem takes_iff_room (i : Item) (z : ZoneRec) : z.takes i.vu = true ↔ i.Room z := by
  simp [ZoneRec.takes, Item.Room]

/-- R67, R68: the zone of an item in a hamper. -/
def Item.Zoned (i : Item) (h : Hamper) (z : Zone) : Prop := match i.cls with
  | .heavy => z = .base ∧ h.baseClosed = false ∧ i.Room h.base
  | .ambient => (z = .middle ∧ i.Room h.middle) ∨ (z = .base ∧ ¬i.Room h.middle ∧ h.baseClosed = false ∧ i.Room h.base)
  | .fragile => z = .top ∧ i.Room h.top
  | .chilled => z = .pocket ∧ i.Room h.pocketZone

theorem some_eq_some_swap {α : Type} {x y : α} : some x = some y ↔ y = x := Option.some_inj.trans eq_comm

theorem zoneFor_iff (i : Item) (h : Hamper) (z : Zone) : h.zoneFor i.cls i.vu = some z ↔ i.Zoned h z := by
  unfold Hamper.zoneFor Item.Zoned
  cases i.cls with
  | heavy =>
    simp only [Bool.and_eq_true, Bool.not_eq_true', takes_iff_room, Option.ite_none_right_eq_some, some_eq_some_swap,
      and_comm (b := z = .base)]
  | ambient =>
    by_cases hm : i.Room h.middle
    · simp only [takes_iff_room, hm, if_true, some_eq_some_swap, and_true, not_true_eq_false, false_and, and_false, or_false]
    · simp only [takes_iff_room, hm, if_false, Bool.and_eq_true, Bool.not_eq_true', Option.ite_none_right_eq_some,
        some_eq_some_swap, and_false, false_or, not_false_eq_true, true_and, and_comm (b := z = .base)]
  | fragile => simp only [takes_iff_room, Option.ite_none_right_eq_some, some_eq_some_swap, and_comm]
  | chilled => simp only [takes_iff_room, Option.ite_none_right_eq_some, some_eq_some_swap, and_comm]

theorem fit_into_iff (i : Item) (h : Hamper) (z : Zone) : h.fit i = .into z ↔ i.Zoned h z ∧ h.mass + i.mass ≤ h.massLimit := by
  rw [← zoneFor_iff, Hamper.fit]
  cases h.zoneFor i.cls i.vu with
  | none => simp
  | some y => by_cases hm : h.mass + i.mass ≤ h.massLimit <;> simp [hm]

theorem fit_noZone_iff (i : Item) (h : Hamper) : h.fit i = .noZone ↔ ∀ z, ¬i.Zoned h z := by
  simp only [← zoneFor_iff, Hamper.fit]
  cases h.zoneFor i.cls i.vu with
  | none => simp
  | some y =>
    dsimp only
    split <;> simp

theorem fit_overMass_iff (i : Item) (h : Hamper) : h.fit i = .overMass ↔ ∃ z, i.Zoned h z ∧ h.massLimit < h.mass + i.mass := by
  simp only [← zoneFor_iff, Hamper.fit]
  cases h.zoneFor i.cls i.vu with
  | none => simp
  | some y =>
    dsimp only
    split <;> simp <;> omega

/-! ### The order-level conditions and the credits (R64, R69, R70) -/

theorem orderBench?_iff (s : State) (i : Item) (o : Order) (b : Nat) : s.orderBench? i o = some b ↔ ∃ x v, o.bench = some b ∧
    s.bench? b = some x ∧ x.staffed = true ∧ s.rushFloor ≤ o.priority ∧ s.lane? i.lane = some v ∧
    benchIn v.vector b = true ∧ o.state = .building := by
  unfold State.orderBench?
  cases ho : o.bench with
  | none => simp
  | some a =>
    cases hv : s.lane? i.lane with
    | none => simp
    | some v =>
      simp only [Option.ite_none_right_eq_some, Bool.and_eq_true, beq_iff_eq, decide_eq_true_eq, Option.some.injEq]
      constructor
      · rintro ⟨⟨⟨⟨hb, hst⟩, hr⟩, hin⟩, rfl⟩
        obtain ⟨x, hx, hs⟩ := (staffed_iff s a).1 hst
        exact ⟨x, v, rfl, hx, hs, hr, rfl, hin, hb⟩
      · rintro ⟨x, _, rfl, hx, hs, hr, rfl, hin, hb⟩
        exact ⟨⟨⟨⟨hb, (staffed_iff s _).2 ⟨x, hx, hs⟩⟩, hr⟩, hin⟩, rfl⟩

/-- R69: the wait of an item committed to an order. -/
def Item.waitAt (i : Item) (o : Order) (h : Hamper) : WaitCause :=
  if i.cls = .fragile ∧ o.topGate = some .shut then .topGate
  else if i.cls = .chilled ∧ h.pocket ≠ .fitted then .pocket else .none

theorem waitFor_eq (i : Item) (o : Order) (h : Hamper) : waitFor i o h = i.waitAt o h := by
  simp only [waitFor, Item.waitAt, Bool.and_eq_true, beq_iff_eq, bne_iff_ne]

/-- R85: room in a chute for an item that need not wait. -/
def Item.ChuteRoom (i : Item) (c : Chute) (w : WaitCause) : Prop := w = .none ∧ 1 ≤ c.freeItems ∧ i.vu ≤ c.freeVu

/-- R86: room in the common pool for an item of a bench. -/
def State.CommonRoom (s : State) (i : Item) (c : Chute) : Prop := 1 ≤ s.pool.freeItems ∧ i.vu ≤ s.pool.freeVu ∧
  c.heldItems + 1 ≤ c.capItems ∧ c.heldVu + i.vu ≤ c.capVu

theorem creditTest_iff (s : State) (i : Item) (b : Nat) (w : WaitCause) (src : CreditSource) :
    s.creditTest b i.vu w = some src ↔ ∃ k, s.chute? b = some k ∧
      ((src = .chute ∧ i.ChuteRoom k w) ∨ (src = .common ∧ ¬i.ChuteRoom k w ∧ s.CommonRoom i k)) := by
  unfold State.creditTest State.chuteRoom State.commonRoom
  cases s.chute? b with
  | none => simp
  | some k =>
    have hchute : (w == .none && decide (1 ≤ k.freeItems ∧ i.vu ≤ k.freeVu)) = true ↔ i.ChuteRoom k w := by
      rw [Bool.and_eq_true, beq_iff_eq, decide_eq_true_eq, Item.ChuteRoom]
    have hcommon : decide (1 ≤ s.pool.freeItems ∧ i.vu ≤ s.pool.freeVu ∧ k.heldItems + 1 ≤ k.capItems ∧
        k.heldVu + i.vu ≤ k.capVu) = true ↔ s.CommonRoom i k := decide_eq_true_iff
    simp only [Option.some.injEq, exists_eq_left']
    by_cases h : i.ChuteRoom k w
    · rw [if_pos (hchute.2 h), some_eq_some_swap]
      simp only [h, and_true, not_true_eq_false, false_and, and_false, or_false]
    · rw [if_neg (mt hchute.1 h), Option.ite_none_right_eq_some, some_eq_some_swap, hcommon, and_comm]
      simp only [h, and_false, not_false_eq_true, true_and, false_or]

/-! ### Candidates (R64 to R73) -/

/-- R71 to R73: the score of an order. -/
def State.scoreOf (s : State) (o : Order) : Nat :=
  1024 * o.priority + 4 * (1023 - min 1023 (s.cutoffOf o.wave - s.clock.minute)) +
    256 * ((o.lines.map (·.committed)).sum + 1) /
      (o.lines.map (fun l : Line => if l.state = .closed then l.committed else l.required)).sum

theorem score_eq (s : State) (o : Order) : s.score o = s.scoreOf o := by
  simp only [State.score, State.urgency, Order.completion, Order.got, Order.wanted, beq_iff_eq, State.scoreOf]

/-- R64, R67 to R73: what a candidate has of its order and of the order's hamper and credits. -/
def State.Homes (s : State) (i : Item) (o : Order) (c : Candidate) : Prop := ∃ x h v k, o.state = .building ∧
  o.bench = some c.bench ∧ s.bench? c.bench = some x ∧ x.staffed = true ∧ s.rushFloor ≤ o.priority ∧
  s.lane? i.lane = some v ∧ benchIn v.vector c.bench = true ∧ x.hamper = some h ∧ i.Zoned h c.zone ∧
  h.mass + i.mass ≤ h.massLimit ∧ c.wait = i.waitAt o h ∧ s.chute? c.bench = some k ∧
  ((c.source = .chute ∧ i.ChuteRoom k c.wait) ∨ (c.source = .common ∧ ¬i.ChuteRoom k c.wait ∧ s.CommonRoom i k)) ∧
  c.score = s.scoreOf o ∧ c.age = s.age o

theorem candidate?_parts (s : State) (i : Item) (o : Order) (n r : Nat) (c : Candidate) : s.candidate? i o n r = some c ↔
    ∃ b h z src, s.orderBench? i o = some b ∧ s.hamper? b = some h ∧ h.fit i = .into z ∧
      s.creditTest b i.vu (waitFor i o h) = some src ∧
      (⟨o.slot, n, b, r, z, waitFor i o h, src, s.score o, s.age o⟩ : Candidate) = c := by
  unfold State.candidate?
  cases s.orderBench? i o with
  | none => simp
  | some b =>
    cases hh : s.hamper? b with
    | none => simp [hh]
    | some h =>
      cases hf : h.fit i with
      | noZone => simp [hh, hf]
      | overMass => simp [hh, hf]
      | into z => cases hc : s.creditTest b i.vu (waitFor i o h) <;> simp [hh, hf, hc]

theorem candidate?_iff (s : State) (i : Item) (o : Order) (n r : Nat) (c : Candidate) : s.candidate? i o n r = some c ↔
    c.slot = o.slot ∧ c.line = n ∧ c.rank = r ∧ s.Homes i o c := by
  simp only [candidate?_parts, orderBench?_iff, hamper?_iff, fit_into_iff, creditTest_iff, waitFor_eq, score_eq]
  constructor
  · rintro ⟨b, h, z, src, ⟨x, v, hb, hx, hst, hr, hv, hin, hbuild⟩, ⟨y, hy, hh⟩, ⟨hz, hmass⟩, ⟨k, hk, hcr⟩, rfl⟩
    obtain rfl := Option.some.inj (hx.symm.trans hy)
    exact ⟨rfl, rfl, rfl, x, h, v, k, hbuild, hb, hx, hst, hr, hv, hin, hh, hz, hmass, rfl, hk, hcr, rfl, rfl⟩
  · rintro ⟨hslot, rfl, rfl, x, h, v, k, hbuild, hb, hx, hst, hr, hv, hin, hh, hz, hmass, hw, hk, hcr, hscore, hage⟩
    refine ⟨c.bench, h, c.zone, c.source, ⟨x, v, hb, hx, hst, hr, hv, hin, hbuild⟩, ⟨x, hx, hh⟩, ⟨hz, hmass⟩,
      ⟨k, hk, hw ▸ hcr⟩, ?_⟩
    rw [← hslot, ← hw, ← hscore, ← hage]

/-- R65: a line that a direct match serves. -/
def Item.Sought (i : Item) (l : Line) : Prop := l.sku = i.sku ∧ l.cls = i.cls ∧ (l.state = .opened ∨ l.state = .short)

theorem directMatch_iff (i : Item) (l : Line) : directMatch i l = true ↔ i.Sought l := by
  simp only [directMatch, Bool.and_eq_true, beq_iff_eq, Bool.or_eq_true, Item.Sought]
  tauto

theorem findIdx?_iff (xs : List Nat) (y k : Nat) : xs.findIdx? (· == y) = some k ↔ xs[k]? = some y ∧ ∀ j < k, xs[j]? ≠ some y := by
  rw [List.findIdx?_eq_some_iff_getElem]
  constructor
  · rintro ⟨hk, hy, hbefore⟩
    refine ⟨by rw [List.getElem?_eq_getElem hk, beq_iff_eq.1 hy], fun j hj hc => ?_⟩
    have hne := hbefore j hj
    rw [List.getElem?_eq_getElem (hj.trans hk), Option.some.injEq] at hc
    simp [hc] at hne
  · rintro ⟨hy, hbefore⟩
    obtain ⟨hk, heq⟩ := List.getElem?_eq_some_iff.1 hy
    refine ⟨hk, by simp [heq], fun j hj => ?_⟩
    have hne := hbefore j hj
    rw [List.getElem?_eq_getElem (hj.trans hk)] at hne
    simpa using hne

/-- R66: the rank of a substitute. -/
theorem substituteRank?_iff (s : State) (i : Item) (l : Line) (r : Nat) : s.substituteRank? i l = some r ↔ l.cls = i.cls ∧
    1 ≤ r ∧ l.state = .short ∧ l.group ≠ 0 ∧ (s.alternates l.group)[r - 1]? = some i.sku ∧
    ∀ j < r - 1, (s.alternates l.group)[j]? ≠ some i.sku := by
  simp only [State.substituteRank?, Option.ite_none_right_eq_some, Bool.and_eq_true, beq_iff_eq, bne_iff_ne,
    Option.map_eq_some_iff, findIdx?_iff]
  constructor
  · rintro ⟨⟨⟨hc, hs⟩, hg⟩, k, ⟨hk, hbefore⟩, rfl⟩
    exact ⟨hc, by omega, hs, hg, hk, hbefore⟩
  · rintro ⟨hc, hr, hs, hg, hk, hbefore⟩
    exact ⟨⟨⟨hc, hs⟩, hg⟩, r - 1, ⟨hk, hbefore⟩, by omega⟩

/-- R64 to R73: a candidate line for an item. -/
def State.IsCandidate (s : State) (i : Item) (c : Candidate) : Prop := ∃ o l, o ∈ s.book.orders ∧ c.slot = o.slot ∧
  1 ≤ c.line ∧ o.lines[c.line - 1]? = some l ∧ l.cls = i.cls ∧ s.Homes i o c ∧
  ((c.rank = 0 ∧ l.sku = i.sku ∧ (l.state = .opened ∨ l.state = .short)) ∨
    (1 ≤ c.rank ∧ l.state = .short ∧ l.group ≠ 0 ∧ (s.alternates l.group)[c.rank - 1]? = some i.sku ∧
      ∀ j < c.rank - 1, (s.alternates l.group)[j]? ≠ some i.sku))

theorem mem_directCandidates (s : State) (i : Item) (c : Candidate) :
    c ∈ s.directCandidates i ↔ s.IsCandidate i c ∧ c.rank = 0 := by
  simp only [State.directCandidates, List.mem_flatMap, List.mem_filterMap, Option.ite_none_right_eq_some, Prod.exists,
    List.mk_mem_zipIdx_iff_le_and_getElem?_sub, directMatch_iff, candidate?_iff]
  constructor
  · rintro ⟨o, ho, l, n, ⟨hn, hl⟩, ⟨hsku, hcls, hst⟩, hslot, rfl, hr, hhome⟩
    exact ⟨⟨o, l, ho, hslot, hn, hl, hcls, hhome, .inl ⟨hr, hsku, hst⟩⟩, hr⟩
  · rintro ⟨⟨o, l, ho, hslot, hn, hl, hcls, hhome, hrank⟩, hr⟩
    rcases hrank with ⟨-, hsku, hst⟩ | ⟨h1, -⟩
    · exact ⟨o, ho, l, c.line, ⟨hn, hl⟩, ⟨hsku, hcls, hst⟩, hslot, rfl, hr, hhome⟩
    · omega

theorem mem_substituteCandidates (s : State) (i : Item) (c : Candidate) :
    c ∈ s.substituteCandidates i ↔ s.IsCandidate i c ∧ 1 ≤ c.rank := by
  simp only [State.substituteCandidates, List.mem_flatMap, List.mem_filterMap, Prod.exists,
    List.mk_mem_zipIdx_iff_le_and_getElem?_sub, Option.bind_eq_some_iff, substituteRank?_iff, candidate?_iff]
  constructor
  · rintro ⟨o, ho, l, n, ⟨hn, hl⟩, r, ⟨hcls, h1, hst⟩, hslot, rfl, rfl, hhome⟩
    exact ⟨⟨o, l, ho, hslot, hn, hl, hcls, hhome, .inr ⟨h1, hst⟩⟩, h1⟩
  · rintro ⟨⟨o, l, ho, hslot, hn, hl, hcls, hhome, hrank⟩, h1⟩
    rcases hrank with ⟨h0, -⟩ | ⟨-, hst⟩
    · omega
    · exact ⟨o, ho, l, c.line, ⟨hn, hl⟩, c.rank, ⟨hcls, h1, hst⟩, hslot, rfl, rfl, hhome⟩

/-! ### The winner (R74, R75) -/

/-- R74, R75: one candidate goes before another. -/
def Candidate.Before (c d : Candidate) : Prop := c.rank < d.rank ∨ c.rank = d.rank ∧
  (d.score < c.score ∨ d.score = c.score ∧ (d.age < c.age ∨ d.age = c.age ∧
    (if c.rank = 0 then c.slot < d.slot else c.line < d.line ∨ c.line = d.line ∧ c.slot < d.slot)))

/-- R74, without the rank. -/
def Candidate.DirectBefore (c d : Candidate) : Prop :=
  d.score < c.score ∨ d.score = c.score ∧ (d.age < c.age ∨ d.age = c.age ∧ c.slot < d.slot)

/-- R75, with the rank. -/
def Candidate.SubstituteBefore (c d : Candidate) : Prop := c.rank < d.rank ∨ c.rank = d.rank ∧
  (d.score < c.score ∨ d.score = c.score ∧ (d.age < c.age ∨ d.age = c.age ∧
    (c.line < d.line ∨ c.line = d.line ∧ c.slot < d.slot)))

theorem directBefore_iff (c d : Candidate) : directBefore c d = true ↔ c.DirectBefore d := by
  unfold directBefore Candidate.DirectBefore
  split_ifs <;> simp only [decide_eq_true_eq] <;> omega

theorem substituteBefore_iff (c d : Candidate) : substituteBefore c d = true ↔ c.SubstituteBefore d := by
  unfold substituteBefore Candidate.SubstituteBefore
  split_ifs <;> simp only [decide_eq_true_eq] <;> omega

theorem directBefore_spec (cs : List Candidate) : (bestOf directBefore cs = none → cs = []) ∧
    ∀ c, bestOf directBefore cs = some c → c ∈ cs ∧ ∀ d ∈ cs, directBefore d c = false := by
  refine bestOf_spec directBefore (fun a b c hab hbc => ?_) (fun a => ?_) cs
  · rw [directBefore_iff, Candidate.DirectBefore] at *
    omega
  · rw [← Bool.not_eq_true, directBefore_iff, Candidate.DirectBefore]
    omega

theorem substituteBefore_spec (cs : List Candidate) : (bestOf substituteBefore cs = none → cs = []) ∧
    ∀ c, bestOf substituteBefore cs = some c → c ∈ cs ∧ ∀ d ∈ cs, substituteBefore d c = false := by
  refine bestOf_spec substituteBefore (fun a b c hab hbc => ?_) (fun a => ?_) cs
  · rw [substituteBefore_iff, Candidate.SubstituteBefore] at *
    omega
  · rw [← Bool.not_eq_true, substituteBefore_iff, Candidate.SubstituteBefore]
    omega

theorem before_direct (hc : c.rank = 0) (hd : d.rank = 0) : d.Before c ↔ directBefore d c = true := by
  rw [directBefore_iff, Candidate.DirectBefore, Candidate.Before, if_pos hd, hc, hd]
  simp

theorem before_substitute (hd : 1 ≤ d.rank) : d.Before c ↔ substituteBefore d c = true := by
  rw [substituteBefore_iff, Candidate.SubstituteBefore, Candidate.Before, if_neg (by omega)]

/-- R74, R75: where there is no winner there is no candidate. -/
theorem winner?_none (h : s.winner? i = none) (d : Candidate) : ¬s.IsCandidate i d := by
  intro hd
  unfold State.winner? at h
  cases hdirect : bestOf directBefore (s.directCandidates i) with
  | some c => simp [hdirect] at h
  | none =>
    rw [hdirect] at h
    rcases Nat.eq_zero_or_pos d.rank with h0 | h1
    · have hmem := (mem_directCandidates s i d).2 ⟨hd, h0⟩
      rw [(directBefore_spec _).1 hdirect] at hmem
      exact List.not_mem_nil hmem
    · have hmem := (mem_substituteCandidates s i d).2 ⟨hd, h1⟩
      rw [(substituteBefore_spec _).1 h] at hmem
      exact List.not_mem_nil hmem

/-- R74, R75: the winner is a candidate that none goes before. -/
theorem winner?_some (h : s.winner? i = some c) : s.IsCandidate i c ∧ ∀ d, s.IsCandidate i d → ¬d.Before c := by
  unfold State.winner? at h
  cases hdirect : bestOf directBefore (s.directCandidates i) with
  | some e =>
    rw [hdirect] at h
    obtain rfl := Option.some.inj h
    obtain ⟨hmem, hbest⟩ := (directBefore_spec _).2 e hdirect
    obtain ⟨hcand, hrank⟩ := (mem_directCandidates s i e).1 hmem
    refine ⟨hcand, fun d hd hbefore => ?_⟩
    have h0 : d.rank = 0 := by
      unfold Candidate.Before at hbefore
      omega
    have hno := hbest d ((mem_directCandidates s i d).2 ⟨hd, h0⟩)
    rw [(before_direct hrank h0).1 hbefore] at hno
    cases hno
  | none =>
    rw [hdirect] at h
    obtain ⟨hmem, hbest⟩ := (substituteBefore_spec _).2 c h
    obtain ⟨hcand, hrank⟩ := (mem_substituteCandidates s i c).1 hmem
    refine ⟨hcand, fun d hd hbefore => ?_⟩
    rcases Nat.eq_zero_or_pos d.rank with h0 | h1
    · have hmem := (mem_directCandidates s i d).2 ⟨hd, h0⟩
      rw [(directBefore_spec _).1 hdirect] at hmem
      exact List.not_mem_nil hmem
    · have hno := hbest d ((mem_substituteCandidates s i d).2 ⟨hd, h1⟩)
      rw [(before_substitute h1).1 hbefore] at hno
      cases hno

end Sys2Proof.Machine
end

section
/-! SUPPORT. What an allocation run does: its reports where it finds no home, and its commit (R76 to R82). -/

namespace Sys2Proof.Machine

open Sys2Proof

variable {s t : State} {i : Item} {o p : Order} {h : Hamper} {c : Candidate} {x y : FaultCtx} {d e n tag : Nat}

/-! ### FIT_REFUSED (R81) -/

/-- R81: a BUILDING order with a line of the item's SKU and class that is OPEN or SHORT. -/
def State.Matching (s : State) (i : Item) (o : Order) : Prop :=
  o ∈ s.book.orders ∧ o.state = .building ∧ ∃ l ∈ o.lines, i.Sought l

theorem mem_matchingLines (s : State) (i : Item) (o : Order) : o ∈ s.matchingLines i ↔ s.Matching i o := by
  simp only [State.matchingLines, List.mem_filter, Bool.and_eq_true, beq_iff_eq, List.any_eq_true, directMatch_iff, State.Matching]

/-- R64: the order-level conditions of an order, with its hamper. -/
def State.Meets (s : State) (i : Item) (o : Order) (h : Hamper) : Prop := ∃ b x v, o.bench = some b ∧ s.bench? b = some x ∧
  x.staffed = true ∧ s.rushFloor ≤ o.priority ∧ s.lane? i.lane = some v ∧ benchIn v.vector b = true ∧ x.hamper = some h

theorem fitOf?_iff (ho : o.state = .building) (f : Fit) : s.fitOf? i o = some f ↔ ∃ h, s.Meets i o h ∧ h.fit i = f := by
  simp only [State.fitOf?, Option.bind_eq_some_iff, Option.map_eq_some_iff, orderBench?_iff, hamper?_iff]
  constructor
  · rintro ⟨b, ⟨x, v, hb, hx, hst, hr, hv, hin, -⟩, h, ⟨y, hy, hh⟩, hf⟩
    obtain rfl := Option.some.inj (hx.symm.trans hy)
    exact ⟨h, ⟨b, x, v, hb, hx, hst, hr, hv, hin, hh⟩, hf⟩
  · rintro ⟨h, ⟨b, x, v, hb, hx, hst, hr, hv, hin, hh⟩, hf⟩
    exact ⟨b, ⟨x, v, hb, hx, hst, hr, hv, hin, ho⟩, h, ⟨x, hx, hh⟩, hf⟩

/-- R81: an order that fails the zone test. -/
def State.NoZone (s : State) (i : Item) (o : Order) : Prop := ∃ h, s.Meets i o h ∧ ∀ z, ¬i.Zoned h z

/-- R81: an order that fails the mass test. -/
def State.OverMass (s : State) (i : Item) (o : Order) : Prop :=
  ∃ h z, s.Meets i o h ∧ i.Zoned h z ∧ h.massLimit < h.mass + i.mass

theorem noZone_iff (ho : o.state = .building) : (s.fitOf? i o == some .noZone) = true ↔ s.NoZone i o := by
  simp only [beq_iff_eq, fitOf?_iff ho, fit_noZone_iff, State.NoZone]

theorem overMass_iff (ho : o.state = .building) : (s.fitOf? i o == some .overMass) = true ↔ s.OverMass i o := by
  simp only [beq_iff_eq, fitOf?_iff ho, fit_overMass_iff, State.OverMass, exists_and_left]

theorem not_overMass_of_noZone (ho : o.state = .building) (hz : s.NoZone i o) : ¬s.OverMass i o := fun hm => by
  have h1 := beq_iff_eq.1 ((noZone_iff ho).2 hz)
  rw [beq_iff_eq.1 ((overMass_iff ho).2 hm)] at h1
  cases h1

/-- R81: what the report of a run says of an order. -/
def Item.refusalCtx (i : Item) (o : Order) : FaultCtx := ⟨some i.tag, some o.slot, o.bench, some i.lane, some i.sku⟩

/-- R81: the detail of FIT_REFUSED. -/
def State.RefusedDetail (s : State) (i : Item) (d : Nat) : Prop := (d = 1 ∧ ∀ p, s.Matching i p → s.NoZone i p) ∨
  (d = 2 ∧ ∀ p, s.Matching i p → s.OverMass i p) ∨
  (d = 3 ∧ (∃ p, s.Matching i p ∧ ¬s.NoZone i p) ∧ ∃ p, s.Matching i p ∧ ¬s.OverMass i p)

/-- R81: the FIT_REFUSED report of a run. -/
def State.Refused (s : State) (i : Item) (x : FaultCtx) (d : Nat) : Prop := ∃ before o after,
  s.book.orders = before ++ o :: after ∧ s.Matching i o ∧ (∀ p ∈ before, ¬s.Matching i p) ∧
  (∀ p, s.Matching i p → s.NoZone i p ∨ s.OverMass i p) ∧ x = i.refusalCtx o ∧ s.RefusedDetail i d

theorem all_matching {f : Order → Bool} {P : Order → Prop} (hf : ∀ o, o.state = .building → (f o = true ↔ P o)) :
    (s.matchingLines i).all f = true ↔ ∀ p, s.Matching i p → P p := by
  simp only [List.all_eq_true, mem_matchingLines]
  exact forall_congr' fun p => imp_congr_right fun hp => hf p hp.2.1

/-- R81: the detail, where there is an order that matches. -/
theorem refusedDetail_iff (hp : s.Matching i p) (d : Nat) : s.RefusedDetail i d ↔
    (if (s.matchingLines i).all (fun o => s.fitOf? i o == some .noZone) then 1
      else if (s.matchingLines i).all (fun o => s.fitOf? i o == some .overMass) then 2 else 3) = d := by
  have hzone := all_matching (s := s) (i := i) (P := s.NoZone i) fun o ho => noZone_iff ho
  have hmass := all_matching (s := s) (i := i) (P := s.OverMass i) fun o ho => overMass_iff ho
  unfold State.RefusedDetail
  by_cases h1 : ∀ p, s.Matching i p → s.NoZone i p
  · have h2 : ¬∀ p, s.Matching i p → s.OverMass i p := fun h => not_overMass_of_noZone hp.2.1 (h1 p hp) (h p hp)
    have h3 : ¬∃ p, s.Matching i p ∧ ¬s.NoZone i p := fun ⟨q, hq, hn⟩ => hn (h1 q hq)
    rw [if_pos (hzone.2 h1)]
    simp only [eq_true h1, h2, h3, and_true, and_false, false_and, or_false, eq_comm]
  · have h3 : ∃ p, s.Matching i p ∧ ¬s.NoZone i p := by simpa using h1
    rw [if_neg (mt hzone.1 h1)]
    by_cases h2 : ∀ p, s.Matching i p → s.OverMass i p
    · have h4 : ¬∃ p, s.Matching i p ∧ ¬s.OverMass i p := fun ⟨q, hq, hn⟩ => hn (h2 q hq)
      rw [if_pos (hmass.2 h2)]
      simp only [h1, eq_true h2, h4, and_true, and_false, false_or, or_false, eq_comm]
    · have h4 : ∃ p, s.Matching i p ∧ ¬s.OverMass i p := by simpa using h2
      rw [if_neg (mt hmass.1 h2)]
      simp only [h1, h2, h3, h4, and_self, and_true, and_false, false_or, eq_comm]

/-- R81: the first of the orders that match. -/
theorem matchingLines_cons {before after : List Order} (hsplit : s.book.orders = before ++ o :: after) (ho : s.Matching i o)
    (hbefore : ∀ p ∈ before, ¬s.Matching i p) : ∃ rest, s.matchingLines i = o :: rest := by
  have hmem (q : Order) (hq : q ∈ s.book.orders) :
      (q.state == .building && q.lines.any (directMatch i)) = true ↔ s.Matching i q := by
    rw [← mem_matchingLines, State.matchingLines, List.mem_filter]
    exact ⟨fun h => ⟨hq, h⟩, fun h => h.2⟩
  rw [State.matchingLines, hsplit, List.filter_append, List.filter_eq_nil_iff.2 fun q hq h => hbefore q hq
    ((hmem q (by rw [hsplit]; exact List.mem_append_left _ hq)).1 h), List.nil_append,
    List.filter_cons_of_pos (p := fun q : Order => q.state == .building && q.lines.any (directMatch i)) ((hmem o ho.1).2 ho)]
  exact ⟨_, rfl⟩

theorem fitRefused?_iff (s : State) (i : Item) (x : FaultCtx) (d : Nat) : s.fitRefused? i = some (x, d) ↔ s.Refused i x d := by
  have hany := all_matching (s := s) (i := i)
    (f := fun o => s.fitOf? i o == some .noZone || s.fitOf? i o == some .overMass) (P := fun p => s.NoZone i p ∨ s.OverMass i p) fun o ho => by
    rw [Bool.or_eq_true, noZone_iff ho, overMass_iff ho]
  constructor
  · intro hf
    unfold State.fitRefused? at hf
    cases hos : s.matchingLines i with
    | nil => simp [hos] at hf
    | cons o rest =>
      simp only [hos, Option.ite_none_right_eq_some, Option.some.injEq, Prod.mk.injEq] at hf
      obtain ⟨hall, hx, hd⟩ := hf
      rw [← hos] at hall hd
      obtain ⟨before, after, hsplit, hbefore, -, -⟩ := List.filter_eq_cons_iff.1 hos
      have ho : s.Matching i o := (mem_matchingLines s i o).1 (by simp [hos])
      refine ⟨before, o, after, hsplit, ho, fun p hp hm => ?_, hany.1 hall, hx.symm, (refusedDetail_iff ho d).2 hd⟩
      have hmem := (mem_matchingLines s i p).2 hm
      exact hbefore p hp (List.mem_filter.1 hmem).2
  · rintro ⟨before, o, after, hsplit, ho, hbefore, hall, rfl, hd⟩
    obtain ⟨rest, hos⟩ := matchingLines_cons hsplit ho hbefore
    have hall' := hany.2 hall
    have hd' := (refusedDetail_iff ho d).1 hd
    rw [hos] at hall' hd'
    simp only [State.fitRefused?, hos, hall', if_true, hd']
    rfl

/-! ### CLASS_CONFLICT (R82) -/

/-- R82: a line of the item's SKU with another class. -/
def Item.Other (i : Item) (l : Line) : Prop := l.sku = i.sku ∧ l.cls ≠ i.cls

theorem other_iff (i : Item) (l : Line) : (l.sku == i.sku && l.cls != i.cls) = true ↔ i.Other l := by
  rw [Bool.and_eq_true, beq_iff_eq, bne_iff_ne, Item.Other]

/-- R82: the CLASS_CONFLICT report of a run. -/
def State.Conflict (s : State) (i : Item) (y : FaultCtx) (e : Nat) : Prop := ∃ before o after lines l rest,
  s.book.orders = before ++ o :: after ∧ o.state = .building ∧ o.lines = lines ++ l :: rest ∧ i.Other l ∧
  (∀ m ∈ lines, ¬i.Other m) ∧ (∀ p ∈ before, p.state = .building → ∀ m ∈ p.lines, ¬i.Other m) ∧
  y = i.refusalCtx o ∧ e = classCode l.cls

theorem classConflict?_iff (s : State) (i : Item) (y : FaultCtx) (e : Nat) :
    s.classConflict? i = some (y, e) ↔ s.Conflict i y e := by
  rw [State.classConflict?, List.findSome?_eq_some_iff]
  constructor
  · rintro ⟨before, o, after, hsplit, hfound, hbefore⟩
    obtain ⟨hb, hline⟩ := Option.ite_none_right_eq_some.1 hfound
    obtain ⟨l, hl, heq⟩ := Option.map_eq_some_iff.1 hline
    obtain ⟨hother, lines, rest, hlines, hnone⟩ := List.find?_eq_some_iff_append.1 hl
    refine ⟨before, o, after, lines, l, rest, hsplit, beq_iff_eq.1 hb, hlines, (other_iff i l).1 hother,
      fun m hm h => ?_, fun p hp hpb m hm h => ?_, (Prod.mk.inj heq).1.symm, (Prod.mk.inj heq).2.symm⟩
    · have hno := hnone m hm
      rw [(other_iff i m).2 h] at hno
      cases hno
    · have hno := hbefore p hp
      rw [if_pos (beq_iff_eq.2 hpb), Option.map_eq_none_iff] at hno
      exact List.find?_eq_none.1 hno m hm ((other_iff i m).2 h)
  · rintro ⟨before, o, after, lines, l, rest, hsplit, hb, hlines, hother, hnone, hbefore, rfl, rfl⟩
    refine ⟨before, o, after, hsplit, ?_, fun p hp => ?_⟩
    · have hfound : o.lines.find? (fun l => l.sku == i.sku && l.cls != i.cls) = some l :=
        List.find?_eq_some_iff_append.2 ⟨(other_iff i l).2 hother, lines, rest, hlines, fun m hm => by
          rw [Bool.eq_false_iff.2 (mt (other_iff i m).1 (hnone m hm))]
          rfl⟩
      rw [if_pos (beq_iff_eq.2 hb), hfound]
      rfl
    · rw [ite_eq_right_iff]
      intro hpb
      rw [Option.map_eq_none_iff, List.find?_eq_none]
      exact fun m hm h => hbefore p hp (beq_iff_eq.1 hpb) m hm ((other_iff i m).1 h)

/-! ### The reports of a run without a home -/

theorem fitRefused?_none (h : ∀ x d, ¬s.Refused i x d) : s.fitRefused? i = none :=
  Option.eq_none_iff_forall_ne_some.2 fun r hr => h r.1 r.2 ((fitRefused?_iff s i r.1 r.2).1 hr)

theorem classConflict?_none (h : ∀ y e, ¬s.Conflict i y e) : s.classConflict? i = none :=
  Option.eq_none_iff_forall_ne_some.2 fun r hr => h r.1 r.2 ((classConflict?_iff s i r.1 r.2).1 hr)

theorem runAllocation_winner (hi : s.item? tag = some i) (hw : s.winner? i = some c) : s.runAllocation tag = s.commit i c := by
  simp only [State.runAllocation, hi, hw]

theorem runAllocation_noWinner (hi : s.item? tag = some i) (hw : s.winner? i = none) :
    s.runAllocation tag = s.reportNoFit i := by
  simp only [State.runAllocation, hi, hw]

/-! ### The commit (R76 to R79) -/

/-- R77: the lowest FREE slot of a zone. -/
theorem freeSlot?_some {z : Zone} (hn : h.freeSlot? z = some n) : ∃ k, n = h.firstSlot z + k ∧ (h.zone z).slots[k]? = some .free ∧
    ∀ j < k, (h.zone z).slots[j]? ≠ some .free := by
  obtain ⟨k, hk, rfl⟩ := Option.map_eq_some_iff.1 hn
  obtain ⟨hlt, hfree, hbefore⟩ := List.findIdx?_eq_some_iff_getElem.1 hk
  refine ⟨k, rfl, by rw [List.getElem?_eq_getElem hlt, beq_iff_eq.1 hfree], fun j hj hc => ?_⟩
  have hno := hbefore j hj
  rw [List.getElem?_eq_getElem (hj.trans hlt), Option.some.injEq] at hc
  simp [hc] at hno

theorem freeSlot?_none {z : Zone} (hn : h.freeSlot? z = none) : SlotState.free ∉ (h.zone z).slots := fun hc => by
  have hno := List.findIdx?_eq_none_iff.1 (Option.map_eq_none_iff.1 hn) _ hc
  simp at hno

theorem commit_line (rank now : Nat) (l : Line) : l.commit rank now = { l with
    committed := l.committed + 1
    substituted := l.substituted + (if rank = 0 then 0 else 1)
    lastProgress := now }.settled := by
  unfold Line.commit
  split <;> rfl

theorem updOrder_twice (s : State) (slot : Nat) (f g : Order → Order) (hf : ∀ o, (f o).slot = o.slot) :
    (s.updOrder slot f).updOrder slot g = s.updOrder slot (fun o => g (f o)) := by
  simp only [updOrder_eq, List.map_map]
  congr 2
  refine List.map_congr_left fun o _ => ?_
  by_cases h : o.slot = slot
  · simp [h, hf]
  · simp [h]

/-- R78: where a commit sends the item. -/
def Candidate.point (c : Candidate) : Point := if c.source = .chute then .bench c.bench else .buffer

/-- R76 to R78: the state after a commit into slot n, before the pocket is asked for. -/
def State.committed (s : State) (i : Item) (c : Candidate) (n : Nat) : State :=
  { s with
    book := { s.book with orders := s.book.orders.map (fun o : Order => if o.slot = c.slot then { o with
      fragileBegun := o.fragileBegun || decide (i.cls = .fragile)
      lines := o.lines.modify (c.line - 1) (fun l : Line => { l with
        committed := l.committed + 1
        substituted := l.substituted + (if c.rank = 0 then 0 else 1)
        lastProgress := s.clock.minute }.settled) } else o) }
    benches := s.benches.map (fun y : Bench => if y.number = c.bench then { y with hamper := y.hamper.map (fun g : Hamper =>
      ({ g with mass := g.mass + i.mass }.updZone c.zone (fun z : ZoneRec =>
        { z with committed := z.committed + i.vu })).setSlot c.zone n .reserved) } else y)
    pool := if c.source = .chute then s.pool else
      { s.pool with freeItems := s.pool.freeItems - 1, freeVu := s.pool.freeVu - i.vu }
    chutes := s.chutes.map (fun k : Chute => if k.bench = c.bench then
      if c.source = .chute then { k with freeItems := k.freeItems - 1, freeVu := k.freeVu - i.vu }
      else { k with heldItems := k.heldItems + 1, heldVu := k.heldVu + i.vu } else k)
    items := s.items.map (fun j : Item => if j.tag = i.tag then { j with
      alloc := some ⟨c.slot, c.line, c.bench, c.rank, c.zone, n⟩
      wait := c.wait
      hold := if c.source = .chute then .chute c.bench else .common c.bench
      dest := some c.point } else j)
    bus := { s.bus with sent := s.bus.sent ++ [(.sorter, .route i.tag (some c.point))] } }

/-- R79: the pocket of a bench's hamper asked for. -/
def State.pocketAsked (u : State) (b : Nat) : State :=
  { u with
    benches := u.benches.map (fun y : Bench => if y.number = b then
      { y with hamper := y.hamper.map (fun g : Hamper => { g with pocket := .requested }) } else y)
    bus := { u.bus with sent := u.bus.sent ++ [(.bench b, .fitPocket)] } }

theorem askPocket_eq {b : Nat} (hh : s.hamper? b = some h) : s.askPocket b = if h.pocket = .none then s.pocketAsked b else s := by
  simp only [State.askPocket, hh, beq_iff_eq, updHamper_eq]
  rfl

theorem commit_eq (hh : s.hamper? c.bench = some h) (hn : h.freeSlot? c.zone = some n) : s.commit i c =
    if i.cls = .chilled then (s.committed i c n).askPocket c.bench else s.committed i c n := by
  have hlines : (s.updLine c.slot c.line (Line.commit c.rank s.clock.minute)).updOrder c.slot
      (fun o => if i.cls == .fragile then { o with fragileBegun := true } else o) = s.updOrder c.slot (fun o => { o with
        fragileBegun := o.fragileBegun || decide (i.cls = .fragile)
        lines := o.lines.modify (c.line - 1) (fun l : Line => { l with
          committed := l.committed + 1
          substituted := l.substituted + (if c.rank = 0 then 0 else 1)
          lastProgress := s.clock.minute }.settled) }) := by
    rw [State.updLine, updOrder_twice, funext (commit_line c.rank s.clock.minute)]
    · congr 1
      funext o
      by_cases hf : i.cls = .fragile <;> simp [hf]
    · exact fun _ => rfl
  have hdone (v : State) (hv : v = s.committed i c n) : (if i.cls == .chilled then v.askPocket c.bench else v) =
      if i.cls = .chilled then (s.committed i c n).askPocket c.bench else s.committed i c n := by
    subst hv
    simp only [beq_iff_eq]
  simp only [State.commit, hh, Option.bind_some, hn, Option.getD_some, hlines]
  refine hdone _ ?_
  simp only [updOrder_eq, updHamper_eq, State.takeChute, State.takeCommon, updChute_eq, updItem_eq]
  unfold State.committed Candidate.point
  cases hsrc : c.source
  · simp only [if_true, State.destOf, State.holdOf, hsrc]
    rfl
  · simp only [reduceCtorEq, if_false, State.destOf, State.holdOf, hsrc]
    rfl

theorem reserved_pocket (z : Zone) (m vu : Nat) (g : Hamper) :
    (({ g with mass := g.mass + m }.updZone z (fun y : ZoneRec => { y with committed := y.committed + vu })).setSlot z n
      .reserved).pocket = g.pocket := by
  cases z <;> rfl

/-- R77: the hamper of a commit keeps its pocket. -/
theorem committed_hamper (hh : s.hamper? c.bench = some h) (i : Item) (n : Nat) :
    ∃ g, (s.committed i c n).hamper? c.bench = some g ∧ g.pocket = h.pocket := by
  obtain ⟨x, hx, hxh⟩ := (hamper?_iff s c.bench).1 hh
  have hthere := bench_updBench_same hx (fun y => { y with hamper := y.hamper.map (fun g : Hamper =>
    ({ g with mass := g.mass + i.mass }.updZone c.zone (fun z : ZoneRec =>
      { z with committed := z.committed + i.vu })).setSlot c.zone n .reserved) })
  rw [updBench_eq] at hthere
  exact ⟨_, (hamper?_iff _ c.bench).2 ⟨_, hthere, by rw [hxh]; rfl⟩, reserved_pocket c.zone i.mass i.vu h⟩

/-- R76 to R79: a run that has a winner. -/
theorem runAllocation_commits (hi : s.item? tag = some i) (hw : s.winner? i = some c) (hh : s.hamper? c.bench = some h)
    (hn : h.freeSlot? c.zone = some n) : s.runAllocation tag =
      if i.cls = .chilled ∧ h.pocket = .none then (s.committed i c n).pocketAsked c.bench else s.committed i c n := by
  obtain ⟨g, hg, hpocket⟩ := committed_hamper hh i n
  rw [runAllocation_winner hi hw, commit_eq hh hn, askPocket_eq hg, hpocket, ite_and]

/-- Settles O60: the winner by the two passes, the commit by its parts, and the reports where there is no winner. -/
theorem allocationChoosesTheBest : Obligations.AllocationChoosesTheBest := by
  intro s tag i hi
  obtain rfl := item?_tag hi
  intro score room zoned wait chute common candidate before sought matching meets noZone overMass refused other conflict
  have hrefused (x : FaultCtx) (d : Nat) (h : refused x d) : s.fitRefused? i = some (x, d) := (fitRefused?_iff s i x d).2 h
  have hconflict (y : FaultCtx) (e : Nat) (h : conflict y e) : s.classConflict? i = some (y, e) :=
    (classConflict?_iff s i y e).2 h
  have hcandidate (c : Candidate) : candidate c ↔ s.IsCandidate i c := by
    constructor
    · rintro ⟨o, l, x, h, v, k, ho, hslot, hn, hl, hcls, hb, hob, hx, hst, hr, hv, hin, hh, hz, hm, hw, hk, hcr, hsc, hage, hrank⟩
      exact ⟨o, l, ho, hslot, hn, hl, hcls,
        ⟨x, h, v, k, hb, hob, hx, hst, hr, hv, hin, hh, hz, hm, hw, hk, hcr, hsc, hage⟩, hrank⟩
    · rintro ⟨o, l, ho, hslot, hn, hl, hcls,
        ⟨x, h, v, k, hb, hob, hx, hst, hr, hv, hin, hh, hz, hm, hw, hk, hcr, hsc, hage⟩, hrank⟩
      exact ⟨o, l, x, h, v, k, ho, hslot, hn, hl, hcls, hb, hob, hx, hst, hr, hv, hin, hh, hz, hm, hw, hk, hcr, hsc, hage, hrank⟩
  refine ⟨fun hw => ⟨fun d hd => winner?_none hw d ((hcandidate d).1 hd), fun hx hy => ?_, fun x d hx hy => ?_,
    fun y e hy hx => ?_, fun x d y e hx hy => ?_⟩, fun h z n => freeSlot?_some, fun h z => freeSlot?_none,
    fun c hw => ⟨(hcandidate c).2 (winner?_some hw).1, fun d hd => (winner?_some hw).2 d ((hcandidate d).1 hd),
      fun h n hh hn => runAllocation_commits hi hw hh hn⟩⟩
  · rw [runAllocation_noWinner hi hw, State.reportNoFit, fitRefused?_none hx, classConflict?_none hy]
  · rw [runAllocation_noWinner hi hw, State.reportNoFit, hrefused x d hx, classConflict?_none hy]
  · rw [runAllocation_noWinner hi hw, State.reportNoFit, fitRefused?_none hx, hconflict y e hy]
  · rw [runAllocation_noWinner hi hw, State.reportNoFit, hrefused x d hx, hconflict y e hy]
    exact eitherOrder_cases _ _ s

end Sys2Proof.Machine
end
